-- ==== Sys2Proof/Word.lean ====
section
/-! DEFINITION. The word types of the fabric's registers and memory (18 R354: every set-up word is 64 bits;
flag words are 32 bits, 08 R146). -/

namespace Sys2Proof

/-- A byte of device memory or of a frame. -/
abbrev Byte := BitVec 8

/-- A 32-bit flag word (R146). -/
abbrev Word32 := BitVec 32

/-- A 64-bit set-up word or descriptor word (R354, R175). -/
abbrev Word64 := BitVec 64

end Sys2Proof
end

