-- ==== Sys2Proof/Syntax.lean ====
section
/-! DEFINITION. The commands of the block: one constructor of `Instr` for each row of spec/opcode_table.json,
with its operands, and the operand types (a frame on the wire, a failed check, an inline access). -/

namespace Sys2Proof

/-- The Dravti header (R246, Table 12.3), field by field. -/
structure FrameHdr where
  version : Nat := 1
  ftype : Nat := 0
  domain : Nat := 0
  job : Nat := 0
  ticket : Nat := 0
  bucket : Nat := 0
  chunk : Nat := 0
  course : Nat := 0
  src : Nat := 0
  dst : Nat := 0
  pfmt : Nat := 0
  plen : Nat := 0
  mlen : Nat := 0
  qlen : Nat := 0
  seq : Nat := 0
  flags : Nat := 0
  kind : Nat := 0
  deriving DecidableEq, Repr, Inhabited

/-- A frame as the PE passes it to the MAC: header and payload (R243, R246). -/
structure Frame where
  hdr : FrameHdr := {}
  payload : List Byte := []
  deriving DecidableEq, Repr, Inhabited

/-- A received frame (R249, R350): what the MAC says of its FCS, the parity of its beats (R347), what the check of its UDP
checksum finds under ENCAP 1 (R243), its EtherType or UDP destination port, and the frame. -/
structure RxFrame where
  fcsErr : Bool := false
  parityOk : Bool := true
  udpOk : Bool := true
  proto : Nat := 0x88B5
  frame : Frame := {}
  deriving DecidableEq, Repr, Inhabited

/-- What failed in a check of Table 15.1 (KIND of Table 15.4). -/
inductive ErrKind where
  | secdedCorr | secdedUncorr | parity | residue
  deriving DecidableEq, Repr, Inhabited

/-- A failed check (R297, R301): the unit, its quire, the kind, the syndrome field, whether the data exists only inside the
fabric (R306), and the place where the work does not give it: the inline window and block of a write-combining entry, the
frame of the link interface, the table entry of the always-on island, the tile slot. `seq` names the affected descriptor
where it is not the one whose strip would issue, `eng` the engine where no context's work is affected; `chunk` is the window
chunk from which failing data was read, `addr` its device address where it was read outside any window. -/
structure Detection where
  unit : Nat := 0
  quire : Nat := 0
  kind : ErrKind := .residue
  synd : Nat := 0
  inside : Bool := false
  win : Nat := 0
  loc : Nat := 0
  seq : Option Nat := none
  eng : Option Nat := none
  chunk : Option (Nat × Nat) := none
  addr : Option Nat := none
  deriving DecidableEq, Repr, Inhabited

/-- A step of a drain (R91, R99, R100): the slot of the descriptor that asked for it, and a check that fails in it. -/
structure DrainStep where
  seq : Nat := 0
  det : Option Detection := none
  deriving DecidableEq, Repr, Inhabited

/-- Who asks for an inline access: the request's TAG and the PD of its core (R285, R349, Table 17.9). -/
structure Asker where
  tag : Nat := 0
  pd : Nat := 0
  deriving DecidableEq, Repr, Inhabited

/-- What an inline access or a merge meets in one part (R161, R301, R307, R347): the stack's data arrives, arrives with an
uncorrectable error or with bad parity, or a check of the fabric fails. -/
inductive PartStatus where
  | ok
  | stackErr
  | parity
  | failed (k : Detection)
  deriving DecidableEq, Repr, Inhabited

/-- The outcome of a boundary response (R348, R349). -/
inductive RespStatus where
  /-- data read or an acknowledgement -/
  | ok
  /-- an uncorrectable error, a poisoned read or a completion error (R307) -/
  | error
  /-- bad parity on the response channel (R347) -/
  | parity
  /-- the ribbon marker returned on the response channel (R332) -/
  | marker
  deriving DecidableEq, Repr, Inhabited

/-- What a boundary response answers: an outstanding request by its tag, a read that the stream units make for a
descriptor (context, SEQ) of a window's chunk, or a read outside windows for it (its words, its parameter block). -/
inductive RespFor where
  | tag (t : Nat)
  | read (c seq win chunk : Nat)
  | block (c seq addr : Nat)
  deriving DecidableEq, Repr, Inhabited

/-- The commands: one constructor per row of the opcode table, in the table's order. -/
inductive Instr where
  | convert (c : Nat)
  | quantise (c : Nat)
  | dequantise (c : Nat)
  | rotate (c : Nat)
  | fold (c : Nat)
  | reduce (c : Nat)
  | stats (c : Nat)
  | sample (c : Nat)
  | fillRandom (c : Nat)
  | recipe (c : Nat)
  | collective (c : Nat)
  | rebond (c : Nat)
  | ticketLease (c : Nat)
  | signature (c : Nat)
  | fence (c : Nat)
  | ribbon (c : Nat)
  | saveContext (c : Nat)
  | restoreContext (c : Nat)
  | drain (c : Nat)
  | nop (c : Nat)
  | descriptorFetch (c : Nat)
  | stripIssue (c : Nat) (det : Option Detection)
  | flagPoll (c seq : Nat) (word : Word32)
  | chunkDone (c seq win chunk : Nat)
  | drainExchange (c : Nat) (step : DrainStep)
  | outputStage (c : Nat) (step : DrainStep)
  | completionWrite (c seq : Nat)
  | contextResident (e : Nat)
  | contextImageWrite (c seq : Nat)
  | doorbell (isWrite parityOk : Bool) (off size : Nat) (value : Word64)
  | inlineRead (parityOk : Bool) (parts : List PartStatus) (addr : Nat) (who : Asker) (len : Nat)
  | inlineWrite (parityOk : Bool) (parts : List PartStatus) (addr : Nat) (who : Asker) (data : List (Option Byte))
  | merge (se i block : Nat) (part : PartStatus)
  | inlineActivate (i : Nat)
  | stackResponse (e : Nat) (r : RespFor) (st : RespStatus)
  | networkResponse (e : Nat) (r : RespFor) (st : RespStatus) (data : Word32)
  | data (pe : Nat) (f : RxFrame)
  | ack (pe : Nat) (f : RxFrame)
  | nak (pe : Nat) (f : RxFrame)
  | credit (pe : Nat) (f : RxFrame)
  | announce (pe : Nat) (f : RxFrame)
  | abort (pe : Nat) (f : RxFrame)
  | heartbeat (pe : Nat) (f : RxFrame)
  | leaseReq (pe : Nat) (f : RxFrame)
  | leaseGrant (pe : Nat) (f : RxFrame)
  | mark (pe : Nat) (f : RxFrame)
  | markAck (pe : Nat) (f : RxFrame)
  | join (pe : Nat) (f : RxFrame)
  | joined (pe : Nat) (f : RxFrame)
  | elected (pe : Nat) (f : RxFrame)
  | bucketIssue (c seq : Nat)
  | chainStart (c seq chain : Nat)
  | heartbeatTimer (pe dev : Nat)
  | declareLost (pe dev : Nat)
  | lostProbe (pe dev : Nat)
  | ackTimer (pe job ticket src : Nat)
  | creditDelay (pe job ticket src : Nat)
  | creditRepeat (pe job ticket src : Nat)
  | retransmitTimeout (pe job ticket dst : Nat)
  | joinRetry
  | leaseRetry (c seq : Nat)
  | leaseTimeout (c seq : Nat)
  | linkDown (pe : Nat)
  | linkUp (pe : Nat)
  | pauseIn (pe prio : Nat) (on : Bool)
  | selfTestStart (e unit quire : Nat)
  | selfTestEnd (e unit quire : Nat) (pass : Bool) (pattern us : Nat)
  | samplePoint (e : Nat)
  | powerCapPeriod
  | clockChange (e : Nat)
  | watchIdleTimeout (e : Nat)
  | tracePortTraining
  | aggregateRecord
  | ribbonGrant
  | ribbonMarker (e : Nat)
  | cutCapture (e : Nat)
  | epochDelivery (e : Nat)
  | epochDoneRise
  | islandPowerGood (e : Nat)
  | pllLock (e : Nat)
  | sramClearDone (e : Nat)
  | bootSelfTestEnd (e : Nat) (pass : Bool) (unit quire pattern us : Nat)
  | quiesceEnd (e : Nat)
  | windowDefine (w : Nat) (v : Word64) (be : BitVec 8)
  | windowWithdraw (w : Nat) (v : Word64) (be : BitVec 8)
  | windowEdit (w word : Nat) (v : Word64) (be : BitVec 8)
  | pdWrite (d word : Nat) (v : Word64) (be : BitVec 8)
  | inlineEnable (i : Nat) (v : Word64) (be : BitVec 8)
  | inlineDisable (i : Nat) (v : Word64) (be : BitVec 8)
  | flush (i : Nat) (v : Word64) (be : BitVec 8)
  | contextEnable (c : Nat) (v : Word64) (be : BitVec 8)
  | contextDisable (c : Nat) (v : Word64) (be : BitVec 8)
  | domainJoin (v : Word64) (be : BitVec 8)
  | domainLeave (v : Word64) (be : BitVec 8)
  | erron (v : Word64) (be : BitVec 8)
  | load (v : Word64) (be : BitVec 8)
  | imgdata (v : Word64) (be : BitVec 8)
  | commit (v : Word64) (be : BitVec 8)
  | engineEnable (e : Nat) (v : Word64) (be : BitVec 8)
  | engineDisable (e : Nat) (v : Word64) (be : BitVec 8)
  | linken (pe : Nat) (v : Word64) (be : BitVec 8)
  | freq (e : Nat) (v : Word64) (be : BitVec 8)
  | snap (v : Word64) (be : BitVec 8)
  | traceOn (v : Word64) (be : BitVec 8)
  | traceOff (v : Word64) (be : BitVec 8)
  | release (v : Word64) (be : BitVec 8)
  | stopall (v : Word64) (be : BitVec 8)
  | rcRead (off : Nat)
  | registerWrite (parityOk : Bool) (off : Nat) (v : Word64) (be : BitVec 8)
  | testAccessWrite (e sel : Nat) (v : Word64)
  | aonRstAssert
  | aonRstRelease (stable : Bool)
  | aonPgRise
  | fabRstAssert
  | fabRstRelease
  | vddFabPgLow (d : Nat)
  | vddFabPgHigh (d : Nat)
  | vddAonPgLow
  | vddAonPgHigh
  | watchStartingEnd (e : Nat)
  deriving DecidableEq, Repr, Inhabited

end Sys2Proof
end

