-- ==== Sys2Proof/Machine/Types.lean ====
section
/-! DEFINITION. The plain data that State is made of. Every field's default value is its reset value (18 R359:
the Reset columns of the tables), so `{}` is the value after AON_RST_N. -/

namespace Sys2Proof.Machine

/-! ## Tables of the always-on island -/

/-- A window table entry (R143, Table 8.1). `base` and `flags` are the field values, `grants` is word 3. -/
structure Window where
  valid : Bool := false
  flagged : Bool := false
  refused : Bool := false
  chunk : Nat := 4
  owner : Nat := 0
  size : Nat := 0
  base : Nat := 0
  flags : Nat := 0
  grants : Nat := 0
  deriving DecidableEq, Repr, Inhabited

/-- A PD table entry (R278, Table 14.1). -/
structure PdEntry where
  valid : Bool := false
  ctxAdm : Bool := false
  ribbon : Bool := false
  refused : Bool := false
  deriving DecidableEq, Repr, Inhabited

/-- The fields of an inline window entry that software sets (Table 8.2). -/
structure InlineSet where
  initSt : Bool := false
  sharedRd : Bool := false
  stack : Nat := 0
  view : Nat := 0
  pd : Nat := 0
  vbase : Nat := 0
  vlen : Nat := 0
  pbase : Nat := 0
  format : Nat := 0
  seed : Nat := 0
  deriving DecidableEq, Repr, Inhabited

/-- An inline window entry (R154, Table 8.2). `reg` is the entry as software reads it, `use` what the window serves by: a
write that clears ENABLE may change `reg` while the flush still runs by `use` (R357, log 14). `heldEnable` is an enable written during a flush (R160),
`initPending` an accepted enable whose block states are not written yet (R155), `disabling` a flush that a disable
started, `flushAgain` a FLUSH written while FLUSHING is 1 (R363), `lost` the blocks whose buffered writes were lost
to an uncorrectable error (R306). -/
structure InlineWin where
  enable : Bool := false
  active : Bool := false
  flushing : Bool := false
  refused : Bool := false
  reg : InlineSet := {}
  use : InlineSet := {}
  satCnt : Nat := 0
  flushCnt : Nat := 0
  nonfin : Bool := false
  heldEnable : Bool := false
  initPending : Bool := false
  disabling : Bool := false
  flushAgain : Bool := false
  lost : List Nat := []
  deriving DecidableEq, Repr, Inhabited

/-- A write-combining entry (R158): its window and block, the bytes written into it (offset in the block's wide
bytes, value), newest last, the order stamp of its latest write, and whether a flush in progress covers it (R160). -/
structure WcEntry where
  win : Nat := 0
  block : Nat := 0
  data : List (Nat × Byte) := []
  stamp : Nat := 0
  inFlush : Bool := false
  deriving DecidableEq, Repr, Inhabited

/-! ## Command states (Tables 14.5 to 14.7) -/

/-- A Welford state (R110). -/
structure Wst where
  n : Nat := 0
  mean : Nat := 0
  m2 : Nat := 0
  deriving DecidableEq, Repr, Inhabited

/-- A `row_stats` state (R138). -/
structure Sst where
  used : Bool := false
  m : Nat := 0
  s : Nat := 0
  w : Nat := 0
  deriving DecidableEq, Repr, Inhabited

/-- The exact accumulator of R106: a multiple of 2^-149 and the class bits of Table 14.7. -/
structure Xacc where
  sum : Int := 0
  nan : Bool := false
  posInf : Bool := false
  negInf : Bool := false
  allNegZero : Bool := true
  used : Bool := false
  deriving DecidableEq, Repr, Inhabited

/-- An extreme record (R111, Table 14.7). -/
structure Extreme where
  used : Bool := false
  value : Nat := 0
  col : Nat := 0
  deriving DecidableEq, Repr, Inhabited

/-- The state of one reduction in the row it is in (R102 to R112, R209). Partials are listed by index. -/
structure RedSt where
  parts : List (Nat × Nat) := []
  wels : List (Nat × Wst) := []
  ssts : List (Nat × Sst) := []
  acc : Xacc := {}
  ext : Extreme := {}
  s0 : Nat := 0
  deriving DecidableEq, Repr, Inhabited

/-- A kept top-k entry (R136, Table 14.7). -/
structure KEntry where
  col : Nat := 0
  z : Nat := 0
  s : Nat := 0
  deriving DecidableEq, Repr, Inhabited

/-- A sampler row in a sequence slot (R136 to R142). `rec` is its row record as read. -/
structure RowSt where
  row : Nat := 0
  col : Nat := 0
  record : Nat := 0
  best : Nat := 0
  bestCol : Nat := 0
  bestZ : Nat := 0
  any : Bool := false
  nonfin : Bool := false
  kept : List KEntry := []
  parts : List (Nat × Sst) := []
  deriving DecidableEq, Repr, Inhabited

/-- The watch state (R120 to R122): the counts, extremes, Welford partials, histogram and CRCs of what was observed:
`crc` of the element stream (with the bits of a byte that is not complete), `crcM` and `crcQ` of the mortar and quoin
planes with their lengths, which follow it in the order of R122. -/
structure WatchSt where
  count : Nat := 0
  fin : Nat := 0
  nanc : Nat := 0
  infc : Nat := 0
  min : Option Nat := none
  max : Option Nat := none
  absmax : Nat := 0
  wels : List (Nat × Wst) := []
  hist : List (Nat × Nat) := []
  crc : Nat := 0
  bitBuf : Nat := 0
  bitLen : Nat := 0
  crcM : Nat := 0
  lenM : Nat := 0
  crcQ : Nat := 0
  lenQ : Nat := 0
  deriving DecidableEq, Repr, Inhabited

/-- A chunk that a descriptor uses (R148, R149, R153): `phase` 0 swap to CLAIMED outstanding, 1 CLAIMED, 2 swap to DONE
outstanding, 3 swap to FAULTED outstanding, 4 wanted and not READY, 5 finished (R186), 6 FAULTED, 7 wanted and no tracker
free. `touched` says that its bytes have been accessed (R283). -/
structure Claim where
  win : Nat := 0
  chunk : Nat := 0
  phase : Nat := 0
  touched : Bool := false
  deriving DecidableEq, Repr, Inhabited

/-- A drain of a tile region (R99, R100): of FOLD and DRAIN (`mac` 0) or of a recipe MAC (its word index). -/
structure DrainReq where
  bf16 : Bool := false
  tile : Nat := 0
  m : Nat := 0
  n : Nat := 0
  out : Bool := false
  exchanged : Bool := false
  mac : Nat := 0
  deriving DecidableEq, Repr, Inhabited

/-- A run of output elements that a COLLECTIVE or REBOND has written, kept for its watch (R123, R275): the first output
index, the codes, for a packed output the scale and the quoin words of each ashlar, and the row scale of a REBOND's piece. -/
structure WSeg where
  lo : Nat := 0
  codes : List Nat := []
  scales : List Nat := []
  quoins : List Nat := []
  rs : Option Nat := none
  deriving DecidableEq, Repr, Inhabited

/-- The states of a command as they stood at the start of the chunk that it is working on, to which a redo returns (R81,
R116, R142, R216, R305): the chunk, the progress, the counts, the watch, the rows and partials, and the bytes of the tiles
that a recipe accumulates in. -/
structure Ckpt where
  on : Bool := false
  key : List Nat := []
  cursor : Nat := 0
  pass : Nat := 0
  sat : Nat := 0
  flush : Nat := 0
  aux : Nat := 0
  nonfin : Bool := false
  firstNf : Nat := 0xFFFFFFFFFF
  events : List (Nat × Nat) := []
  longsum : Bool := false
  watch : WatchSt := {}
  reds : List RedSt := []
  rows : List RowSt := []
  drains : List DrainReq := []
  tiles : List (Nat × Byte) := []
  deriving DecidableEq, Repr, Inhabited

/-- What a restored descriptor brings from its image (R292): its cursor, and the counts and index of the elements below it,
which no event of this engine lists. -/
structure Prior where
  cursor : Nat := 0
  sat : Nat := 0
  flush : Nat := 0
  aux : Nat := 0
  nonfin : Bool := false
  firstNf : Nat := 0xFFFFFFFFFF
  deriving DecidableEq, Repr, Inhabited

/-- The part of a COLLECTIVE or REBOND that is in progress (R236, R237): `phase` 0 not issued, 1 OPEN, 2 SETTLING; the group
as read at admission (R219); the chains started; the frames worked on, as (role of R242, chunk, half, sender's rank,
COURSE); what was written; whether the abort of R241 has been sent. -/
structure CollRun where
  phase : Nat := 0
  members : List Nat := []
  self : Nat := 0
  started : List Nat := []
  received : List (Nat × Nat × Nat × Nat × Nat) := []
  wrote : List WSeg := []
  aborted : Bool := false
  deriving DecidableEq, Repr, Inhabited

/-- A fetched descriptor (R171 to R187): its words, its slot index, and its run state. `status` is an ending decided
by admission or by an opcode's own outcome; `ends` are pending endings (R184); `early` marks a failed admission check
(R181); `tag` is the epoch tag (R283); `events` lists the output elements with events, as (index, 1 saturated + 2 flushed +
4 nonfinite + 8 times what AUX counted there); `island` says that the always-on island writes the completion (R308). `pos`
counts the positions of the strips issued (R13), `cursor` what is done of them; `held` are residual codes that wait for
their chunk (R81); `before` are bytes of its sources that its own writes replaced, oldest first. -/
structure Desc where
  seq : Nat := 0
  words : List Nat := []
  par : List Nat := []
  admitted : Bool := false
  started : Bool := false
  status : Option Nat := none
  early : Bool := false
  ends : List Nat := []
  finished : Bool := false
  tag : Nat := 0
  cursor : Nat := 0
  pos : Nat := 0
  pass : Nat := 0
  sat : Nat := 0
  flush : Nat := 0
  aux : Nat := 0
  nonfin : Bool := false
  firstNf : Nat := 0xFFFFFFFFFF
  events : List (Nat × Nat) := []
  prior : Prior := {}
  held : List (Nat × Nat) := []
  before : List (Nat × List Byte) := []
  ckpt : Ckpt := {}
  island : Bool := false
  longsum : Bool := false
  rescale : Bool := false
  dropped : Bool := false
  watch : WatchSt := {}
  claims : List Claim := []
  reds : List RedSt := []
  rows : List RowSt := []
  drains : List DrainReq := []
  coll : CollRun := {}
  leaseAsked : Bool := false
  leaseTicket : Option Nat := none
  deriving DecidableEq, Repr, Inhabited

/-- What the present fclk knows of a context's counters (R317 to R319): the descriptor whose start came last in it, the
counters as a sample point of this fclk holds them, and whether the fclk has been counted as one of ISSUE, of CMD_ISSUE, and
of those of the sample; `past` that the fclk which has just ended had a start. -/
structure FclkSt where
  starter : Option Nat := none
  past : Bool := false
  issued : Bool := false
  cmdIssued : Bool := false
  atIssued : Bool := false
  deriving DecidableEq, Repr, Inhabited

/-- Counters of a context record (R317, Table 16.3). -/
structure CtxCounters where
  issue : Nat := 0
  wait : Nat := 0
  inElems : Nat := 0
  outElems : Nat := 0
  done : Nat := 0
  sat : Nat := 0
  flush : Nat := 0
  nonfin : Nat := 0
  cmdSeq : Nat := 0
  cmdValid : Bool := false
  cmdIssue : Nat := 0
  cmdWait : Nat := 0
  cmdIn : Nat := 0
  cmdOut : Nat := 0
  deriving DecidableEq, Repr, Inhabited

/-- The fields of a context set-up entry that software sets (Table 9.1). -/
structure CtxSet where
  pd : Nat := 0
  engine : Nat := 0
  tileSlots : Nat := 0
  sqLog2 : Nat := 6
  sqBase : Nat := 0
  cqLog2 : Nat := 6
  cqBase : Nat := 0
  watchSlots : Nat := 0
  watchBase : Nat := 0
  paramBase : Nat := 0
  deriving DecidableEq, Repr, Inhabited

/-- A context: its set-up entry (R165, Table 9.1) and what its engine holds for it. `reg` is the entry as software reads
it, `use` the fields under which the context was enabled: a context that is leaving keeps them (log 14). `phase` is the PHASE of the next
completion record (R172); `reEnable` an enable held until the context has left (R168); `saving` and `restoring` a
SAVE_CONTEXT or RESTORE_CONTEXT that has it as target; `rang` that a doorbell was accepted since enable (R288);
`heldDb` doorbells held (R295, R333); `atPoint` the counters that a sample point in the present fclk takes once a descriptor has started in it, `now`
what that fclk has counted (R317 to R319); `live` and `shadow` the bytes of its tile slots (R95 to R100). -/
structure Ctx where
  enable : Bool := false
  resident : Bool := false
  refused : Bool := false
  ringErr : Bool := false
  reg : CtxSet := {}
  use : CtxSet := {}
  sqTail : Nat := 0
  sqHead : Nat := 0
  cqTail : Nat := 0
  cqHead : Nat := 0
  phase : Bool := true
  reEnable : Bool := false
  saving : Bool := false
  restoring : Bool := false
  rang : Bool := false
  heldDb : List Nat := []
  descs : List Desc := []
  live : List (Nat × Byte) := []
  shadow : List (Nat × Byte) := []
  cnt : CtxCounters := {}
  atPoint : CtxCounters := {}
  now : FclkSt := {}
  dbDrop : Nat := 0
  lastTicket : Nat := 0
  deriving DecidableEq, Repr, Inhabited

/-! ## Engines -/

/-- The states of an engine (R345) and of its functions (R346). -/
inductive EngState where
  | off | starting | on | quiescing
  deriving DecidableEq, Repr, Inhabited

/-- The counters of a sample record (Table 16.1). -/
structure Counters where
  fclk : Nat := 0
  active : Nat := 0
  stallMem : Nat := 0
  stallSync : Nat := 0
  stallTest : Nat := 0
  rescales : Nat := 0
  elemsIn : List (Nat × Nat) := []
  elemsOut : List (Nat × Nat) := []
  ops : List (Nat × Nat) := []
  sat : Nat := 0
  flush : Nat := 0
  nonfin : Nat := 0
  scaleOvf : Nat := 0
  errCorr : Nat := 0
  errUncorr : Nat := 0
  errParity : Nat := 0
  errResidue : Nat := 0
  flagViol : Nat := 0
  trDrop : Nat := 0
  inlineCnt : Nat := 0
  deriving DecidableEq, Repr, Inhabited

/-- An error record (R301, Table 15.3), field by field. -/
structure ErrRec where
  time : Nat := 0
  loc : Nat := 0
  win : Nat := 0
  context : Nat := 0
  seq : Nat := 0
  ref : Nat := 0
  synd : Nat := 0
  uniterr : Nat := 0
  engine : Nat := 0
  unit : Nat := 0
  quire : Nat := 0
  kind : Nat := 0
  lockind : Nat := 0
  cls : Nat := 0
  noctx : Bool := false
  redo : Bool := false
  phase : Bool := false
  type : Nat := 1
  deriving DecidableEq, Repr, Inhabited

/-- A targeted self-test (R302): the unit, the detection record it answers, whether a chunk is redone after it
(R305), and whether the test has started. -/
structure SelfTest where
  unit : Nat := 0
  quire : Nat := 0
  record : ErrRec := {}
  redo : Bool := false
  started : Bool := false
  deriving DecidableEq, Repr, Inhabited

/-- A part of an inline access that an engine has accepted and holds (R304, R333): the epoch under which it was accepted
(R285), what the stack answers, the access (`acc`) and the place in it that its response has (R161). -/
structure HeldInline where
  isWrite : Bool := false
  tag : Nat := 0
  addr : Nat := 0
  pd : Nat := 0
  len : Nat := 0
  data : List (Option Byte) := []
  epoch : Nat := 0
  part : PartStatus := .ok
  acc : Nat := 0
  idx : Nat := 0
  deriving DecidableEq, Repr, Inhabited

/-- An inline access of which a part is held: its tag, the next part to answer, the parts, and the responses that wait for an
earlier part, as (part, code, data) (R161). -/
structure OpenAccess where
  id : Nat := 0
  tag : Nat := 0
  next : Nat := 0
  parts : Nat := 0
  done : List (Nat × Nat × List Byte) := []
  deriving DecidableEq, Repr, Inhabited

/-- A response held during a ribbon hold (R333). -/
structure HeldResp where
  net : Bool := false
  target : RespFor := .tag 0
  st : RespStatus := .ok
  data : Word32 := 0
  deriving DecidableEq, Repr, Inhabited

/-- The ribbon's state at an engine (R332 to R334): taking part, cut point passed, the fclk of the cut point ended and its
counters fixed, captured, the tag and mode of the marker, t_c, the response channels that have returned the marker, and the
counters fixed at the end of t_c. -/
structure Cut where
  part : Bool := false
  marked : Bool := false
  fixed : Bool := false
  captured : Bool := false
  hold : Bool := false
  tag : Nat := 0
  tc : Nat := 0
  respMarks : Nat := 0
  frozen : Counters := {}
  deriving DecidableEq, Repr, Inhabited

/-- An item on the channel from the always-on island to an engine (R18): a protection epoch (R283), a ribbon marker with
its tag and mode (R331). -/
inductive ChanItem where
  | epoch (n : Nat)
  | marker (tag : Nat) (hold : Bool)
  deriving DecidableEq, Repr, Inhabited

/-- A recipe cache entry (R215). -/
structure CacheEntry where
  ctx : Nat := 0
  param : Nat := 0
  words : List Nat := []
  deriving DecidableEq, Repr, Inhabited

/-- A request that the fabric makes of memory, on the compute network (`net`) or the port of an SE's stack (R348, R349), in
the order made. `sent` says that it has its tag and stands at the boundary, its response outstanding. `kind` 0 write of a
descriptor, 1 compare-and-swap to CLAIMED, 2 to DONE, 3 to FAULTED, 4 write of a record, 5 ribbon marker (R332), 6 write of
inline service. -/
structure Req where
  tag : Nat := 0
  sent : Bool := false
  net : Bool := false
  kind : Nat := 0
  ctx : Nat := 0
  seq : Nat := 0
  win : Nat := 0
  chunk : Nat := 0
  addr : Nat := 0
  data : List Byte := []
  expect : Nat := 0
  deriving DecidableEq, Repr, Inhabited

/-- An engine (Tables 17.1, 12.2, 18.5 and the units of Table 1.2). `startStep` counts the parts of STARTING that are
done (R345): 1 power good, 2 PLL locked, 3 SRAMs cleared. `sampEff` and `ctxEff` say that sampling was on at the last sample point (R346). `issued` says that work
issued in the present fclk (R314), `frac` is the part of an fclk in thousandths. `chan` is the channel from the always-on
island, oldest item first (R18). `lfsr` holds the lanes' pattern sources (R303).
`lastPoint` is the fclk count of the last sample point (R316). `credit` is the trace budget in hundredths (R330). `fencedCnt` holds the counters as they stood when the engine was
fenced (R322). -/
structure Engine where
  st : EngState := .off
  enable : Bool := false
  bootFail : Bool := false
  linkEn : Bool := false
  linkUp : Bool := false
  freq : Nat := 800
  fcur : Nat := 0
  linkCfg : Nat := 0x3A00000088B5D2A7
  fenced : Bool := false
  startStep : Nat := 0
  epoch : Nat := 0
  flagViol : Nat := 0
  unitErr : List (Nat × Nat) := []
  lastDet : List (Nat × Nat) := []
  tests : List SelfTest := []
  cnt : Counters := {}
  sampleNo : Nat := 0
  recNo : Nat := 0
  lastPoint : Nat := 0
  frac : Nat := 0
  issued : Bool := false
  watchFn : EngState := .off
  traceFn : EngState := .off
  sampEff : Bool := false
  ctxEff : Bool := false
  fencedCnt : Counters := {}
  credit : Nat := 0
  trLost : Nat := 0
  trFill : Nat := 0
  wc : List WcEntry := []
  wcStamp : Nat := 0
  cache : List CacheEntry := []
  cut : Cut := {}
  chan : List ChanItem := []
  lfsr : List (Nat × Nat) := []
  reqs : List Req := []
  heldIn : List HeldInline := []
  heldResp : List HeldResp := []
  deriving DecidableEq, Repr, Inhabited

/-! ## The link of a Port Engine -/

/-- A send stream (R251 to R256): frames waiting for credit or permission, frames unacknowledged. -/
structure TxStream where
  job : Nat := 0
  ticket : Nat := 0
  dst : Nat := 0
  next : Nat := 0
  limit : Nat := 0
  lres : Option Nat := none
  waiting : List Frame := []
  unacked : List Frame := []
  deriving DecidableEq, Repr, Inhabited

/-- A receive buffer kept for the frames built from its frame: bucket, chunk, whether they are of the distribution phase, and
the halves that the downstream has not acknowledged (R256). -/
structure Kept where
  bucket : Nat := 0
  chunk : Nat := 0
  dist : Bool := false
  halves : List Nat := []
  deriving DecidableEq, Repr, Inhabited

/-- A receive stream (R252 to R255): next expected sequence, granted limit, limit last sent, frames accepted and not
acknowledged, the time of the outstanding NAK plus one, frames accepted and not yet worked on, buffers kept for frames
forwarded and not acknowledged downstream (R256). -/
structure RxStream where
  job : Nat := 0
  ticket : Nat := 0
  src : Nat := 0
  expect : Nat := 0
  limit : Nat := 0
  sent : Nat := 0
  unackedRx : Nat := 0
  nak : Nat := 0
  buf : List Frame := []
  kept : List Kept := []
  deriving DecidableEq, Repr, Inhabited

/-- A bucket that a peer has announced (R237, Table 12.4). -/
structure Ann where
  job : Nat := 0
  ticket : Nat := 0
  bucket : Nat := 0
  src : Nat := 0
  kind : Nat := 0
  pfmt : Nat := 0
  pairsum : Bool := false
  count : Nat := 0
  sfmt : Nat := 0
  deriving DecidableEq, Repr, Inhabited

/-- An instance present at a PE (R236), with the group as it was read (R219). -/
structure Inst where
  job : Nat := 0
  ticket : Nat := 0
  pd : Nat := 0
  members : List Nat := []
  self : Nat := 0
  kind : Nat := 0
  complete : List Nat := []
  deriving DecidableEq, Repr, Inhabited

/-- What a PE keeps for a job (R236, R242, R257, Table 16.6). `sentPart` and `recvPart` hold the CRC of the first frame of
a two-frame chunk, by the chunk's position word of R242 and the device it goes to or comes from. -/
structure JobSt where
  lastDone : Option Nat := none
  sentSig : Nat := 0
  recvSig : Nat := 0
  sentPart : List (Nat × Nat × Nat) := []
  recvPart : List (Nat × Nat × Nat) := []
  rescales : Nat := 0
  tx : Nat := 0
  rx : Nat := 0
  deriving DecidableEq, Repr, Inhabited

/-- The link counters of Table 16.6. -/
structure LinkCnt where
  txFrames : Nat := 0
  rxFrames : Nat := 0
  txBytes : Nat := 0
  rxBytes : Nat := 0
  retx : Nat := 0
  nakTx : Nat := 0
  nakRx : Nat := 0
  dropFcs : Nat := 0
  dropHdr : Nat := 0
  dropAddr : Nat := 0
  stale : Nat := 0
  proto : Nat := 0
  dup : Nat := 0
  lost : Nat := 0
  holdDrop : Nat := 0
  cpause : Nat := 0
  deriving DecidableEq, Repr, Inhabited

/-- The link interface and course logic of a PE. `lost` the devices marked lost (R259), `paused` the paused priorities
(R250), `txq` the frames waiting for the link, `sentAt` the time of the last frame sent to a device (R258), plus one, `ctlq`
the frames in the control receive queue (R250), `deficit` the deficits of the jobs at the link's arbiter (R24). -/
structure Link where
  insts : List Inst := []
  jobs : List (Nat × JobSt) := []
  ann : List Ann := []
  tx : List TxStream := []
  rx : List RxStream := []
  lost : List Nat := []
  paused : List Nat := []
  jobSel : Nat := 0
  cnt : LinkCnt := {}
  txq : List Frame := []
  sentAt : List (Nat × Nat) := []
  ctlq : Nat := 0
  deficit : List (Nat × Nat) := []
  deriving DecidableEq, Repr, Inhabited

/-! ## Global words -/

/-- The domain words (R261, Table 12.5) and the keystone's state (R263 to R265). `acks` lists the deputies with the
last mark each has acknowledged; `served` the requests answered (source, job, seq, block); `waiting` requests held. -/
structure Domain where
  join : Bool := false
  member : Bool := false
  failed : Bool := false
  kname : Bool := false
  kport : Nat := 0
  deviceId : Nat := 0
  domain : Nat := 0
  knamed : Nat := 0
  keystone : Nat := 0
  domtab : Nat := 0
  ticketStart : Nat := 0
  ticketSeen : Nat := 0
  issuing : Bool := false
  nextTicket : Nat := 0
  mark : Nat := 0
  deputies : List Nat := []
  acks : List (Nat × Nat) := []
  served : List (Nat × Nat × Nat × Nat) := []
  waiting : List (Nat × Nat × Nat × Nat) := []
  deriving DecidableEq, Repr, Inhabited

/-- ERRCFG (R299, Table 15.2); `unitErr` counts the errors of the always-on island (UNITERR of Table 15.3). -/
structure ErrCfg where
  on : Bool := false
  degraded : Bool := false
  log2 : Nat := 6
  base : Nat := 0
  tail : Nat := 0
  head : Nat := 0
  drop : Nat := 0
  trans : Nat := 0
  phase : Bool := true
  unitErr : Nat := 0
  deriving DecidableEq, Repr, Inhabited

/-- IMGCTL (Table 17.4), the bytes loaded and the adopted image (R341, R342). -/
structure Image where
  stat : Nat := 0
  reason : Nat := 0
  version : Nat := 0
  loading : List Byte := []
  adopted : Option (List Byte) := none
  deriving DecidableEq, Repr, Inhabited

/-- PWRCAP (Table 17.2), the count of consecutive periods below 0.95 of CAP, and each engine's fclk and ACTIVE counts at
the last period's end (R340). -/
structure Power where
  capEn : Bool := false
  ceiling : Nat := 0x6A4
  cap : Nat := 0xBB8
  rest : Nat := 0
  low : Nat := 0
  prev : List (Nat × Nat × Nat) := []
  deriving DecidableEq, Repr, Inhabited

/-- SAMPCFG, AGGCTL and the aggregate record (Tables 16.4, 16.5). `sums` are the counters
added by the engines. -/
structure SampCfg where
  on : Bool := false
  ctxOn : Bool := false
  slotLog2 : Nat := 0
  base : Nat := 0
  ctxBase : Nat := 0
  busy : Bool := false
  agg : List Byte := []
  sums : Counters := {}
  deriving DecidableEq, Repr, Inhabited

/-- The trace port's lanes (R352): `closing` sends what is queued after TRON has gone to 0 (R346). -/
inductive PortState where
  | idle | training | sending | closing
  deriving DecidableEq, Repr, Inhabited

/-- The trace control words (Table 16.9), the merge queue (R329) and the ribbon's island state (R331). `lanes` are the
port's lanes, longest idle first, `blocks` the data blocks that each lane has sent since its last SKP ordered set. -/
structure Trace where
  on : Bool := false
  mode : Bool := false
  wrap : Bool := false
  segLog2 : Nat := 0x0C
  base : Nat := 0
  mask : Nat := 0
  engMask : Nat := 0
  budgetDrop : Nat := 0
  mergeDrop : Nat := 0
  hold : Bool := false
  cutBusy : Bool := false
  cutDone : Bool := false
  lastTag : Nat := 0
  cutTime : Nat := 0
  queue : List Nat := []
  lanes : List Nat := [0, 1, 2, 3]
  blocks : List Nat := [0, 0, 0, 0]
  since : List Nat := []
  checkSeq : Nat := 0
  port : PortState := .idle
  cutHold : Bool := false
  ribbons : List (Nat × Nat) := []
  granted : Option (Nat × Nat) := none
  deriving DecidableEq, Repr, Inhabited

/-- Input pins and AON_PG, FAB_READY (Table 17.5). -/
structure Pins where
  vddAon : Bool := true
  aonRstN : Bool := false
  fabRstN : Bool := false
  vddFab : List Bool := [true, true, true, true]
  aonPg : Bool := false
  fabReady : Bool := false
  deriving DecidableEq, Repr, Inhabited

/-! ## Outputs and address maps -/

/-- What the fabric presents on an output channel of its boundary (R347 to R352). -/
inductive Output where
  /-- control-bus or doorbell response: data and code (R351) -/
  | bus (data : Nat) (resp : Nat)
  /-- inline response (R161, Table 8.4, Table 17.9): the request's tag, the code and, for a read, the bytes; the package's
  FABRIC_ABSENT (code 4) among them -/
  | inlineResp (tag code : Nat) (data : List Byte)
  /-- event channel (R351): type 0 completion, 1 error; context -/
  | event (type ctx : Nat)
  /-- a frame passed to the MAC of PE `pe` on priority `pri` (R350): its bytes, and its header and payload again -/
  | frame (pe pri : Nat) (bytes : List Byte) (f : Frame)
  /-- a record on a lane of the trace port (R329), as a 256-bit number; 0 is an idle record -/
  | traceRec (lane v : Nat)
  /-- an SKP ordered set on a lane of the trace port (R329) -/
  | traceSkp (lane : Nat)
  /-- a request of engine `e`: on OQ of its compute-network port (`net`), or on MQ of its stack's port; operation (0 read,
  1 write, 2 CAS32, 3 marker), address, bytes, tag, data (Tables 17.8 and 17.9) -/
  | request (e : Nat) (net : Bool) (op addr len tag : Nat) (data : List Byte)
  /-- the PAUSE_REQ level of a priority of PE `pe` (R250, R350) -/
  | pauseReq (pe pri : Nat) (on : Bool)
  deriving DecidableEq, Repr, Inhabited

/-- A region of memory that the package's device map backs: stack `stack` or, with none, host memory (R143, R144). -/
structure MapRegion where
  base : Nat := 0
  size : Nat := 0
  stack : Option Nat := none
  deriving DecidableEq, Repr, Inhabited

end Sys2Proof.Machine
end

