-- ==== Sys2Proof/Machine/State.lean ====
section
/-! DEFINITION. The state of the block as plain data, its reset, and the reasons a step can stop. -/

namespace Sys2Proof.Machine

/-- Reasons a command stops with a fault. No command of this block does: the spec describes every error of the fabric
as an effect on its state (a status, a refusal bit, a record, a response), so the type has no constructor. -/
inductive Fault where
  deriving DecidableEq, Repr

/-- Reasons a command has no meaning. -/
inductive Refusal where
  /-- A row of the opcode table that has no meaning yet; raised by `exec` only, safe. -/
  | notModelled (mnemonic : String)
  deriving DecidableEq, Repr

/-- Everything the spec gives the block (INVENTORY.md lists each field with its rule and reset value).
`pending` is the queue of commands that wait, first in, first out. `outputs` is what the fabric has presented on its
output channels, oldest first. `devMap` and the inline aperture are the package's address maps; no command changes
them. `freeCount` numbers the free values taken so far. `stackDef` holds the deficits of the stack arbiters' children, by
stack and local SE (R24). `waitQ` holds the contexts
that wait for residency, in the order of their enable writes (R167). `testRegs` holds what test access has written.
`pdHist` lists the edits of PD table entries that some inline path has not adopted: the epoch each raised, the PD, and
VALID before it (R285). `accesses` are the inline accesses of which a part is held, `accNext` the number of the next one. -/
structure State where
  pending : List Instr := []
  pins : Pins := {}
  time : Nat := 0
  img : Image := {}
  pwr : Power := {}
  epoch : Nat := 0
  epochDone : Nat := 0
  coreWeight : Nat := 0x20
  groupBase : Nat := 0
  dbDrop : Nat := 0
  dom : Domain := {}
  err : ErrCfg := {}
  engines : List (Nat × Engine) := []
  links : List (Nat × Link) := []
  ctxs : List (Nat × Ctx) := []
  waitQ : List Nat := []
  windows : List (Nat × Window) := []
  pds : List (Nat × PdEntry) := []
  inlines : List (Nat × InlineWin) := []
  samp : SampCfg := {}
  trace : Trace := {}
  testRegs : List (Nat × Nat) := []
  mem : List Host.Cell := []
  outputs : List Output := []
  devMap : List MapRegion := []
  apBase : Nat := 0
  apSize : Nat := 0
  freeCount : Nat := 0
  stackDef : List (Nat × Nat) := []
  pdHist : List (Nat × Nat × Bool) := []
  accesses : List OpenAccess := []
  accNext : Nat := 0
  deriving DecidableEq, Repr, Inhabited

/-- Device map at reset (DESIGN CHOICE, log 2): stack s at s * 2^37, 128 GiB each (R348), then host memory in the
upper half of the 48-bit device address space. -/
def State.resetMap : List MapRegion :=
  (List.range 12).map (fun s => { base := s * 2 ^ 37, size := 2 ^ 37, stack := some s }) ++
    [{ base := 2 ^ 47, size := 2 ^ 47, stack := none }]

/-- The block with always-on power good and both resets asserted (log 3): every register and table at its reset
value (R344, R359), every engine OFF, memory with nothing listed. -/
def State.reset : State :=
  { devMap := State.resetMap, apBase := 2 ^ 46, apSize := 2 ^ 44 }

end Sys2Proof.Machine
end

