-- ==== Sys2Proof/Config.lean ====
section
/-! DEFINITION. The free values: what the spec leaves open, as constants without a body. -/

namespace Sys2Proof

/-- The coefficients of the linear function of R340, in units of 2^-16 of a tenth of a watt, as the power-model section of the
image gives them: by the section, the engine, and 0 for its FCUR in MHz or 1 for its ACTIVE fraction. The spec does not give the
section's layout (log 6). -/
opaque Config.pwrCoef : List Byte → Nat → Nat → Nat

/-- The state of the always-on island and its tables after AON_RST_N is released too soon (R344, log 7). -/
opaque Config.undefinedAon : Nat → Machine.State

/-- The value of a lane's pattern source after it has run for some fclk (R303): by the adopted image, which holds its
polynomial, the engine, the lane, the value before and the fclk. The spec gives neither its form nor its first value
(log 99). -/
opaque Config.lfsrAfter : List Byte → Nat → Nat → Nat → Nat → Nat

/-- How the counts that a restored descriptor brought divide among the chunks before its cursor, which its image does not say
(R292, R308, log 57): by the number of the free value, the descriptor's SEQ and the count. -/
opaque Config.restoredPart : Nat → Nat → Nat → Nat

end Sys2Proof
end

