-- ==== Sys2Proof/Machine/Bits.lean ====
section
/-! DEFINITION. Bit-field, byte-order and modular helpers, in the notation of 00_scope.md, and the sparse
table (rising keys, no default values) that memory and the register tables use. -/

namespace Sys2Proof.Machine

/-- Field [hi:lo] of a number. -/
def bits (v hi lo : Nat) : Nat := v / 2 ^ lo % 2 ^ (hi + 1 - lo)

/-- Bit `i` of a number. -/
def bitAt (v i : Nat) : Bool := v / 2 ^ i % 2 == 1

/-- A Boolean as a bit. -/
def bit (b : Bool) : Nat := if b then 1 else 0

/-- Field `v` placed with its least significant bit at `lo`, cut to `w` bits. -/
def place (v w lo : Nat) : Nat := v % 2 ^ w * 2 ^ lo

/-- Division rounded up. -/
def ceilDiv (a b : Nat) : Nat := (a + b - 1) / b

/-- `align64` of R46. -/
def align64 (a : Nat) : Nat := ceilDiv a 64 * 64

/-- 2^16, the modulus of ring indices (R169) and stream sequences (R251). -/
def mod16 : Nat := 65536

/-- (a - b) modulo 2^16. -/
def sub16 (a b : Nat) : Nat := (a + mod16 - b % mod16) % mod16

/-- a - b is negative as a signed 16-bit difference (R251). -/
def before16 (a b : Nat) : Bool := sub16 a b ≥ 32768

/-- a - b is negative as a signed 32-bit difference (R282). -/
def before32 (a b : Nat) : Bool := (a + 2 ^ 32 - b % 2 ^ 32) % 2 ^ 32 ≥ 2 ^ 31

/-- Saturating increment of a 32-bit counter (R299, R323, Table 18.4). -/
def satInc32 (v n : Nat) : Nat := min (v + n) 0xFFFFFFFF

/-- The `n` little-endian bytes of a number (R3). -/
def leBytes : Nat → Nat → List Byte
  | 0, _ => []
  | n + 1, v => BitVec.ofNat 8 v :: leBytes n (v / 256)

/-- The number that little-endian bytes hold (R3). -/
def leNat : List Byte → Nat
  | [] => 0
  | b :: r => b.toNat + 256 * leNat r

/-- The word that a write with byte enables `be` leaves (R355): enabled bytes of `v`, other bytes of `old`. -/
def mergeBytes (old v : Word64) (be : BitVec 8) : Word64 :=
  let m := (List.range 8).foldl (fun (a : Nat) k => if be.getLsbD k then a + 255 * 2 ^ (8 * k) else a) 0
  (v &&& BitVec.ofNat 64 m) ||| (old &&& ~~~ BitVec.ofNat 64 m)

/-- `f` run over 0 to `n - 1`, carrying a value. -/
def forN {α : Type} (n : Nat) (a : α) (f : α → Nat → α) : α := (List.range n).foldl f a

/-- The numbers `lo` to `hi - 1`. -/
def range2 (lo hi : Nat) : List Nat := (List.range (hi - lo)).map (· + lo)

/-- Element `i` of a list, or the default. -/
def nth {α : Type} (l : List α) (i : Nat) (d : α) : α := l.getD i d

/-- A value put into a list before the first whose key is greater. -/
def insertBy {α : Type} (key : α → Nat) (x : α) : List α → List α
  | [] => [x]
  | y :: r => if key x < key y then x :: y :: r else y :: insertBy key x r

/-- A list in ascending key, equal keys in their order. -/
def sortBy {α : Type} (key : α → Nat) (l : List α) : List α := l.foldl (fun a x => insertBy key x a) []

/-! ## Sparse tables -/

namespace SMap

/-- What a sparse table holds at `k`; `d` where nothing is listed. -/
def get {α : Type} : List (Nat × α) → α → Nat → α
  | [], d, _ => d
  | (a, v) :: r, d, k => if k < a then d else if k = a then v else get r d k

/-- A sparse table with `v` at `k`; a value equal to the default is not listed. -/
def set {α : Type} [DecidableEq α] : List (Nat × α) → α → Nat → α → List (Nat × α)
  | [], d, k, v => if v = d then [] else [(k, v)]
  | (a, w) :: r, d, k, v =>
    if k < a then (if v = d then (a, w) :: r else (k, v) :: (a, w) :: r)
    else if k = a then (if v = d then r else (k, v) :: r)
    else (a, w) :: set r d k v

/-- Every listed value changed; a value that becomes the default is no longer listed. -/
def mapVals {α : Type} [DecidableEq α] (l : List (Nat × α)) (d : α) (f : α → α) : List (Nat × α) :=
  l.filterMap (fun p => if f p.2 = d then none else some (p.1, f p.2))

/-- Keys are at least `lo` and rise, and no listed value is the default. -/
def wfFrom {α : Type} [DecidableEq α] : List (Nat × α) → α → Nat → Bool
  | [], _, _ => true
  | (a, v) :: r, d, lo => decide (lo ≤ a) && decide (v ≠ d) && wfFrom r d (a + 1)

/-- The canonical form of a sparse table. -/
def wf {α : Type} [DecidableEq α] (m : List (Nat × α)) (d : α) : Bool := wfFrom m d 0

end SMap

/-! ## Keyed lists, for partials that may hold the default value -/

namespace Keyed

/-- The value listed at a key. -/
def get? {α : Type} : List (Nat × α) → Nat → Option α
  | [], _ => none
  | (a, v) :: r, k => if k = a then some v else get? r k

/-- A keyed list with a value at a key, keys kept rising. -/
def set {α : Type} : List (Nat × α) → Nat → α → List (Nat × α)
  | [], k, v => [(k, v)]
  | (a, w) :: r, k, v =>
    if k < a then (k, v) :: (a, w) :: r else if k = a then (k, v) :: r else (a, w) :: set r k v

end Keyed

end Sys2Proof.Machine
end

