-- ==== Sys2Proof/Machine/Memory.lean ====
section
/-! DEFINITION. Device memory: bytes at 48-bit addresses (R143), little-endian records (R3), bit-stream elements
(R27) and the bytes a run completes (R28). A byte that nothing has written reads 0 (log 1). -/

namespace Sys2Proof.Machine

/-- Device memory: the canonical sparse table of bytes. -/
abbrev Mem := List Host.Cell

/-- The canonical form of memory: device addresses strictly rising, and no byte listed that reads as an unlisted one. -/
def Memory.wf (m : Mem) : Bool := SMap.wf m 0 && m.all (fun c => decide (c.1 < 2 ^ 48))

/-- Device addresses are 48 bits. -/
def devAddr (a : Nat) : Nat := a % 2 ^ 48

namespace Mem

/-- The byte at a device address. -/
def byteAt (m : Mem) (a : Nat) : Byte := SMap.get m 0 (devAddr a)

/-- Memory with one byte written. -/
def setByte (m : Mem) (a : Nat) (v : Byte) : Mem := SMap.set m 0 (devAddr a) v

/-- The little-endian number in `n` bytes from `a` (R3). -/
def rd (m : Mem) : Nat → Nat → Nat
  | _, 0 => 0
  | a, n + 1 => (byteAt m a).toNat + 256 * rd m (a + 1) n

/-- Memory with the `n` little-endian bytes of `v` written from `a`. -/
def wr : Mem → Nat → Nat → Nat → Mem
  | m, _, 0, _ => m
  | m, a, n + 1, v => wr (setByte m a (BitVec.ofNat 8 v)) (a + 1) n (v / 256)

/-- `n` bytes from `a`. -/
def bytes (m : Mem) (a n : Nat) : List Byte := (List.range n).map (fun k => byteAt m (a + k))

/-- Memory with bytes written from `a`. -/
def wrBytes : Mem → Nat → List Byte → Mem
  | m, _, [] => m
  | m, a, b :: r => wrBytes (setByte m a b) (a + 1) r

/-- The `w`-bit field at stream bit `k` of the plane at `a` (R27). -/
def rdBits (m : Mem) (a k w : Nat) : Nat :=
  rd m (a + k / 8) ((k % 8 + w + 7) / 8) / 2 ^ (k % 8) % 2 ^ w

/-- Memory with the `w`-bit field at stream bit `k` of the plane at `a` replaced; other bits are kept (R28). -/
def wrBits (m : Mem) (a k w v : Nat) : Mem :=
  let n := (k % 8 + w + 7) / 8
  let old := rd m (a + k / 8) n
  let lo := old % 2 ^ (k % 8)
  let hi := old / 2 ^ (k % 8 + w)
  wr m (a + k / 8) n (lo + v % 2 ^ w * 2 ^ (k % 8) + hi * 2 ^ (k % 8 + w))

/-- The run of `n` elements of `w` bits at `a` ends inside a byte: its high bits are written as zero (R28). -/
def endRun (m : Mem) (a n w : Nat) : Mem :=
  let r := n * w % 8
  if r = 0 then m
  else setByte m (a + n * w / 8) (BitVec.ofNat 8 ((byteAt m (a + n * w / 8)).toNat % 2 ^ r))

end Mem

end Sys2Proof.Machine
end

