-- ==== Sys2Proof/Machine/Num.lean ====
section
/-! DEFINITION. Element and scale formats (02_element_and_scale_formats.md) and the one conversion of
03_conversion_rules.md. Exact values are held without a width limit, so the 64-bit significand of R55 and its
sticky bit are needed only for quotients (log 9). -/

namespace Sys2Proof.Machine

/-! ## Formats -/

/-- The kinds of R55's `struct fmt`. -/
inductive FKind where
  | float | int | tern | pair
  deriving DecidableEq, Repr, Inhabited

/-- `struct fmt` of R55 with the element width `w` in bits. -/
structure Fmt where
  kind : FKind := .float
  sgn : Bool := true
  ebits : Nat := 0
  mbits : Nat := 0
  bias : Nat := 0
  w : Nat := 0
  hasInf : Bool := false
  hasNan : Bool := false
  cnan : Nat := 0
  maxcode : Nat := 0
  deriving DecidableEq, Repr, Inhabited

def fmtFp32 : Fmt := { ebits := 8, mbits := 23, bias := 127, w := 32, hasInf := true, hasNan := true, cnan := 0x7FC00000, maxcode := 0x7F7FFFFF }
def fmtBf16 : Fmt := { ebits := 8, mbits := 7, bias := 127, w := 16, hasInf := true, hasNan := true, cnan := 0x7FC0, maxcode := 0x7F7F }
def fmtFp16 : Fmt := { ebits := 5, mbits := 10, bias := 15, w := 16, hasInf := true, hasNan := true, cnan := 0x7E00, maxcode := 0x7BFF }
def fmtE4m3 : Fmt := { ebits := 4, mbits := 3, bias := 7, w := 8, hasNan := true, cnan := 0x7F, maxcode := 0x7E }
def fmtE5m2 : Fmt := { ebits := 5, mbits := 2, bias := 15, w := 8, hasInf := true, hasNan := true, cnan := 0x7E, maxcode := 0x7B }
def fmtE3m2 : Fmt := { ebits := 3, mbits := 2, bias := 3, w := 6, maxcode := 0x1F }
def fmtE2m3 : Fmt := { ebits := 2, mbits := 3, bias := 1, w := 6, maxcode := 0x1F }
def fmtE2m1 : Fmt := { ebits := 2, mbits := 1, bias := 1, w := 4, maxcode := 0x7 }
def fmtU8E4m4 : Fmt := { sgn := false, ebits := 4, mbits := 4, bias := 7, w := 8, hasNan := true, cnan := 0xFF, maxcode := 0xFE }
def fmtU6E3m3 : Fmt := { sgn := false, ebits := 3, mbits := 3, bias := 3, w := 6, maxcode := 0x3F }
def fmtU4E2m2 : Fmt := { sgn := false, ebits := 2, mbits := 2, bias := 1, w := 4, maxcode := 0xF }
def fmtInt (sgn : Bool) (w : Nat) : Fmt := { kind := .int, sgn := sgn, w := w }
def fmtTern : Fmt := { kind := .tern, w := 2 }
def fmtPair (w : Nat) : Fmt := { kind := .pair, w := w }
/-- E5M3 read as a floating-point format without a sign (R40). -/
def fmtE5m3 : Fmt := { sgn := false, ebits := 5, mbits := 3, bias := 15, w := 8, hasNan := true, cnan := 0xFF, maxcode := 0xFE }
/-- E8M0 (R40): no mantissa and no zero; `scaleVal` gives its values. -/
def fmtE8m0 : Fmt := { sgn := false, ebits := 8, mbits := 0, bias := 127, w := 8, hasNan := true, cnan := 0xFF, maxcode := 0xFE }

/-- The element format of a code of Table 0.3 (R7); none for a scale code or an unassigned code. -/
def fmtOf : Nat → Option Fmt
  | 0x00 => some fmtFp32 | 0x01 => some fmtBf16 | 0x02 => some fmtFp16
  | 0x03 => some fmtE4m3 | 0x04 => some fmtE5m2 | 0x05 => some fmtE3m2
  | 0x06 => some fmtE2m3 | 0x07 => some fmtE2m1 | 0x08 => some fmtU8E4m4
  | 0x09 => some fmtU4E2m2 | 0x0A => some (fmtPair 64) | 0x0B => some (fmtPair 32)
  | 0x0C => some fmtU6E3m3 | 0x10 => some (fmtInt true 8) | 0x11 => some (fmtInt false 8)
  | 0x12 => some (fmtInt true 4) | 0x13 => some (fmtInt false 4) | 0x14 => some (fmtInt true 2)
  | 0x15 => some (fmtInt false 2) | 0x16 => some fmtTern | 0x18 => some (fmtInt true 32)
  | 0x19 => some (fmtInt true 16) | _ => none

/-- The element format of a code, FP32 where `fmtOf` gives none (callers have checked the code). -/
def fmtD (code : Nat) : Fmt := (fmtOf code).getD fmtFp32

/-- Formats of Table 2.5, which may sit in an ashlar (R36). -/
def ashlarOk (code : Nat) : Bool :=
  [0x03, 0x04, 0x05, 0x06, 0x07, 0x08, 0x0C, 0x09, 0x10, 0x11, 0x12, 0x13, 0x14, 0x15, 0x16].contains code

/-- `half_of` of R55. -/
def halfOf (f : Fmt) : Fmt := if f.w = 64 then fmtFp32 else fmtBf16

/-! ## Exact values -/

/-- An exact value (R55): `fin neg m e st` is (m + d) * 2^e with `neg` its sign, d = 0 when `st` is false and
0 < d < 1 when it is true. -/
inductive XVal where
  | zero (neg : Bool)
  | fin (neg : Bool) (m : Nat) (e : Int) (st : Bool)
  | inf (neg : Bool)
  | nan
  deriving DecidableEq, Repr, Inhabited

namespace XVal

/-- The value m * 2^e with a sign; zero when m is 0. -/
def mk' (neg : Bool) (m : Nat) (e : Int) : XVal := if m = 0 then .zero neg else .fin neg m e false

def sign : XVal → Bool
  | .zero n | .fin n _ _ _ | .inf n => n
  | .nan => false

def isNan : XVal → Bool
  | .nan => true
  | _ => false

def isInf : XVal → Bool
  | .inf _ => true
  | _ => false

def isZero : XVal → Bool
  | .zero _ => true
  | _ => false

def isFinite : XVal → Bool
  | .zero _ | .fin .. => true
  | _ => false

/-- `xv_neg` of R55. -/
def neg : XVal → XVal
  | .zero n => .zero (!n)
  | .fin n m e s => .fin (!n) m e s
  | .inf n => .inf (!n)
  | .nan => .nan

/-- The magnitude (R201, AA and AB). -/
def abs : XVal → XVal
  | .zero _ => .zero false
  | .fin _ m e s => .fin false m e s
  | .inf _ => .inf false
  | .nan => .nan

/-- Exponent of the most significant bit: `eb - 2048` of R55. -/
def eb : XVal → Int
  | .fin _ m e _ => e + Nat.log2 m
  | _ => 0

/-- `xv_add` of R55, the exact sum. Every operand that the machine adds is exact (`st` clear); of an operand with
`st` set the sum keeps the side of the discarded part: a smaller magnitude taken from a larger one is below the
difference of the two truncated ones when the smaller carries `st`. -/
def add (a b : XVal) : XVal :=
  match a, b with
  | .nan, _ => .nan
  | _, .nan => .nan
  | .inf x, .inf y => if x = y then .inf x else .nan
  | .inf x, _ => .inf x
  | _, .inf y => .inf y
  | .zero x, .zero y => .zero (x && y)
  | .zero _, y => y
  | x, .zero _ => x
  | .fin nx mx ex sx, .fin ny my ey sy =>
    let e := min ex ey
    let ax := mx * 2 ^ (ex - e).toNat
    let ay := my * 2 ^ (ey - e).toNat
    let st := sx || sy
    if nx = ny then .fin nx (ax + ay) e st
    else if ax = ay then .zero false
    else if ay < ax then .fin nx (ax - ay - bit sy) e st
    else .fin ny (ay - ax - bit sx) e st

/-- `xv_mul` of R55, with the special cases of R42. -/
def mul (a b : XVal) : XVal :=
  match a, b with
  | .nan, _ => .nan
  | _, .nan => .nan
  | .inf _, .zero _ => .nan
  | .zero _, .inf _ => .nan
  | .inf x, y => .inf (x != y.sign)
  | x, .inf y => .inf (x.sign != y)
  | .zero x, y => .zero (x != y.sign)
  | x, .zero y => .zero (x.sign != y)
  | .fin nx mx ex sx, .fin ny my ey sy => .fin (nx != ny) (mx * my) (ex + ey) (sx || sy)

/-- `xv_quo` of R76 and the quotients of R201: truncated to at least 64 bits, `st` set when a remainder is left. -/
def quo (a b : XVal) : XVal :=
  match a, b with
  | .nan, _ => .nan
  | _, .nan => .nan
  | .inf _, .inf _ => .nan
  | .zero _, .zero _ => .nan
  | .inf x, y => .inf (x != y.sign)
  | .zero x, y => .zero (x != y.sign)
  | x, .inf y => .zero (x.sign != y)
  | x, .zero y => .inf (x.sign != y)
  | .fin nx mx ex sx, .fin ny my ey _ =>
    let s := 70 + Nat.log2 my
    let q := mx * 2 ^ s / my
    .fin (nx != ny) q (ex - ey - s) (sx || mx * 2 ^ s % my != 0)

/-- a < b for values that are not NaN (exact; −0 equals +0). -/
def lt (a b : XVal) : Bool :=
  match a, b with
  | .nan, _ => false
  | _, .nan => false
  | .inf x, .inf y => x && !y
  | .inf x, _ => x
  | _, .inf y => !y
  | x, y =>
    match add x (neg y) with
    | .fin n _ _ _ => n
    | _ => false

/-- a = b for values that are not NaN (R202: −0 equals +0). -/
def eqv (a b : XVal) : Bool := !a.isNan && !b.isNan && !lt a b && !lt b a

end XVal

/-- `fp_decode` of R31 as an exact value. -/
def fpDecode (code ebits mbits bias : Nat) (hasSign : Bool) : XVal :=
  let m := code % 2 ^ mbits
  let e := code / 2 ^ mbits % 2 ^ ebits
  let neg := hasSign && bitAt code (ebits + mbits)
  if e = 0 then XVal.mk' neg m (1 - (bias : Int) - mbits)
  else XVal.mk' neg (2 ^ mbits + m) ((e : Int) - bias - mbits)

/-- Two's complement of width `w` read as an integer. -/
def toSigned (code w : Nat) : Int :=
  if code % 2 ^ w ≥ 2 ^ (w - 1) then (code % 2 ^ w : Nat) - (2 ^ w : Nat) else (code % 2 ^ w : Nat)

/-- `xv_code` of R55: the exact value of a code of a format that is not a pair. -/
def xvCode (f : Fmt) (inAsh : Bool) (code : Nat) : XVal :=
  match f.kind with
  | .float =>
    let mag := code % 2 ^ (f.ebits + f.mbits)
    let neg := f.sgn && bitAt code (f.ebits + f.mbits)
    let top := 2 ^ f.ebits - 1
    if f.hasInf && mag / 2 ^ f.mbits = top then (if mag % 2 ^ f.mbits = 0 then .inf neg else .nan)
    else if f.hasNan && !f.hasInf && mag = f.cnan then .nan
    else if f.mbits = 0 then .fin false 1 ((mag : Int) - f.bias) false
    else fpDecode code f.ebits f.mbits f.bias f.sgn
  | .int =>
    let v : Int := if f.sgn then toSigned code f.w else (code % 2 ^ f.w : Nat)
    let q : Int := if inAsh then (if f.sgn then 2 - (f.w : Int) else 1 - (f.w : Int)) else 0
    XVal.mk' (decide (v < 0)) v.natAbs q
  | .tern => if bitAt code 0 then .fin (bitAt code 1) 1 0 false else .zero false
  | .pair => .nan

/-- `pair_value` of R55 (R39). -/
def pairValue (hi lo : XVal) : XVal :=
  match hi, lo with
  | .nan, _ => .nan
  | _, .nan => .nan
  | .inf x, .inf y => if x = y then .inf x else .nan
  | .inf x, _ => .inf x
  | _, .inf y => .inf y
  | h, .zero _ => h
  | h, l => XVal.add h l

/-- The exact value of a code of any element format (R53), pairs under R37 and R39. -/
def elemValue (f : Fmt) (inAsh : Bool) (code : Nat) : XVal :=
  match f.kind with
  | .pair =>
    let h := halfOf f
    pairValue (xvCode h false (code % 2 ^ h.w)) (xvCode h false (code / 2 ^ h.w))
  | _ => xvCode f inAsh code

/-! ## Rounding and encoding -/

/-- Numeric events of one rounding (R64). -/
structure Ev where
  sat : Bool := false
  flush : Bool := false
  nf : Bool := false
  deriving DecidableEq, Repr, Inhabited

def Ev.none : Ev := {}
def Ev.satEv : Ev := { sat := true }
def Ev.flushEv : Ev := { flush := true }
def Ev.nfEv : Ev := { nf := true }
def Ev.or (a b : Ev) : Ev := { sat := a.sat || b.sat, flush := a.flush || b.flush, nf := a.nf || b.nf }

/-- The rounding modes of R54 and R62: round to nearest even, stochastic, truncation. -/
inductive RMode where
  | rne | sr | trunc
  deriving DecidableEq, Repr, Inhabited

def RMode.ofRound (round : Bool) : RMode := if round then .sr else .rne

/-- `round_mag` of R56 and R57: the magnitude (m + d) * 2^e as a multiple of 2^qb. -/
def roundMag (m : Nat) (e : Int) (st : Bool) (qb : Int) (mode : RMode) (r : Nat) : Nat :=
  if qb ≤ e then m * 2 ^ (e - qb).toNat
  else
    let sh := (qb - e).toNat
    let k := m / 2 ^ sh
    let low := m % 2 ^ sh * 256
    let t := low / 2 ^ sh
    let rest := st || low % 2 ^ sh != 0
    let up := match mode with
      | .sr => decide (t + r ≥ 256)
      | .rne => decide (t > 0x80) || (t == 0x80 && (rest || k % 2 == 1))
      | .trunc => false
    k + bit up

/-- `sbit_of` of R58. -/
def sbitOf (f : Fmt) (neg : Bool) : Nat := if f.sgn && neg then 2 ^ (f.ebits + f.mbits) else 0

/-- `limit_code` of R58. -/
def limitCode (f : Fmt) (neg : Bool) : Nat :=
  match f.kind with
  | .float => sbitOf f neg + f.maxcode
  | .tern => if neg then 3 else 1
  | _ => if !f.sgn then (if neg then 0 else 2 ^ f.w - 1)
         else if neg then 2 ^ (f.w - 1) else 2 ^ (f.w - 1) - 1

/-- The infinity of a floating-point format (R58). -/
def infCode (f : Fmt) (neg : Bool) : Nat := sbitOf f neg + (2 ^ f.ebits - 1) * 2 ^ f.mbits

/-- `overflow` of R58. -/
def overflowCode (f : Fmt) (neg infnan : Bool) : Nat × Ev :=
  if infnan && f.hasInf then (infCode f neg, .nfEv)
  else if infnan && f.hasNan then (f.cnan, .nfEv)
  else (limitCode f neg, .satEv)

/-- `enc_float` of R58 for the magnitude (m + d) * 2^e. -/
def encFloat (f : Fmt) (neg : Bool) (m : Nat) (e : Int) (st infnan : Bool) (mode : RMode) (r : Nat) : Nat × Ev :=
  let qmin : Int := 1 - (f.bias : Int) - f.mbits
  let qb := max (e + Nat.log2 m - f.mbits) qmin
  let k := roundMag m e st qb mode r
  if k = 0 then (sbitOf f neg, .flushEv)
  else
    let carry := k / 2 ^ (f.mbits + 1) != 0
    let k' := if carry then k / 2 else k
    let qb' := if carry then qb + 1 else qb
    let code := if k' / 2 ^ f.mbits != 0
      then (qb' + f.mbits + f.bias).toNat * 2 ^ f.mbits + k' % 2 ^ f.mbits else k'
    if code > f.maxcode then overflowCode f neg infnan else (sbitOf f neg + code, .none)

/-- `enc_int` of R59. -/
def encInt (f : Fmt) (neg : Bool) (m : Nat) (e : Int) (st inAsh : Bool) (mode : RMode) (r : Nat) : Nat × Ev :=
  let qb : Int := if inAsh && f.kind == .int then (if f.sgn then 2 - (f.w : Int) else 1 - (f.w : Int)) else 0
  let lim := if f.kind == .int && f.sgn && neg then 2 ^ (f.w - 1) else limitCode f false
  let k := if e + Nat.log2 m > qb + 31 then lim + 1 else roundMag m e st qb mode r
  if k = 0 then (0, .flushEv)
  else
    let ev : Ev := if k > lim then .satEv else .none
    let k' := min k lim
    if f.kind == .tern then (if neg then 3 else 1, ev)
    else (if neg then (2 ^ f.w - k') % 2 ^ f.w else k', ev)

/-- `convert` of R63 for a destination that is not a pair. -/
def convertOne (x : XVal) (f : Fmt) (inAsh infnan : Bool) (mode : RMode) (r : Nat) : Nat × Ev :=
  let fl := f.kind == .float
  match x with
  | .nan => if fl && f.hasNan then (f.cnan, .nfEv) else (limitCode f false, .satEv)
  | .zero n => (if fl then sbitOf f n else 0, .none)
  | .inf n =>
    if !f.sgn && n then (0, .satEv)
    else if fl && f.hasInf && !inAsh then (infCode f n, .nfEv)
    else if fl then overflowCode f n infnan
    else (limitCode f n, .satEv)
  | .fin n m e st =>
    if !f.sgn && n then (0, .satEv)
    else if fl then encFloat f n m e st infnan mode r
    else encInt f n m e st inAsh mode r

/-- `enc_pair` of R62. -/
def encPair (x : XVal) (f : Fmt) (infnan : Bool) : Nat × Ev :=
  let h := halfOf f
  let (hi, e0) := convertOne x h false infnan .rne 0
  let lo := match x with
    | .fin .. =>
      if e0 = Ev.none then (convertOne (x.add (xvCode h false hi).neg) h false false .trunc 0).1 else 0
    | _ => 0
  let lo := if lo % 2 ^ (h.w - 1) = 0 then 0 else lo
  (hi + lo * 2 ^ h.w, e0)

/-- `enc_pair` of R62 for the exact quotient a / b (R201): lo is the exact difference of the quotient and hi, which is the
quotient of a - hi·b and b, rounded toward zero. -/
def encPairQuo (a b : XVal) (f : Fmt) (infnan : Bool) : Nat × Ev :=
  let h := halfOf f
  let q := a.quo b
  let (hi, e0) := convertOne q h false infnan .rne 0
  let lo := match q with
    | .fin .. =>
      if e0 = Ev.none then
        (convertOne ((a.add ((xvCode h false hi).mul b).neg).quo b) h false false .trunc 0).1
      else 0
    | _ => 0
  let lo := if lo % 2 ^ (h.w - 1) = 0 then 0 else lo
  (hi + lo * 2 ^ h.w, e0)

/-- `convert` of R63, the bit-exact definition of every conversion. -/
def convert (x : XVal) (f : Fmt) (inAsh infnan : Bool) (mode : RMode) (r : Nat) : Nat × Ev :=
  match f.kind with
  | .pair => encPair x f infnan
  | _ => convertOne x f inAsh infnan mode r

/-- Whether a written code is NaN or infinite (R64); a pair through its high half (R38). -/
def codeNonfinite (f : Fmt) (code : Nat) : Bool :=
  match f.kind with
  | .float => !(xvCode f false code).isFinite
  | .pair => !(xvCode (halfOf f) false (code % 2 ^ (halfOf f).w)).isFinite
  | _ => false

end Sys2Proof.Machine
end

