-- ==== Sys2Proof/Machine/Tables.lean ====
section
/-! DEFINITION. The arithmetic tables of R113 (EXT), R133 (LT) and R132 (NT). Each entry is the binary32
code nearest to its defining number, as R364 fixes them; computed from those numbers. -/

namespace Sys2Proof.Machine

/-- EXT of R113: the binary32 value nearest to 2^(j/256), entries 0 to 63. -/
def extTable0 : List Nat := [
  0x3F800000, 0x3F8058D8, 0x3F80B1ED, 0x3F810B41, 0x3F8164D2, 0x3F81BEA1, 0x3F8218AF, 0x3F8272FC,
  0x3F82CD87, 0x3F832850, 0x3F838359, 0x3F83DEA1, 0x3F843A29, 0x3F8495F0, 0x3F84F1F6, 0x3F854E3D,
  0x3F85AAC3, 0x3F86078A, 0x3F866491, 0x3F86C1D9, 0x3F871F62, 0x3F877D2B, 0x3F87DB35, 0x3F883981,
  0x3F88980F, 0x3F88F6DD, 0x3F8955EE, 0x3F89B541, 0x3F8A14D5, 0x3F8A74AD, 0x3F8AD4C6, 0x3F8B3523,
  0x3F8B95C2, 0x3F8BF6A4, 0x3F8C57CA, 0x3F8CB933, 0x3F8D1ADF, 0x3F8D7CD0, 0x3F8DDF04, 0x3F8E417D,
  0x3F8EA43A, 0x3F8F073B, 0x3F8F6A81, 0x3F8FCE0C, 0x3F9031DC, 0x3F9095F2, 0x3F90FA4D, 0x3F915EED,
  0x3F91C3D3, 0x3F922900, 0x3F928E72, 0x3F92F42C, 0x3F935A2B, 0x3F93C072, 0x3F9426FF, 0x3F948DD4,
  0x3F94F4F0, 0x3F955C53, 0x3F95C3FF, 0x3F962BF2, 0x3F96942D, 0x3F96FCB1, 0x3F97657D, 0x3F97CE92]

/-- EXT of R113: the binary32 value nearest to 2^(j/256), entries 64 to 127. -/
def extTable1 : List Nat := [
  0x3F9837F0, 0x3F98A197, 0x3F990B88, 0x3F9975C2, 0x3F99E046, 0x3F9A4B13, 0x3F9AB62B, 0x3F9B218D,
  0x3F9B8D3A, 0x3F9BF931, 0x3F9C6573, 0x3F9CD201, 0x3F9D3EDA, 0x3F9DABFE, 0x3F9E196E, 0x3F9E872A,
  0x3F9EF532, 0x3F9F6387, 0x3F9FD228, 0x3FA04116, 0x3FA0B051, 0x3FA11FD9, 0x3FA18FAF, 0x3FA1FFD2,
  0x3FA27043, 0x3FA2E102, 0x3FA3520F, 0x3FA3C36B, 0x3FA43516, 0x3FA4A70F, 0x3FA51958, 0x3FA58BEF,
  0x3FA5FED7, 0x3FA6720E, 0x3FA6E595, 0x3FA7596C, 0x3FA7CD94, 0x3FA8420C, 0x3FA8B6D5, 0x3FA92BEF,
  0x3FA9A15B, 0x3FAA1718, 0x3FAA8D26, 0x3FAB0387, 0x3FAB7A3A, 0x3FABF13F, 0x3FAC6897, 0x3FACE041,
  0x3FAD583F, 0x3FADD090, 0x3FAE4934, 0x3FAEC22D, 0x3FAF3B79, 0x3FAFB519, 0x3FB02F0E, 0x3FB0A957,
  0x3FB123F6, 0x3FB19EE9, 0x3FB21A32, 0x3FB295D0, 0x3FB311C4, 0x3FB38E0E, 0x3FB40AAF, 0x3FB487A6]

/-- EXT of R113: the binary32 value nearest to 2^(j/256), entries 128 to 191. -/
def extTable2 : List Nat := [
  0x3FB504F3, 0x3FB58298, 0x3FB60094, 0x3FB67EE7, 0x3FB6FD92, 0x3FB77C95, 0x3FB7FBF0, 0x3FB87BA3,
  0x3FB8FBAF, 0x3FB97C14, 0x3FB9FCD2, 0x3FBA7DEA, 0x3FBAFF5B, 0x3FBB8126, 0x3FBC034A, 0x3FBC85CA,
  0x3FBD08A4, 0x3FBD8BD8, 0x3FBE0F68, 0x3FBE9353, 0x3FBF179A, 0x3FBF9C3C, 0x3FC0213B, 0x3FC0A695,
  0x3FC12C4D, 0x3FC1B261, 0x3FC238D2, 0x3FC2BFA1, 0x3FC346CD, 0x3FC3CE57, 0x3FC4563F, 0x3FC4DE85,
  0x3FC5672A, 0x3FC5F02E, 0x3FC67991, 0x3FC70353, 0x3FC78D75, 0x3FC817F7, 0x3FC8A2D8, 0x3FC92E1B,
  0x3FC9B9BE, 0x3FCA45C1, 0x3FCAD226, 0x3FCB5EED, 0x3FCBEC15, 0x3FCC799F, 0x3FCD078C, 0x3FCD95DA,
  0x3FCE248C, 0x3FCEB3A1, 0x3FCF4319, 0x3FCFD2F4, 0x3FD06334, 0x3FD0F3D7, 0x3FD184DF, 0x3FD2164C,
  0x3FD2A81E, 0x3FD33A54, 0x3FD3CCF1, 0x3FD45FF3, 0x3FD4F35B, 0x3FD58729, 0x3FD61B5E, 0x3FD6AFFA]

/-- EXT of R113: the binary32 value nearest to 2^(j/256), entries 192 to 255. -/
def extTable3 : List Nat := [
  0x3FD744FD, 0x3FD7DA67, 0x3FD87039, 0x3FD90673, 0x3FD99D16, 0x3FDA3421, 0x3FDACB94, 0x3FDB6371,
  0x3FDBFBB8, 0x3FDC9468, 0x3FDD2D82, 0x3FDDC706, 0x3FDE60F5, 0x3FDEFB4E, 0x3FDF9613, 0x3FE03143,
  0x3FE0CCDF, 0x3FE168E7, 0x3FE2055B, 0x3FE2A23C, 0x3FE33F89, 0x3FE3DD44, 0x3FE47B6D, 0x3FE51A03,
  0x3FE5B907, 0x3FE65879, 0x3FE6F85B, 0x3FE798AB, 0x3FE8396A, 0x3FE8DA99, 0x3FE97C38, 0x3FEA1E47,
  0x3FEAC0C7, 0x3FEB63B7, 0x3FEC0719, 0x3FECAAEC, 0x3FED4F30, 0x3FEDF3E7, 0x3FEE9910, 0x3FEF3EAB,
  0x3FEFE4BA, 0x3FF08B3B, 0x3FF13231, 0x3FF1D99A, 0x3FF28177, 0x3FF329C9, 0x3FF3D290, 0x3FF47BCC,
  0x3FF5257D, 0x3FF5CFA4, 0x3FF67A41, 0x3FF72555, 0x3FF7D0DF, 0x3FF87CE1, 0x3FF9295A, 0x3FF9D64A,
  0x3FFA83B3, 0x3FFB3194, 0x3FFBDFED, 0x3FFC8EC0, 0x3FFD3E0C, 0x3FFDEDD2, 0x3FFE9E11, 0x3FFF4ECB]

/-- EXT of R113: the binary32 value nearest to 2^(j/256), entries 256 to 256. -/
def extTable4 : List Nat := [
  0x40000000]

/-- EXT of R113: the binary32 value nearest to 2^(j/256). -/
def extTable : List Nat :=
  extTable0 ++ extTable1 ++ extTable2 ++ extTable3 ++ extTable4

/-- LT of R133: the binary32 value nearest to log2(1 + j/256), entries 0 to 63. -/
def log2Table0 : List Nat := [
  0x00000000, 0x3BB84E23, 0x3C37F286, 0x3C89B189, 0x3CB73CB4, 0x3CE49B1E, 0x3D08E68F, 0x3D1F6985,
  0x3D35D69C, 0x3D4C2DFE, 0x3D626FD6, 0x3D789C4C, 0x3D8759C5, 0x3D925ADC, 0x3D9D517F, 0x3DA83DC2,
  0x3DB31FB8, 0x3DBDF775, 0x3DC8C50B, 0x3DD3888F, 0x3DDE4212, 0x3DE8F1A7, 0x3DF39761, 0x3DFE3350,
  0x3E0462C4, 0x3E09A70E, 0x3E0EE68D, 0x3E14214A, 0x3E19574F, 0x3E1E88A3, 0x3E23B550, 0x3E28DD5D,
  0x3E2E00D2, 0x3E331FB8, 0x3E383A17, 0x3E3D4FF6, 0x3E42615F, 0x3E476E57, 0x3E4C76E8, 0x3E517B19,
  0x3E567AF1, 0x3E5B7679, 0x3E606DB6, 0x3E6560B2, 0x3E6A4F72, 0x3E6F39FF, 0x3E74205F, 0x3E79029A,
  0x3E7DE0B6, 0x3E815D5D, 0x3E83C857, 0x3E86314C, 0x3E88983F, 0x3E8AFD34, 0x3E8D602E, 0x3E8FC130,
  0x3E92203D, 0x3E947D5A, 0x3E96D888, 0x3E9931CB, 0x3E9B8926, 0x3E9DDE9D, 0x3EA03232, 0x3EA283E8]

/-- LT of R133: the binary32 value nearest to log2(1 + j/256), entries 64 to 127. -/
def log2Table1 : List Nat := [
  0x3EA4D3C2, 0x3EA721C4, 0x3EA96DF0, 0x3EABB849, 0x3EAE00D2, 0x3EB0478E, 0x3EB28C7F, 0x3EB4CFA9,
  0x3EB7110E, 0x3EB950B2, 0x3EBB8E96, 0x3EBDCABD, 0x3EC0052B, 0x3EC23DE2, 0x3EC474E4, 0x3EC6AA34,
  0x3EC8DDD4, 0x3ECB0FC8, 0x3ECD4012, 0x3ECF6EB4, 0x3ED19BB0, 0x3ED3C70A, 0x3ED5F0C4, 0x3ED818DF,
  0x3EDA3F60, 0x3EDC6447, 0x3EDE8797, 0x3EE0A953, 0x3EE2C97D, 0x3EE4E818, 0x3EE70525, 0x3EE920A6,
  0x3EEB3A9F, 0x3EED5311, 0x3EEF69FF, 0x3EF17F6A, 0x3EF39355, 0x3EF5A5C2, 0x3EF7B6B4, 0x3EF9C62B,
  0x3EFBD42B, 0x3EFDE0B6, 0x3EFFEBCD, 0x3F00FAB9, 0x3F01FED4, 0x3F030239, 0x3F0404E8, 0x3F0506E2,
  0x3F060828, 0x3F0708BC, 0x3F08089E, 0x3F0907CF, 0x3F0A0650, 0x3F0B0422, 0x3F0C0146, 0x3F0CFDBE,
  0x3F0DF989, 0x3F0EF4A9, 0x3F0FEF1F, 0x3F10E8EB, 0x3F11E20F, 0x3F12DA8B, 0x3F13D260, 0x3F14C990]

/-- LT of R133: the binary32 value nearest to log2(1 + j/256), entries 128 to 191. -/
def log2Table2 : List Nat := [
  0x3F15C01A, 0x3F16B601, 0x3F17AB44, 0x3F189FE4, 0x3F1993E3, 0x3F1A8742, 0x3F1B7A00, 0x3F1C6C1F,
  0x3F1D5DA0, 0x3F1E4E83, 0x3F1F3ECA, 0x3F202E74, 0x3F211D84, 0x3F220BF9, 0x3F22F9D5, 0x3F23E718,
  0x3F24D3C2, 0x3F25BFD6, 0x3F26AB53, 0x3F27963A, 0x3F28808C, 0x3F296A4A, 0x3F2A5374, 0x3F2B3C0C,
  0x3F2C2411, 0x3F2D0B85, 0x3F2DF268, 0x3F2ED8BC, 0x3F2FBE80, 0x3F30A3B5, 0x3F31885C, 0x3F326C77,
  0x3F335004, 0x3F343306, 0x3F35157D, 0x3F35F769, 0x3F36D8CB, 0x3F37B9A4, 0x3F3899F5, 0x3F3979BD,
  0x3F3A58FF, 0x3F3B37B9, 0x3F3C15EE, 0x3F3CF39D, 0x3F3DD0C8, 0x3F3EAD6E, 0x3F3F8991, 0x3F406531,
  0x3F41404F, 0x3F421AEB, 0x3F42F506, 0x3F43CEA0, 0x3F44A7BA, 0x3F458055, 0x3F465872, 0x3F473010,
  0x3F480731, 0x3F48DDD4, 0x3F49B3FB, 0x3F4A89A7, 0x3F4B5ED7, 0x3F4C338C, 0x3F4D07C7, 0x3F4DDB88]

/-- LT of R133: the binary32 value nearest to log2(1 + j/256), entries 192 to 255. -/
def log2Table3 : List Nat := [
  0x3F4EAED0, 0x3F4F819F, 0x3F5053F7, 0x3F5125D7, 0x3F51F740, 0x3F52C832, 0x3F5398AF, 0x3F5468B6,
  0x3F553848, 0x3F560765, 0x3F56D60F, 0x3F57A446, 0x3F587209, 0x3F593F5A, 0x3F5A0C3A, 0x3F5AD8A8,
  0x3F5BA4A4, 0x3F5C7031, 0x3F5D3B4E, 0x3F5E05FB, 0x3F5ED039, 0x3F5F9A09, 0x3F60636A, 0x3F612C5E,
  0x3F61F4E5, 0x3F62BCFF, 0x3F6384AD, 0x3F644BF0, 0x3F6512C7, 0x3F65D933, 0x3F669F35, 0x3F6764CD,
  0x3F6829FB, 0x3F68EEC1, 0x3F69B31E, 0x3F6A7712, 0x3F6B3A9F, 0x3F6BFDC5, 0x3F6CC083, 0x3F6D82DB,
  0x3F6E44CD, 0x3F6F065A, 0x3F6FC781, 0x3F708843, 0x3F7148A1, 0x3F72089B, 0x3F72C832, 0x3F738765,
  0x3F744636, 0x3F7504A4, 0x3F75C2B0, 0x3F76805A, 0x3F773DA4, 0x3F77FA8C, 0x3F78B714, 0x3F79733C,
  0x3F7A2F04, 0x3F7AEA6D, 0x3F7BA578, 0x3F7C6023, 0x3F7D1A71, 0x3F7DD460, 0x3F7E8DF2, 0x3F7F4728]

/-- LT of R133: the binary32 value nearest to log2(1 + j/256). -/
def log2Table : List Nat :=
  log2Table0 ++ log2Table1 ++ log2Table2 ++ log2Table3

/-- NT of R132: the binary32 value nearest to the standard normal quantile of 0.5 + j/2048, entries 0 to 63. -/
def normalTable0 : List Nat := [
  0x00000000, 0x3AA06C9C, 0x3B206CA3, 0x3B70A309, 0x3BA06CC3, 0x3BC88811, 0x3BF0A373, 0x3C0C5F76,
  0x3C206D41, 0x3C347B1B, 0x3C488907, 0x3C5C9707, 0x3C70A51D, 0x3C8259A5, 0x3C8C60C8, 0x3C9667F9,
  0x3CA06F39, 0x3CAA7689, 0x3CB47DE9, 0x3CBE855B, 0x3CC88CE0, 0x3CD29479, 0x3CDC9C26, 0x3CE6A3E9,
  0x3CF0ABC2, 0x3CFAB3B3, 0x3D025DDF, 0x3D0761F0, 0x3D0C660F, 0x3D116A3C, 0x3D166E77, 0x3D1B72C1,
  0x3D20771A, 0x3D257B83, 0x3D2A7FFD, 0x3D2F8487, 0x3D348922, 0x3D398DCF, 0x3D3E928E, 0x3D439760,
  0x3D489C46, 0x3D4DA13F, 0x3D52A64C, 0x3D57AB6E, 0x3D5CB0A5, 0x3D61B5F2, 0x3D66BB55, 0x3D6BC0CF,
  0x3D70C660, 0x3D75CC09, 0x3D7AD1CA, 0x3D7FD7A4, 0x3D826ECB, 0x3D84F1D2, 0x3D8774E5, 0x3D89F806,
  0x3D8C7B35, 0x3D8EFE71, 0x3D9181BB, 0x3D940514, 0x3D96887B, 0x3D990BF2, 0x3D9B8F77, 0x3D9E130C]

/-- NT of R132: the binary32 value nearest to the standard normal quantile of 0.5 + j/2048, entries 64 to 127. -/
def normalTable1 : List Nat := [
  0x3DA096B0, 0x3DA31A64, 0x3DA59E28, 0x3DA821FD, 0x3DAAA5E2, 0x3DAD29D8, 0x3DAFADE0, 0x3DB231F8,
  0x3DB4B622, 0x3DB73A5F, 0x3DB9BEAD, 0x3DBC430E, 0x3DBEC781, 0x3DC14C07, 0x3DC3D0A0, 0x3DC6554D,
  0x3DC8DA0D, 0x3DCB5EE2, 0x3DCDE3CA, 0x3DD068C7, 0x3DD2EDD9, 0x3DD572FF, 0x3DD7F83B, 0x3DDA7D8C,
  0x3DDD02F3, 0x3DDF886F, 0x3DE20E02, 0x3DE493AC, 0x3DE7196C, 0x3DE99F43, 0x3DEC2532, 0x3DEEAB37,
  0x3DF13155, 0x3DF3B78B, 0x3DF63DD9, 0x3DF8C43F, 0x3DFB4ABE, 0x3DFDD156, 0x3E002C04, 0x3E016F6A,
  0x3E02B2DC, 0x3E03F65B, 0x3E0539E8, 0x3E067D82, 0x3E07C12A, 0x3E0904DF, 0x3E0A48A1, 0x3E0B8C72,
  0x3E0CD050, 0x3E0E143D, 0x3E0F5838, 0x3E109C41, 0x3E11E058, 0x3E13247E, 0x3E1468B3, 0x3E15ACF7,
  0x3E16F14A, 0x3E1835AC, 0x3E197A1D, 0x3E1ABE9E, 0x3E1C032E, 0x3E1D47CE, 0x3E1E8C7E, 0x3E1FD13E]

/-- NT of R132: the binary32 value nearest to the standard normal quantile of 0.5 + j/2048, entries 128 to 191. -/
def normalTable2 : List Nat := [
  0x3E21160D, 0x3E225AED, 0x3E239FDE, 0x3E24E4DE, 0x3E2629F0, 0x3E276F12, 0x3E28B445, 0x3E29F989,
  0x3E2B3EDE, 0x3E2C8445, 0x3E2DC9BC, 0x3E2F0F46, 0x3E3054E1, 0x3E319A8E, 0x3E32E04D, 0x3E34261E,
  0x3E356C01, 0x3E36B1F7, 0x3E37F7FF, 0x3E393E1A, 0x3E3A8448, 0x3E3BCA88, 0x3E3D10DC, 0x3E3E5743,
  0x3E3F9DBD, 0x3E40E44B, 0x3E422AEC, 0x3E4371A1, 0x3E44B86A, 0x3E45FF47, 0x3E474638, 0x3E488D3E,
  0x3E49D458, 0x3E4B1B86, 0x3E4C62C9, 0x3E4DAA22, 0x3E4EF18F, 0x3E503911, 0x3E5180A9, 0x3E52C856,
  0x3E541019, 0x3E5557F1, 0x3E569FDF, 0x3E57E7E4, 0x3E592FFE, 0x3E5A782F, 0x3E5BC076, 0x3E5D08D4,
  0x3E5E5149, 0x3E5F99D4, 0x3E60E276, 0x3E622B30, 0x3E637401, 0x3E64BCE9, 0x3E6605E9, 0x3E674F01,
  0x3E689831, 0x3E69E179, 0x3E6B2AD8, 0x3E6C7451, 0x3E6DBDE1, 0x3E6F078B, 0x3E70514D, 0x3E719B28]

/-- NT of R132: the binary32 value nearest to the standard normal quantile of 0.5 + j/2048, entries 192 to 255. -/
def normalTable3 : List Nat := [
  0x3E72E51C, 0x3E742F29, 0x3E757950, 0x3E76C390, 0x3E780DEA, 0x3E79585E, 0x3E7AA2EC, 0x3E7BED94,
  0x3E7D3856, 0x3E7E8332, 0x3E7FCE2A, 0x3E808C9E, 0x3E813234, 0x3E81D7D8, 0x3E827D89, 0x3E832349,
  0x3E83C916, 0x3E846EF0, 0x3E8514D9, 0x3E85BAD0, 0x3E8660D4, 0x3E8706E7, 0x3E87AD08, 0x3E885337,
  0x3E88F975, 0x3E899FC1, 0x3E8A461C, 0x3E8AEC85, 0x3E8B92FD, 0x3E8C3984, 0x3E8CE019, 0x3E8D86BE,
  0x3E8E2D71, 0x3E8ED433, 0x3E8F7B05, 0x3E9021E6, 0x3E90C8D6, 0x3E916FD6, 0x3E9216E5, 0x3E92BE04,
  0x3E936532, 0x3E940C70, 0x3E94B3BE, 0x3E955B1C, 0x3E960289, 0x3E96AA07, 0x3E975195, 0x3E97F933,
  0x3E98A0E1, 0x3E9948A0, 0x3E99F06F, 0x3E9A984F, 0x3E9B403F, 0x3E9BE840, 0x3E9C9052, 0x3E9D3875,
  0x3E9DE0A9, 0x3E9E88ED, 0x3E9F3143, 0x3E9FD9AA, 0x3EA08223, 0x3EA12AAC, 0x3EA1D348, 0x3EA27BF4]

/-- NT of R132: the binary32 value nearest to the standard normal quantile of 0.5 + j/2048, entries 256 to 319. -/
def normalTable4 : List Nat := [
  0x3EA324B3, 0x3EA3CD83, 0x3EA47665, 0x3EA51F59, 0x3EA5C85F, 0x3EA67177, 0x3EA71AA1, 0x3EA7C3DD,
  0x3EA86D2C, 0x3EA9168D, 0x3EA9C001, 0x3EAA6987, 0x3EAB1320, 0x3EABBCCC, 0x3EAC668A, 0x3EAD105C,
  0x3EADBA40, 0x3EAE6438, 0x3EAF0E43, 0x3EAFB861, 0x3EB06293, 0x3EB10CD8, 0x3EB1B731, 0x3EB2619D,
  0x3EB30C1D, 0x3EB3B6B1, 0x3EB46159, 0x3EB50C16, 0x3EB5B6E6, 0x3EB661CA, 0x3EB70CC3, 0x3EB7B7D0,
  0x3EB862F2, 0x3EB90E28, 0x3EB9B973, 0x3EBA64D3, 0x3EBB1048, 0x3EBBBBD2, 0x3EBC6770, 0x3EBD1324,
  0x3EBDBEEE, 0x3EBE6ACC, 0x3EBF16C0, 0x3EBFC2CA, 0x3EC06EE9, 0x3EC11B1E, 0x3EC1C769, 0x3EC273CA,
  0x3EC32041, 0x3EC3CCCE, 0x3EC47971, 0x3EC5262B, 0x3EC5D2FB, 0x3EC67FE2, 0x3EC72CDF, 0x3EC7D9F3,
  0x3EC8871E, 0x3EC93460, 0x3EC9E1B9, 0x3ECA8F29, 0x3ECB3CB1, 0x3ECBEA4F, 0x3ECC9805, 0x3ECD45D3]

/-- NT of R132: the binary32 value nearest to the standard normal quantile of 0.5 + j/2048, entries 320 to 383. -/
def normalTable5 : List Nat := [
  0x3ECDF3B8, 0x3ECEA1B6, 0x3ECF4FCB, 0x3ECFFDF8, 0x3ED0AC3D, 0x3ED15A9A, 0x3ED20910, 0x3ED2B79E,
  0x3ED36644, 0x3ED41503, 0x3ED4C3DB, 0x3ED572CC, 0x3ED621D5, 0x3ED6D0F8, 0x3ED78034, 0x3ED82F89,
  0x3ED8DEF7, 0x3ED98E7F, 0x3EDA3E20, 0x3EDAEDDB, 0x3EDB9DB0, 0x3EDC4D9F, 0x3EDCFDA8, 0x3EDDADCB,
  0x3EDE5E08, 0x3EDF0E60, 0x3EDFBED2, 0x3EE06F5F, 0x3EE12006, 0x3EE1D0C8, 0x3EE281A6, 0x3EE3329E,
  0x3EE3E3B1, 0x3EE494E0, 0x3EE5462A, 0x3EE5F78F, 0x3EE6A910, 0x3EE75AAD, 0x3EE80C66, 0x3EE8BE3B,
  0x3EE9702C, 0x3EEA2239, 0x3EEAD462, 0x3EEB86A8, 0x3EEC390A, 0x3EECEB89, 0x3EED9E25, 0x3EEE50DE,
  0x3EEF03B4, 0x3EEFB6A7, 0x3EF069B7, 0x3EF11CE5, 0x3EF1D030, 0x3EF28399, 0x3EF33720, 0x3EF3EAC5,
  0x3EF49E88, 0x3EF55269, 0x3EF60668, 0x3EF6BA86, 0x3EF76EC2, 0x3EF8231D, 0x3EF8D796, 0x3EF98C2F]

/-- NT of R132: the binary32 value nearest to the standard normal quantile of 0.5 + j/2048, entries 384 to 447. -/
def normalTable6 : List Nat := [
  0x3EFA40E7, 0x3EFAF5BE, 0x3EFBAAB4, 0x3EFC5FCA, 0x3EFD14FF, 0x3EFDCA54, 0x3EFE7FC9, 0x3EFF355E,
  0x3EFFEB13, 0x3F005074, 0x3F00AB6F, 0x3F01067A, 0x3F016195, 0x3F01BCC1, 0x3F0217FD, 0x3F02734A,
  0x3F02CEA8, 0x3F032A16, 0x3F038595, 0x3F03E124, 0x3F043CC5, 0x3F049876, 0x3F04F439, 0x3F05500C,
  0x3F05ABF1, 0x3F0607E7, 0x3F0663EE, 0x3F06C007, 0x3F071C31, 0x3F07786D, 0x3F07D4BA, 0x3F083119,
  0x3F088D8A, 0x3F08EA0C, 0x3F0946A1, 0x3F09A347, 0x3F0A0000, 0x3F0A5CCA, 0x3F0AB9A7, 0x3F0B1696,
  0x3F0B7397, 0x3F0BD0AB, 0x3F0C2DD1, 0x3F0C8B0A, 0x3F0CE855, 0x3F0D45B3, 0x3F0DA324, 0x3F0E00A8,
  0x3F0E5E3F, 0x3F0EBBE9, 0x3F0F19A6, 0x3F0F7776, 0x3F0FD55A, 0x3F103351, 0x3F10915B, 0x3F10EF79,
  0x3F114DAA, 0x3F11ABEF, 0x3F120A48, 0x3F1268B5, 0x3F12C736, 0x3F1325CA, 0x3F138473, 0x3F13E330]

/-- NT of R132: the binary32 value nearest to the standard normal quantile of 0.5 + j/2048, entries 448 to 511. -/
def normalTable7 : List Nat := [
  0x3F144201, 0x3F14A0E7, 0x3F14FFE1, 0x3F155EF0, 0x3F15BE13, 0x3F161D4B, 0x3F167C97, 0x3F16DBF9,
  0x3F173B6F, 0x3F179AFB, 0x3F17FA9C, 0x3F185A52, 0x3F18BA1D, 0x3F1919FD, 0x3F1979F4, 0x3F19D9FF,
  0x3F1A3A21, 0x3F1A9A58, 0x3F1AFAA5, 0x3F1B5B08, 0x3F1BBB81, 0x3F1C1C10, 0x3F1C7CB5, 0x3F1CDD71,
  0x3F1D3E43, 0x3F1D9F2C, 0x3F1E002B, 0x3F1E6141, 0x3F1EC26E, 0x3F1F23B1, 0x3F1F850C, 0x3F1FE67D,
  0x3F204806, 0x3F20A9A7, 0x3F210B5E, 0x3F216D2D, 0x3F21CF14, 0x3F223112, 0x3F229328, 0x3F22F556,
  0x3F23579C, 0x3F23B9FA, 0x3F241C71, 0x3F247EFF, 0x3F24E1A6, 0x3F254466, 0x3F25A73E, 0x3F260A2F,
  0x3F266D38, 0x3F26D05B, 0x3F273397, 0x3F2796EB, 0x3F27FA59, 0x3F285DE1, 0x3F28C182, 0x3F29253C,
  0x3F298910, 0x3F29ECFE, 0x3F2A5106, 0x3F2AB528, 0x3F2B1964, 0x3F2B7DBB, 0x3F2BE22B, 0x3F2C46B6]

/-- NT of R132: the binary32 value nearest to the standard normal quantile of 0.5 + j/2048, entries 512 to 575. -/
def normalTable8 : List Nat := [
  0x3F2CAB5C, 0x3F2D101D, 0x3F2D74F8, 0x3F2DD9EE, 0x3F2E3F00, 0x3F2EA42C, 0x3F2F0974, 0x3F2F6ED7,
  0x3F2FD456, 0x3F3039F1, 0x3F309FA7, 0x3F310579, 0x3F316B67, 0x3F31D172, 0x3F323798, 0x3F329DDB,
  0x3F33043B, 0x3F336AB7, 0x3F33D150, 0x3F343806, 0x3F349ED9, 0x3F3505C9, 0x3F356CD7, 0x3F35D402,
  0x3F363B4A, 0x3F36A2B0, 0x3F370A34, 0x3F3771D6, 0x3F37D996, 0x3F384175, 0x3F38A971, 0x3F39118D,
  0x3F3979C6, 0x3F39E21F, 0x3F3A4A96, 0x3F3AB32D, 0x3F3B1BE3, 0x3F3B84B8, 0x3F3BEDAC, 0x3F3C56C1,
  0x3F3CBFF4, 0x3F3D2948, 0x3F3D92BC, 0x3F3DFC50, 0x3F3E6605, 0x3F3ECFDA, 0x3F3F39D0, 0x3F3FA3E6,
  0x3F400E1D, 0x3F407876, 0x3F40E2F0, 0x3F414D8B, 0x3F41B848, 0x3F422326, 0x3F428E26, 0x3F42F949,
  0x3F43648D, 0x3F43CFF4, 0x3F443B7D, 0x3F44A72A, 0x3F4512F8, 0x3F457EEA, 0x3F45EAFF, 0x3F465738]

/-- NT of R132: the binary32 value nearest to the standard normal quantile of 0.5 + j/2048, entries 576 to 639. -/
def normalTable9 : List Nat := [
  0x3F46C394, 0x3F473013, 0x3F479CB6, 0x3F48097E, 0x3F487669, 0x3F48E379, 0x3F4950AD, 0x3F49BE07,
  0x3F4A2B84, 0x3F4A9927, 0x3F4B06EF, 0x3F4B74DD, 0x3F4BE2F0, 0x3F4C5129, 0x3F4CBF88, 0x3F4D2E0C,
  0x3F4D9CB8, 0x3F4E0B89, 0x3F4E7A82, 0x3F4EE9A1, 0x3F4F58E7, 0x3F4FC854, 0x3F5037E9, 0x3F50A7A6,
  0x3F51178A, 0x3F518796, 0x3F51F7CA, 0x3F526827, 0x3F52D8AD, 0x3F53495B, 0x3F53BA32, 0x3F542B33,
  0x3F549C5C, 0x3F550DB0, 0x3F557F2D, 0x3F55F0D4, 0x3F5662A6, 0x3F56D4A2, 0x3F5746C8, 0x3F57B91A,
  0x3F582B96, 0x3F589E3E, 0x3F591111, 0x3F598410, 0x3F59F73B, 0x3F5A6A93, 0x3F5ADE16, 0x3F5B51C6,
  0x3F5BC5A3, 0x3F5C39AE, 0x3F5CADE5, 0x3F5D224A, 0x3F5D96DD, 0x3F5E0B9E, 0x3F5E808D, 0x3F5EF5AB,
  0x3F5F6AF7, 0x3F5FE072, 0x3F60561D, 0x3F60CBF7, 0x3F614200, 0x3F61B83A, 0x3F622EA4, 0x3F62A53E]

/-- NT of R132: the binary32 value nearest to the standard normal quantile of 0.5 + j/2048, entries 640 to 703. -/
def normalTable10 : List Nat := [
  0x3F631C09, 0x3F639306, 0x3F640A33, 0x3F648192, 0x3F64F922, 0x3F6570E5, 0x3F65E8DA, 0x3F666101,
  0x3F66D95C, 0x3F6751E9, 0x3F67CAAA, 0x3F68439E, 0x3F68BCC7, 0x3F693623, 0x3F69AFB4, 0x3F6A297A,
  0x3F6AA375, 0x3F6B1DA6, 0x3F6B980C, 0x3F6C12A7, 0x3F6C8D7A, 0x3F6D0882, 0x3F6D83C2, 0x3F6DFF39,
  0x3F6E7AE7, 0x3F6EF6CD, 0x3F6F72EB, 0x3F6FEF41, 0x3F706BD0, 0x3F70E898, 0x3F71659A, 0x3F71E2D5,
  0x3F72604A, 0x3F72DDF9, 0x3F735BE4, 0x3F73DA09, 0x3F745869, 0x3F74D705, 0x3F7555DD, 0x3F75D4F1,
  0x3F765442, 0x3F76D3D0, 0x3F77539C, 0x3F77D3A5, 0x3F7853ED, 0x3F78D472, 0x3F795537, 0x3F79D63B,
  0x3F7A577E, 0x3F7AD902, 0x3F7B5AC5, 0x3F7BDCCA, 0x3F7C5F0F, 0x3F7CE196, 0x3F7D645F, 0x3F7DE76A,
  0x3F7E6AB8, 0x3F7EEE49, 0x3F7F721D, 0x3F7FF636, 0x3F803D49, 0x3F807F9A, 0x3F80C20D, 0x3F8104A3]

/-- NT of R132: the binary32 value nearest to the standard normal quantile of 0.5 + j/2048, entries 704 to 767. -/
def normalTable11 : List Nat := [
  0x3F81475C, 0x3F818A38, 0x3F81CD37, 0x3F82105A, 0x3F8253A1, 0x3F82970D, 0x3F82DA9C, 0x3F831E50,
  0x3F836229, 0x3F83A626, 0x3F83EA49, 0x3F842E92, 0x3F847300, 0x3F84B794, 0x3F84FC4E, 0x3F85412E,
  0x3F858636, 0x3F85CB64, 0x3F8610B9, 0x3F865636, 0x3F869BDB, 0x3F86E1A7, 0x3F87279C, 0x3F876DB9,
  0x3F87B3FE, 0x3F87FA6D, 0x3F884105, 0x3F8887C7, 0x3F88CEB2, 0x3F8915C8, 0x3F895D08, 0x3F89A472,
  0x3F89EC08, 0x3F8A33C8, 0x3F8A7BB5, 0x3F8AC3CD, 0x3F8B0C11, 0x3F8B5482, 0x3F8B9D1F, 0x3F8BE5E9,
  0x3F8C2EE1, 0x3F8C7807, 0x3F8CC15A, 0x3F8D0ADC, 0x3F8D548C, 0x3F8D9E6B, 0x3F8DE87A, 0x3F8E32B8,
  0x3F8E7D26, 0x3F8EC7C5, 0x3F8F1294, 0x3F8F5D94, 0x3F8FA8C6, 0x3F8FF429, 0x3F903FBE, 0x3F908B86,
  0x3F90D780, 0x3F9123AE, 0x3F91700F, 0x3F91BCA4, 0x3F92096D, 0x3F92566C, 0x3F92A39F, 0x3F92F107]

/-- NT of R132: the binary32 value nearest to the standard normal quantile of 0.5 + j/2048, entries 768 to 831. -/
def normalTable12 : List Nat := [
  0x3F933EA6, 0x3F938C7B, 0x3F93DA86, 0x3F9428C9, 0x3F947743, 0x3F94C5F6, 0x3F9514E0, 0x3F956403,
  0x3F95B360, 0x3F9602F7, 0x3F9652C7, 0x3F96A2D2, 0x3F96F318, 0x3F97439A, 0x3F979458, 0x3F97E552,
  0x3F98368A, 0x3F9887FE, 0x3F98D9B1, 0x3F992BA2, 0x3F997DD2, 0x3F99D042, 0x3F9A22F1, 0x3F9A75E1,
  0x3F9AC912, 0x3F9B1C85, 0x3F9B703A, 0x3F9BC431, 0x3F9C186C, 0x3F9C6CEB, 0x3F9CC1AE, 0x3F9D16B6,
  0x3F9D6C03, 0x3F9DC197, 0x3F9E1771, 0x3F9E6D93, 0x3F9EC3FC, 0x3F9F1AAE, 0x3F9F71AA, 0x3F9FC8EF,
  0x3FA0207F, 0x3FA0785A, 0x3FA0D081, 0x3FA128F4, 0x3FA181B5, 0x3FA1DAC4, 0x3FA23421, 0x3FA28DCD,
  0x3FA2E7CA, 0x3FA34217, 0x3FA39CB6, 0x3FA3F7A8, 0x3FA452EC, 0x3FA4AE84, 0x3FA50A71, 0x3FA566B3,
  0x3FA5C34B, 0x3FA6203B, 0x3FA67D82, 0x3FA6DB22, 0x3FA7391C, 0x3FA79770, 0x3FA7F620, 0x3FA8552C]

/-- NT of R132: the binary32 value nearest to the standard normal quantile of 0.5 + j/2048, entries 832 to 895. -/
def normalTable13 : List Nat := [
  0x3FA8B495, 0x3FA9145C, 0x3FA97482, 0x3FA9D508, 0x3FAA35EF, 0x3FAA9738, 0x3FAAF8E4, 0x3FAB5AF4,
  0x3FABBD69, 0x3FAC2044, 0x3FAC8386, 0x3FACE730, 0x3FAD4B43, 0x3FADAFC1, 0x3FAE14AB, 0x3FAE7A01,
  0x3FAEDFC4, 0x3FAF45F7, 0x3FAFAC9A, 0x3FB013AE, 0x3FB07B36, 0x3FB0E331, 0x3FB14BA1, 0x3FB1B488,
  0x3FB21DE7, 0x3FB287BF, 0x3FB2F211, 0x3FB35CE0, 0x3FB3C82C, 0x3FB433F7, 0x3FB4A042, 0x3FB50D10,
  0x3FB57A60, 0x3FB5E836, 0x3FB65692, 0x3FB6C577, 0x3FB734E5, 0x3FB7A4DF, 0x3FB81566, 0x3FB8867D,
  0x3FB8F823, 0x3FB96A5D, 0x3FB9DD2B, 0x3FBA508F, 0x3FBAC48B, 0x3FBB3922, 0x3FBBAE54, 0x3FBC2425,
  0x3FBC9A96, 0x3FBD11A9, 0x3FBD8961, 0x3FBE01C0, 0x3FBE7AC7, 0x3FBEF47A, 0x3FBF6EDA, 0x3FBFE9EB,
  0x3FC065AD, 0x3FC0E225, 0x3FC15F54, 0x3FC1DD3D, 0x3FC25BE3, 0x3FC2DB48, 0x3FC35B6F, 0x3FC3DC5C]

/-- NT of R132: the binary32 value nearest to the standard normal quantile of 0.5 + j/2048, entries 896 to 959. -/
def normalTable14 : List Nat := [
  0x3FC45E10, 0x3FC4E08F, 0x3FC563DC, 0x3FC5E7FA, 0x3FC66CEC, 0x3FC6F2B6, 0x3FC7795A, 0x3FC800DC,
  0x3FC88940, 0x3FC9128A, 0x3FC99CBC, 0x3FCA27DA, 0x3FCAB3E9, 0x3FCB40ED, 0x3FCBCEE9, 0x3FCC5DE1,
  0x3FCCEDDA, 0x3FCD7ED8, 0x3FCE10E0, 0x3FCEA3F6, 0x3FCF381F, 0x3FCFCD5F, 0x3FD063BC, 0x3FD0FB3B,
  0x3FD193E1, 0x3FD22DB3, 0x3FD2C8B7, 0x3FD364F3, 0x3FD4026C, 0x3FD4A128, 0x3FD5412E, 0x3FD5E285,
  0x3FD68531, 0x3FD7293C, 0x3FD7CEAA, 0x3FD87584, 0x3FD91DD2, 0x3FD9C79A, 0x3FDA72E4, 0x3FDB1FB9,
  0x3FDBCE22, 0x3FDC7E26, 0x3FDD2FCF, 0x3FDDE326, 0x3FDE9835, 0x3FDF4F05, 0x3FE007A2, 0x3FE0C215,
  0x3FE17E6A, 0x3FE23CAD, 0x3FE2FCE8, 0x3FE3BF29, 0x3FE4837B, 0x3FE549ED, 0x3FE6128D, 0x3FE6DD67,
  0x3FE7AA8D, 0x3FE87A0C, 0x3FE94BF5, 0x3FEA2059, 0x3FEAF749, 0x3FEBD0D8, 0x3FECAD19, 0x3FED8C1F]

/-- NT of R132: the binary32 value nearest to the standard normal quantile of 0.5 + j/2048, entries 960 to 1023. -/
def normalTable15 : List Nat := [
  0x3FEE6DFF, 0x3FEF52D0, 0x3FF03AA8, 0x3FF1259F, 0x3FF213CD, 0x3FF3054D, 0x3FF3FA3A, 0x3FF4F2B2,
  0x3FF5EED2, 0x3FF6EEBB, 0x3FF7F28E, 0x3FF8FA6F, 0x3FFA0683, 0x3FFB16F1, 0x3FFC2BE4, 0x3FFD4587,
  0x3FFE6409, 0x3FFF879D, 0x4000583B, 0x4000EF67, 0x40018970, 0x40022676, 0x4002C69B, 0x40036A04,
  0x400410D7, 0x4004BB3F, 0x40056969, 0x40061B85, 0x4006D1C8, 0x40078C6B, 0x40084BAB, 0x40090FCC,
  0x4009D915, 0x400AA7D8, 0x400B7C6A, 0x400C572C, 0x400D3887, 0x400E20F1, 0x400F10EA, 0x40100902,
  0x401109DC, 0x4012142D, 0x401328C0, 0x40144880, 0x40157475, 0x4016ADD1, 0x4017F5F4, 0x40194E7B,
  0x401AB949, 0x401C38A0, 0x401DCF31, 0x401F8045, 0x40214FE9, 0x4023432F, 0x40256094, 0x4027B091,
  0x402A3E8C, 0x402D1A57, 0x40305AEA, 0x40342378, 0x4038AE3E, 0x403E66BD, 0x404639A8, 0x40530537]

/-- NT of R132: the binary32 value nearest to the standard normal quantile of 0.5 + j/2048. -/
def normalTable : List Nat :=
  normalTable0 ++ normalTable1 ++ normalTable2 ++ normalTable3 ++ normalTable4 ++ normalTable5 ++ normalTable6 ++ normalTable7 ++ normalTable8 ++ normalTable9 ++ normalTable10 ++ normalTable11 ++ normalTable12 ++ normalTable13 ++ normalTable14 ++ normalTable15

/-- NTEND of R132 (3.8125). -/
def normalEnd : Nat := 0x40740000

/-- Entry `j` of a table, 0 beyond its end. -/
def tableAt (t : List Nat) (j : Nat) : Nat := t.getD j 0

end Sys2Proof.Machine
end

