-- ==== Sys2Proof/Machine/F32.lean ====
section
/-! DEFINITION. binary32 operations of R6 on codes, and the fixed functions built on them: `exp2_d` (R113),
`log2_t` (R133), `gauss` (R132), `gumbel` (R137), `floor_f`. A NaN result is the canonical NaN. -/

namespace Sys2Proof.Machine

/-- A binary32 code. -/
abbrev F32 := Nat

/-- `xf` of R76: the exact value of a binary32 code. -/
def xf (a : F32) : XVal := xvCode fmtFp32 false a

/-- One rounding to binary32, to nearest even, overflow to infinity (R6). -/
def toF32 (x : XVal) : F32 := (convertOne x fmtFp32 false true .rne 0).1

def f32NaN : F32 := 0x7FC00000
def f32Inf : F32 := 0x7F800000
def f32NegInf : F32 := 0xFF800000
def f32One : F32 := 0x3F800000
def f32Zero : F32 := 0
/-- LOG2E and LN2 of R112, NEG_LN2 of R133, SQRT_HALF of R71. -/
def f32Log2e : F32 := 0x3FB8AA3B
def f32Ln2 : F32 := 0x3F317218
def f32NegLn2 : F32 := 0xBF317218
def f32SqrtHalf : F32 := 0x3F3504F3

def fAdd (a b : F32) : F32 := toF32 ((xf a).add (xf b))
def fSub (a b : F32) : F32 := toF32 ((xf a).add (xf b).neg)
def fMul (a b : F32) : F32 := toF32 ((xf a).mul (xf b))
def fDiv (a b : F32) : F32 := toF32 ((xf a).quo (xf b))
/-- Negation flips the sign bit. -/
def fNeg (a : F32) : F32 := a ^^^ 0x80000000
def fIsNan (a : F32) : Bool := (xf a).isNan
def fIsInf (a : F32) : Bool := (xf a).isInf
def fIsFin (a : F32) : Bool := (xf a).isFinite
def fIsZero (a : F32) : Bool := (xf a).isZero
def fLt (a b : F32) : Bool := (xf a).lt (xf b)
/-- Magnitude: the sign bit cleared. -/
def fAbs (a : F32) : F32 := a % 0x80000000
/-- Conversion of an integer, one rounding (R6). -/
def fOfNat (n : Nat) : F32 := toF32 (XVal.mk' false n 0)
/-- `pow2` of R31. -/
def fPow2 (x : Int) : F32 := toF32 (.fin false 1 x false)

/-- `expb` of R76: floor(log2 v) of a finite positive value, with its significand normalised to 24 bits. -/
def expb (v : F32) : Int × Nat :=
  match xf v with
  | .fin _ m e _ => (e + Nat.log2 m, m * 2 ^ (23 - Nat.log2 m))
  | _ => (0, 0)

/-- The floor of a finite binary32 value, as an integer (`floor_f` of R113). -/
def floorInt (v : F32) : Int :=
  match xf v with
  | .fin n m e _ =>
    if 0 ≤ e then (if n then -((m * 2 ^ e.toNat : Nat) : Int) else (m * 2 ^ e.toNat : Nat))
    else
      let q := m / 2 ^ (-e).toNat
      let r := m % 2 ^ (-e).toNat
      if n then (if r = 0 then -(q : Int) else -(q : Int) - 1) else q
  | _ => 0

/-- A small integer as binary32. -/
def fOfInt (i : Int) : F32 := toF32 (XVal.mk' (decide (i < 0)) i.natAbs 0)

/-- `exp2_d` of R113. For an argument just below 0 the subtraction rounds to 1.0 and the interpolation step is an
exact zero times a table difference (log 11). -/
def exp2d (y : F32) : F32 :=
  if fIsNan y then f32NaN
  else if fLt y (fOfInt (-149)) then f32Zero
  else
    let fl := floorInt y
    let f := fSub y (fOfInt fl)
    let g := fMul f (fOfNat 256)
    let j := (floorInt g).toNat
    let t := fSub g (fOfNat j)
    let lo := tableAt extTable (min j 256)
    let dd := fMul t (fSub (tableAt extTable (min (j + 1) 256)) lo)
    fMul (fAdd lo dd) (fPow2 fl)

/-- `log2_t` of R133. -/
def log2t (s : F32) : F32 :=
  if fIsNan s then f32NaN
  else if fIsZero s then f32NegInf
  else if (xf s).sign then f32NaN
  else if fIsInf s then s
  else
    let (eb, m) := expb s
    let j := m / 2 ^ 15 % 256
    let t := fMul (fOfNat (m % 2 ^ 15)) (fPow2 (-15))
    let lo := tableAt log2Table j
    let top := if j < 255 then tableAt log2Table (j + 1) else f32One
    let l := fAdd lo (fMul t (fSub top lo))
    fAdd (fOfInt eb) l

/-- `gauss` of R132. -/
def gauss (word : Nat) : F32 :=
  let k := word % 2 ^ 31
  let j := k / 2 ^ 21
  let t := fMul (fOfNat (k % 2 ^ 21)) (fPow2 (-21))
  let lo := tableAt normalTable j
  let top := if j < 1023 then tableAt normalTable (j + 1) else normalEnd
  let r := fAdd lo (fMul t (fSub top lo))
  if bitAt word 31 then fNeg r else r

/-- `gumbel` of R137. -/
def gumbel (word : Nat) : F32 :=
  let k := word / 256 % 2 ^ 24
  if k = 0 then f32NegInf
  else
    let u := fMul (fOfNat k) (fPow2 (-24))
    let y := fMul (log2t u) f32NegLn2
    fMul (log2t y) f32NegLn2

/-- The uniform value (word >> 8) * 2^-24 of R130 and R208. -/
def uniform (word : Nat) : F32 := fMul (fOfNat (word / 256 % 2 ^ 24)) (fPow2 (-24))

end Sys2Proof.Machine
end

