-- ==== Sys2Proof/Machine/Mixer.lean ====
section
/-! DEFINITION. The mixer (R124, R125), the checksums CRC-64/ECMA-182 (R122) and CRC-32C (R341), and the chunk
digest of R242. -/

namespace Sys2Proof.Machine

def add32 (a b : Nat) : Nat := (a + b) % 2 ^ 32
/-- `rotl` of R124. -/
def rotl32 (v n : Nat) : Nat := (v * 2 ^ n + v / 2 ^ (32 - n)) % 2 ^ 32

/-- MC, RA and RB of Table 7.1. -/
def mixC (r : Nat) : Nat := 0x9E3779B9 * (r + 1) % 2 ^ 32
def mixRA (r : Nat) : Nat := nth [16, 8, 24, 12] (r % 4) 0
def mixRB (r : Nat) : Nat := nth [12, 20, 8, 16] (r % 4) 0

/-- The four state words of the mixer. -/
structure Mix where
  a : Nat := 0
  b : Nat := 0
  c : Nat := 0
  d : Nat := 0
  deriving DecidableEq, Repr, Inhabited

/-- One round of `mix` (R124). -/
def mixRound (k0 k1 : Nat) (s : Mix) (r : Nat) : Mix :=
  let k := if r % 2 = 0 then k0 else k1
  let a := add32 (add32 s.a s.b) (add32 k (mixC r))
  let d := rotl32 (s.d ^^^ a) (mixRA r)
  let c := add32 s.c d
  let b := rotl32 (s.b ^^^ c) (mixRB r)
  { a := a, b := b, c := c, d := d }

/-- `mix` of R124: the four output words. -/
def mix (key stream pos draw : Nat) : Mix :=
  let k0 := key % 2 ^ 32
  let k1 := key / 2 ^ 32 % 2 ^ 32
  let s0 : Mix := { a := (draw % 2 ^ 32) ^^^ k0, b := pos % 2 ^ 32, c := (pos / 2 ^ 32 % 2 ^ 32) ^^^ k1, d := stream % 2 ^ 32 }
  let s := forN 8 s0 (mixRound k0 k1)
  { a := add32 s.a k0, b := add32 s.b k1, c := add32 s.c k0, d := add32 s.d k1 }

/-- The 128-bit output of a call (R125). -/
def Mix.out (o : Mix) : Nat := o.a + o.b * 2 ^ 32 + o.c * 2 ^ 64 + o.d * 2 ^ 96
/-- Byte, halfword, word and bit of an output (R125). -/
def Mix.byte (o : Mix) (q : Nat) : Nat := bits o.out (8 * q + 7) (8 * q)
def Mix.half (o : Mix) (h : Nat) : Nat := bits o.out (16 * h + 15) (16 * h)
def Mix.word (o : Mix) (v : Nat) : Nat := bits o.out (32 * v + 31) (32 * v)
def Mix.bitv (o : Mix) (j : Nat) : Bool := bitAt o.out j

/-- Positions are 64 bits. -/
def pos64 (p : Nat) : Nat := p % 2 ^ 64

/-- The stochastic-rounding byte of position `p` (Table 7.4). -/
def srByte (seed stream draw p : Nat) : Nat := (mix seed stream (pos64 p / 16) draw).byte (p % 16)

/-- `rot_sign` of R70: true for -1. -/
def rotSign (seed p : Nat) : Bool := (mix seed 0xFFFFFF00 (pos64 p / 128) 0).bitv (p % 128)

/-- One bit step of CRC-64/ECMA-182 (R122). -/
def crc64Bit (c : Nat) (_ : Nat) : Nat :=
  if c ≥ 2 ^ 63 then (c * 2 % 2 ^ 64) ^^^ 0x42F0E1EBA9EA3693 else c * 2
/-- One byte, most significant bit first (R122). -/
def crc64Byte (c : Nat) (b : Nat) : Nat := forN 8 (c ^^^ (b % 256 * 2 ^ 56)) crc64Bit
/-- `crc64` of R242 over bytes. -/
def crc64 (l : List Byte) : Nat := l.foldl (fun c b => crc64Byte c b.toNat) 0

/-- One bit step of CRC-32C, reflected (R341). -/
def crc32Bit (c : Nat) (_ : Nat) : Nat := if c % 2 = 1 then (c / 2) ^^^ 0x82F63B78 else c / 2
/-- CRC-32C of R341: polynomial 0x1EDC_6F41 reflected, initial value and final XOR all ones. -/
def crc32c (l : List Byte) : Nat := l.foldl (fun c b => forN 8 (c ^^^ b.toNat) crc32Bit) 0xFFFFFFFF ^^^ 0xFFFFFFFF

/-- `chunk_digest` of R242 from the CRC of the chunk's bytes. -/
def chunkDigest (crc bucket role c sender : Nat) : Nat :=
  let o := mix crc 0xFFFFFF01 (bucket * 2 ^ 40 + role * 2 ^ 32 + c) sender
  o.a + o.b * 2 ^ 32

end Sys2Proof.Machine
end

