-- ==== Sys2Proof/Machine/Operands.lean ====
section
/-! DEFINITION. Tensor operands: the format word (R43, R44), packed tensors and their planes (R45 to R50), the exact
value an element stands for (R42), and the writes of elements, scales and quoins. -/

namespace Sys2Proof.Machine

/-- A format word (Table 2.7). `ash` is the field code, `rsv` the reserved bits. -/
structure FmtW where
  elem : Nat := 0
  scale : Nat := 0
  ash : Nat := 0
  bound : Bool := false
  quoins : Nat := 0
  rowsc : Bool := false
  rotk : Nat := 0
  rsv : Nat := 0
  rowlen : Nat := 0
  deriving DecidableEq, Repr, Inhabited

def FmtW.ofNat (w : Nat) : FmtW :=
  { elem := bits w 63 58, scale := bits w 57 52, ash := bits w 51 50, bound := bitAt w 49, quoins := bits w 48 47,
    rowsc := bitAt w 46, rotk := bits w 45 42, rsv := bits w 41 24, rowlen := bits w 23 0 }

namespace FmtW

/-- The ashlar size B, 0 when ASH is 0. -/
def b (f : FmtW) : Nat := if f.ash = 1 then 16 else if f.ash = 2 then 32 else 0
/-- The element format. -/
def fmt (f : FmtW) : Fmt := fmtD f.elem
/-- The ashlar scale format (R40). -/
def sfmt (f : FmtW) : Fmt := if f.scale = 0x20 then fmtE8m0 else fmtE5m3
def e8 (f : FmtW) : Bool := f.scale == 0x20
/-- ASH, ROWSC and ROTK are 0 (R177). -/
def unpacked (f : FmtW) : Bool := f.ash == 0 && !f.rowsc && f.rotk == 0
def isPair (f : FmtW) : Bool := f.fmt.kind == .pair
/-- Larger of the ashlar size and 2^ROTK (R222, R268). -/
def group (f : FmtW) : Nat := max f.b (if f.rotk = 0 then 1 else 2 ^ f.rotk)
/-- D of R45 for an element count. -/
def d (f : FmtW) (n : Nat) : Nat := if f.rowlen = 0 then n else f.rowlen

/-- The rules of R44 that do not depend on the element count. -/
def okStatic (f : FmtW) : Bool :=
  (fmtOf f.elem).isSome && f.ash != 3 && f.quoins != 3 && (f.rotk == 0 || (4 ≤ f.rotk && f.rotk ≤ 8)) &&
  (if f.ash = 0 then f.scale == 0 && !f.bound && f.quoins == 0 && f.rotk == 0
   else ashlarOk f.elem && (f.scale == 0x20 || f.scale == 0x21))

/-- The rules of R44 for an operand of `n` elements, with the rotation geometry of R69. -/
def ok (f : FmtW) (n : Nat) : Bool :=
  f.okStatic && (f.rowlen == 0 || n % f.rowlen == 0) && (!(f.rowsc && f.rowlen == 0) || n < 2 ^ 24) &&
  (f.rotk == 0 || f.d n % 2 ^ f.rotk == 0)

/-- Required alignment of the operand's base in bytes (R29); a code that is no element format has no element size, and
asks for none (BAD_FORMAT is the later check). -/
def align (f : FmtW) : Nat :=
  if f.ash ≠ 0 then 64 else if (fmtOf f.elem).isSome && 16 ≤ f.fmt.w then f.fmt.w / 8 else 1

end FmtW

/-- The results of `plane_offsets` (R46). -/
structure Planes where
  mortar : Nat := 0
  quoin : Nat := 0
  rowscale : Nat := 0
  total : Nat := 0
  deriving DecidableEq, Repr, Inhabited

/-- `plane_offsets` of R46. -/
def planeOffsets (n d b w : Nat) (bound : Bool) (q : Nat) (rowsc : Bool) : Planes :=
  let rows := if d ≠ 0 then n / d else 0
  let g := if b = 0 then 0 else rows * ceilDiv d b
  let ab := b * w / 8
  let e0 := if b = 0 then ceilDiv (n * w) 8 else if bound then g * (ab + 1) else g * ab
  let mortar := if bound then 0 else align64 e0
  let e1 := if b ≠ 0 && !bound then mortar + g else e0
  let quoin := align64 e1
  let e2 := if q ≠ 0 then quoin + g * q * 4 else e1
  let rowscale := align64 e2
  let e3 := if rowsc then rowscale + rows * 4 else e2
  { mortar := mortar, quoin := quoin, rowscale := rowscale, total := e3 }

/-- The ranges of the planes of a tensor, bytes from its base (R46): elements with a bound mortar, a split mortar, quoin
entries, row scales. The bytes between two planes belong to none. -/
def planeRanges (n d b w : Nat) (bound : Bool) (q : Nat) (rowsc : Bool) : List (Nat × Nat) :=
  let p := planeOffsets n d b w bound q rowsc
  let rows := if d ≠ 0 then n / d else 0
  let g := if b = 0 then 0 else rows * ceilDiv d b
  let ab := b * w / 8
  [(0, if b = 0 then ceilDiv (n * w) 8 else if bound then g * (ab + 1) else g * ab)] ++
    (if b ≠ 0 && !bound then [(p.mortar, p.mortar + g)] else []) ++
    (if q ≠ 0 then [(p.quoin, p.quoin + g * q * 4)] else []) ++
    (if rowsc then [(p.rowscale, p.rowscale + rows * 4)] else [])

/-- A tensor operand: its device base address, its format word and its element count. -/
structure Tensor where
  base : Nat := 0
  f : FmtW := {}
  n : Nat := 0
  deriving DecidableEq, Repr, Inhabited

namespace Tensor

def d (t : Tensor) : Nat := t.f.d t.n
def w (t : Tensor) : Nat := t.f.fmt.w
def planes (t : Tensor) : Planes := planeOffsets t.n t.d t.f.b t.w t.f.bound t.f.quoins t.f.rowsc
/-- Ashlars per row. -/
def apr (t : Tensor) : Nat := if t.f.b = 0 then 0 else ceilDiv t.d t.f.b
/-- Element bytes of one ashlar. -/
def ab (t : Tensor) : Nat := t.f.b * t.w / 8
def row (t : Tensor) (i : Nat) : Nat := i / t.d
def col (t : Tensor) (i : Nat) : Nat := i % t.d
/-- The ashlar of element `i` (R45). -/
def ashlar (t : Tensor) (i : Nat) : Nat := t.row i * t.apr + t.col i / t.f.b
/-- The position of element `i` in its ashlar. -/
def pos (t : Tensor) (i : Nat) : Nat := t.col i % t.f.b
/-- Byte offset of the elements of ashlar `g` (R47). -/
def ashOff (t : Tensor) (g : Nat) : Nat := if t.f.bound then g * (t.ab + 1) + 1 else g * t.ab
/-- Byte offset of the scale of ashlar `g` (R47). -/
def scaleOff (t : Tensor) (g : Nat) : Nat := if t.f.bound then g * (t.ab + 1) else t.planes.mortar + g
/-- Byte offset of quoin entry `k` of ashlar `g` (R48). -/
def quoinOff (t : Tensor) (g k : Nat) : Nat := t.planes.quoin + (g * t.f.quoins + k) * 4
/-- Stream bit of element `i` from the tensor's base (R27, R47). -/
def bitOff (t : Tensor) (i : Nat) : Nat :=
  if t.f.b = 0 then i * t.w else t.ashOff (t.ashlar i) * 8 + t.pos i * t.w

/-- The stored code of element `i`. -/
def code (m : Mem) (t : Tensor) (i : Nat) : Nat := m.rdBits t.base (t.bitOff i) t.w
/-- The scale code of ashlar `g`. -/
def scaleCode (m : Mem) (t : Tensor) (g : Nat) : Nat := m.rd (t.base + t.scaleOff g) 1
/-- The row scale of row `r` (R50). -/
def rowScale (m : Mem) (t : Tensor) (r : Nat) : F32 := m.rd (t.base + t.planes.rowscale + 4 * r) 4
/-- Quoin entry `k` of ashlar `g`. -/
def quoinEntry (m : Mem) (t : Tensor) (g k : Nat) : Nat := m.rd (t.base + t.quoinOff g k) 4
/-- A quoin entry that is not ignored by itself (R49): VALID, POS below B, POS no pad. -/
def quoinOk (t : Tensor) (g e : Nat) : Bool :=
  bitAt e 31 && decide (bits e 20 16 < t.f.b) && decide (g % t.apr * t.f.b + bits e 20 16 < t.d)

/-- The BF16 value of the quoin at position `p` of ashlar `g`, if one covers it (R49). -/
def quoinAt (m : Mem) (t : Tensor) (g p : Nat) : Option Nat :=
  if t.f.quoins = 0 then none
  else
    let e0 := t.quoinEntry m g 0
    if t.quoinOk g e0 && bits e0 20 16 == p then some (bits e0 15 0)
    else if t.f.quoins = 1 then none
    else
      let e1 := t.quoinEntry m g 1
      if t.quoinOk g e1 && bits e1 20 16 == p then some (bits e1 15 0) else none

/-- The factor that the row scale contributes (R41, R42). -/
def rowFactor (m : Mem) (t : Tensor) (i : Nat) (x : XVal) : XVal :=
  if t.f.rowsc then x.mul (xf (t.rowScale m (t.row i))) else x

/-- The value of element `i` without its row scale (R42, R207 PART 1). -/
def coreValue (m : Mem) (t : Tensor) (i : Nat) : XVal :=
  if t.f.b = 0 then elemValue t.f.fmt false (t.code m i)
  else
    let g := t.ashlar i
    let sc := xvCode t.f.sfmt false (t.scaleCode m g)
    match t.quoinAt m g (t.pos i) with
    | some v => if sc.isNan then .nan else xvCode fmtBf16 false v
    | none => (xvCode t.f.fmt true (t.code m i)).mul sc

/-- The exact value element `i` stands for (R42, R53). -/
def value (m : Mem) (t : Tensor) (i : Nat) : XVal := t.rowFactor m i (t.coreValue m i)

/-- Memory with element `i` of a tensor without ashlars written; the last element of the run completes its byte (R28).
The run is the whole operand: where a shard or a segment ends inside a byte before the operand's end, the high bits stay
(DEDUCED, log 82). -/
def wrElem (m : Mem) (t : Tensor) (i code : Nat) : Mem :=
  let m' := m.wrBits t.base (t.bitOff i) t.w code
  if i + 1 = t.n then m'.endRun t.base t.n t.w else m'

/-- A quoin entry word (Table 2.9). -/
def quoinWord (pos value : Nat) : Nat := 2 ^ 31 + pos % 32 * 2 ^ 16 + value % 2 ^ 16

/-- Memory with ashlar `g` written: its codes, its scale and its quoin entries (R45 to R49). -/
def wrAshlar (m : Mem) (t : Tensor) (g : Nat) (codes : List Nat) (scale : Nat) (quoins : List Nat) : Mem :=
  let m1 := m.wr (t.base + t.ashOff g) t.ab
    (codes.foldr (fun c acc => c % 2 ^ t.w + acc * 2 ^ t.w) 0)
  let m2 := m1.wr (t.base + t.scaleOff g) 1 scale
  forN t.f.quoins m2 (fun m k => m.wr (t.base + t.quoinOff g k) 4 (nth quoins k 0))

end Tensor

end Sys2Proof.Machine
end

