-- ==== Sys2Proof/Machine/Ops.lean ====
section
/-! DEFINITION. The named operations that every meaning uses: table and engine accessors, outputs, the fields of a
descriptor (R175), where engines sit (R11), what the device map backs (R144), rights (R279), and pending endings
(R184). -/

namespace Sys2Proof.Machine

/-! ## Accessors: one home for each table -/

namespace State

def eng (s : State) (e : Nat) : Engine := SMap.get s.engines {} e
def setEng (s : State) (e : Nat) (v : Engine) : State := { s with engines := SMap.set s.engines {} e v }
def modEng (s : State) (e : Nat) (f : Engine → Engine) : State := s.setEng e (f (s.eng e))
def link (s : State) (p : Nat) : Link := SMap.get s.links {} p
def setLink (s : State) (p : Nat) (v : Link) : State := { s with links := SMap.set s.links {} p v }
def modLink (s : State) (p : Nat) (f : Link → Link) : State := s.setLink p (f (s.link p))
def ctx (s : State) (c : Nat) : Ctx := SMap.get s.ctxs {} c
def setCtx (s : State) (c : Nat) (v : Ctx) : State := { s with ctxs := SMap.set s.ctxs {} c v }
def modCtx (s : State) (c : Nat) (f : Ctx → Ctx) : State := s.setCtx c (f (s.ctx c))
def win (s : State) (w : Nat) : Window := SMap.get s.windows {} w
def setWin (s : State) (w : Nat) (v : Window) : State := { s with windows := SMap.set s.windows {} w v }
def pdt (s : State) (d : Nat) : PdEntry := SMap.get s.pds {} d
def setPd (s : State) (d : Nat) (v : PdEntry) : State := { s with pds := SMap.set s.pds {} d v }
def inl (s : State) (i : Nat) : InlineWin := SMap.get s.inlines {} i
def setInl (s : State) (i : Nat) (v : InlineWin) : State := { s with inlines := SMap.set s.inlines {} i v }
def modInl (s : State) (i : Nat) (f : InlineWin → InlineWin) : State := s.setInl i (f (s.inl i))
/-- An item presented on an output channel. -/
def out (s : State) (o : Output) : State := { s with outputs := s.outputs ++ [o] }
def setMem (s : State) (m : Mem) : State := { s with mem := m }

/-- The fetched descriptor of context `c` in slot `q`, if there is one. -/
def desc? (s : State) (c q : Nat) : Option Desc := (s.ctx c).descs.find? (fun d => d.seq == q)
/-- The fetched descriptor, or an empty one. -/
def desc (s : State) (c q : Nat) : Desc := (s.desc? c q).getD {}
/-- A change of one fetched descriptor. -/
def modDesc (s : State) (c q : Nat) (f : Desc → Desc) : State :=
  s.modCtx c (fun x => { x with descs := x.descs.map (fun d => if d.seq = q then f d else d) })

end State

/-! ## Where engines sit (R11) and what they hold (Table 1.2) -/

/-- Number of engines, Stack Engines first (Table 9.1). -/
def numEngines : Nat := 128
def isPe (e : Nat) : Bool := 96 ≤ e && e < 128
def isSe (e : Nat) : Bool := e < 96
/-- The engine number of PE `m`. -/
def peEng (m : Nat) : Nat := 96 + m
/-- The die of an engine. -/
def dieOf (e : Nat) : Nat := if e < 96 then e / 24 else (e - 96) / 8
/-- The lane width (R13). -/
def lanes (e : Nat) : Nat := if e < 96 then 1024 else 512
/-- Live tile slots of the store. -/
def storeSlots (e : Nat) : Nat := if e < 96 then 256 else 128
/-- All engine numbers. -/
def allEngines : List Nat := List.range numEngines
/-- The eight SEs of a stack. -/
def stackSes (k : Nat) : List Nat := (List.range 8).map (· + 8 * k)

def Engine.isOn (e : Engine) : Bool := e.st == .on
/-- ON and not fenced: the engine issues work. -/
def Engine.works (e : Engine) : Bool := e.st == .on && !e.fenced
/-- A targeted self-test is running (R304). -/
def Engine.testing (e : Engine) : Bool := e.tests.any (·.started)
/-- Stopped in a ribbon hold: past the cut point with HOLD 1 (R333). -/
def Engine.holding (e : Engine) : Bool := e.cut.marked && e.cut.hold
/-- Some engine is not OFF. -/
def State.anyEngine (s : State) : Bool := s.engines.any (fun p => p.2.st != .off)

/-! ## The fields of a descriptor (R175) -/

namespace Desc

def w (d : Desc) (i : Nat) : Nat := nth d.words i 0
def op (d : Desc) : Nat := bits (d.w 0) 7 0
def hflags (d : Desc) : Nat := bits (d.w 0) 15 8
def ovl (d : Desc) : Bool := bitAt (d.w 0) 8
def round (d : Desc) : Bool := bitAt (d.w 0) 9
def infnan (d : Desc) : Bool := bitAt (d.w 0) 10
def pb (d : Desc) : Bool := bitAt (d.w 0) 11
def opf (d : Desc) : Bool := bitAt (d.w 0) 12
def notify (d : Desc) : Bool := bitAt (d.w 0) 13
def seqField (d : Desc) : Nat := bits (d.w 0) 31 16
def stream (d : Desc) : Nat := bits (d.w 0) 63 32
def soff (d : Desc) : Nat := bits (d.w 1) 39 0
def swin (d : Desc) : Nat := bits (d.w 1) 51 40
def dwin (d : Desc) : Nat := bits (d.w 1) 63 52
def doff (d : Desc) : Nat := bits (d.w 2) 39 0
def watchField (d : Desc) : Nat := bits (d.w 2) 55 40
def sub (d : Desc) : Nat := bits (d.w 2) 63 56
def count (d : Desc) : Nat := bits (d.w 3) 39 0
def job (d : Desc) : Nat := bits (d.w 3) 51 40
def param (d : Desc) : Nat := bits (d.w 3) 63 52
def sfmtW (d : Desc) : Nat := d.w 4
def dfmtW (d : Desc) : Nat := d.w 5
def sfmt (d : Desc) : FmtW := FmtW.ofNat (d.w 4)
def dfmt (d : Desc) : FmtW := FmtW.ofNat (d.w 5)
def seed (d : Desc) : Nat := d.w 6
def posbase (d : Desc) : Nat := d.w 7
/-- Word `i` of the parameter block. -/
def p (d : Desc) (i : Nat) : Nat := nth d.par i 0
def mode (d : Desc) : RMode := RMode.ofRound d.round

end Desc

/-! ## Opcodes (Table 0.4) and statuses (Table 0.5) -/

def opCONVERT : Nat := 0x01
def opQUANTISE : Nat := 0x02
def opDEQUANTISE : Nat := 0x03
def opROTATE : Nat := 0x04
def opFOLD : Nat := 0x05
def opREDUCE : Nat := 0x06
def opSTATS : Nat := 0x07
def opSAMPLE : Nat := 0x08
def opFILL : Nat := 0x09
def opRECIPE : Nat := 0x0A
def opCOLLECTIVE : Nat := 0x10
def opREBOND : Nat := 0x11
def opLEASE : Nat := 0x12
def opSIGNATURE : Nat := 0x18
def opFENCE : Nat := 0x20
def opRIBBON : Nat := 0x21
def opSAVE : Nat := 0x22
def opRESTORE : Nat := 0x23
def opDRAIN : Nat := 0x24
def opNOP : Nat := 0x30

/-- An opcode of Table 0.4. -/
def knownOp (o : Nat) : Bool :=
  [0x01, 0x02, 0x03, 0x04, 0x05, 0x06, 0x07, 0x08, 0x09, 0x0A, 0x10, 0x11, 0x12, 0x18, 0x20, 0x21, 0x22, 0x23, 0x24,
    0x30].contains o

def stOK : Nat := 0x00
def stNUMERIC : Nat := 0x01
def stREVOKED : Nat := 0x10
def stPROTECTION : Nat := 0x11
def stBADDESC : Nat := 0x12
def stBADFMT : Nat := 0x13
def stPEERLOST : Nat := 0x20
def stTICKETABORT : Nat := 0x21
def stDIGEST : Nat := 0x22
def stDATAERR : Nat := 0x30
def stFENCED : Nat := 0x31
def stSTOPPED : Nat := 0x40
def stCANCELLED : Nat := 0x41

/-- The endings of R184, highest first. -/
def endOrder : List Nat := [0x31, 0x30, 0x11, 0x20, 0x21, 0x10, 0x40, 0x41]

/-- The pending ending that R184 reports. -/
def pickEnd (l : List Nat) : Option Nat := endOrder.find? (fun x => l.contains x)

/-- A descriptor with one more pending ending. REVOKED, STOPPED and CANCELLED act at a boundary, so they do not touch a
descriptor that has passed its last one (R168, R184). -/
def Desc.addEnd (d : Desc) (st : Nat) : Desc :=
  if (st = stREVOKED || st = stSTOPPED || st = stCANCELLED) && (d.finished || d.status.isSome) then d
  else if d.ends.contains st then d else { d with ends := d.ends ++ [st] }

/-- The descriptor has met an ending or has done all its work: it issues nothing more. -/
def Desc.over (d : Desc) : Bool := d.finished || d.status.isSome || !d.ends.isEmpty

namespace State

def addEnd (s : State) (c q st : Nat) : State := s.modDesc c q (·.addEnd st)

/-- The engine of a context. -/
def engOf (s : State) (c : Nat) : Nat := (s.ctx c).use.engine

/-! ## The device map -/

/-- The region that holds a device address. -/
def region? (s : State) (a : Nat) : Option MapRegion :=
  s.devMap.find? (fun r => r.base ≤ a && a < r.base + r.size)

/-- `n` bytes from `a` lie wholly in memory that the device map backs; `k` bounds the regions crossed. -/
def backedFrom (s : State) : Nat → Nat → Nat → Bool
  | _, _, 0 => true
  | 0, _, _ => false
  | k + 1, a, n =>
    match s.region? a with
    | none => false
    | some r => if a + n ≤ r.base + r.size then true else backedFrom s k (r.base + r.size) (a + n - (r.base + r.size))

/-- The `n` bytes from `a` lie wholly in memory that the device map backs (R144, R166). -/
def backed (s : State) (a n : Nat) : Bool := s.backedFrom (s.devMap.length + 1) a n

/-- The stack that holds a device address. -/
def stackAt (s : State) (a : Nat) : Option Nat := (s.region? a).bind (·.stack)

/-- The device address of byte 0 of a stack, as the package's map places it. -/
def stackBase (s : State) (k : Nat) : Nat :=
  ((s.devMap.find? (fun r => r.stack == some k)).map (·.base)).getD 0

end State

/-! ## Windows and rights -/

namespace Window

/-- The device address of the first byte. -/
def addr (w : Window) : Nat := w.base * 4096
/-- Size in bytes. -/
def bytes (w : Window) : Nat := w.size * 4096
/-- Chunk size in bytes (R145). -/
def chunkBytes (w : Window) : Nat := 2 ^ (12 + w.chunk)
/-- Number of chunks (R145). -/
def chunks (w : Window) : Nat := ceilDiv w.bytes w.chunkBytes
/-- Address of the flag word of a chunk (R146). -/
def flagAddr (w : Window) (c : Nat) : Nat := w.flags * 64 + 4 * (c / 8)
/-- Bit offset of the flag of a chunk in its word (R146). -/
def flagLo (c : Nat) : Nat := 4 * (c % 8)
/-- PD and right bits of grant `g` (Table 8.1). -/
def grantPd (w : Window) (g : Nat) : Nat := bits w.grants (12 * g + 11) (12 * g + 4)
def grantBits (w : Window) (g : Nat) : Nat := bits w.grants (12 * g + 2) (12 * g)

end Window

/-- `rights` of R279: bit 0 READ, bit 1 WRITE, bit 2 FLAG. -/
def State.rights (s : State) (pd w : Nat) : Nat :=
  if !(s.win w).valid || !(s.pdt pd).valid then 0
  else if (s.win w).owner = pd then 7
  else (List.range 4).foldl
    (fun r g => if (s.win w).grantPd g = pd then r ||| (s.win w).grantBits g else r) 0

/-- The rights of R280 for an access: READ or WRITE, and FLAG in a flagged window. -/
def State.mayAccess (s : State) (pd w : Nat) (rd wr : Bool) : Bool :=
  let r := s.rights pd w
  (!rd || bitAt r 0) && (!wr || bitAt r 1) && (!(s.win w).flagged || bitAt r 2) && (s.win w).valid

/-- The destination chunk of output element `i` of a descriptor whose primary output is the header's destination. -/
def State.destChunk (s : State) (d : Desc) (i : Nat) : Option (Nat × Nat) :=
  if [opCONVERT, opQUANTISE, opDEQUANTISE, opROTATE, opFILL, opREDUCE, opRECIPE, opCOLLECTIVE, opREBOND].contains d.op then
    let t : Tensor := { f := d.dfmt, n := d.count }
    some (d.dwin, (d.doff + t.bitOff i / 8) / (s.win d.dwin).chunkBytes)
  else if d.op = opSAMPLE then some (d.dwin, (d.doff + 16 * i) / (s.win d.dwin).chunkBytes)
  else if (d.op = opFOLD || d.op = opDRAIN) && bitAt (d.p 7) 34 then
    let n := max 1 (bits (d.p 7) 13 8)
    let j := (bits (d.p 6) 31 0 + i / n) * d.dfmt.rowlen + bits (d.p 6) 55 32 + i % n
    some (d.dwin, (d.doff + j * d.dfmt.fmt.w / 8) / (s.win d.dwin).chunkBytes)
  else none

/-- The value of a flag in a word (R146). -/
def flagOf (word c : Nat) : Nat := word / 2 ^ Window.flagLo c % 16
/-- A flag word with one flag replaced (R146). -/
def withFlag (word c v : Nat) : Nat :=
  word - flagOf word c * 2 ^ Window.flagLo c + v * 2 ^ Window.flagLo c

/-- Flag values (Table 0.6). -/
def flREADY : Nat := 2
def flCLAIMED : Nat := 3
def flDONE : Nat := 4
def flFAULTED : Nat := 0xE

end Sys2Proof.Machine
end

