-- ==== Sys2Proof/Machine/Arbiter.lean ====
section
/-! DEFINITION. Arbitration (R23 to R25): the rounds of `arbiter_round`, headcounts, the stack arbiters; and the requests that
engines make of memory through their ports (R12, R348, R349). -/

namespace Sys2Proof.Machine

/-! ## `arbiter_round` (R24) -/

/-- A child of an arbiter: its headcount or fixed weight, its deficit, and the sizes of its waiting requests, head first. -/
structure ArbChild where
  weight : Nat := 0
  deficit : Nat := 0
  sizes : List Nat := []
  deriving DecidableEq, Repr, Inhabited

/-- The head requests that a deficit covers, at most `free` of them, and what is left of it. -/
def grantsIn : List Nat → Nat → Nat → Nat × Nat
  | x :: r, d, free + 1 => if x ≤ d then ((grantsIn r (d - x) free).1 + 1, (grantsIn r (d - x) free).2) else (0, d)
  | _, d, _ => (0, d)

/-- The visit to one child: the number of its requests granted, and the child after it. -/
def ArbChild.visit (c : ArbChild) (quantum free : Nat) : Nat × ArbChild :=
  if c.weight = 0 then (0, { c with deficit := 0 })
  else
    let g := grantsIn c.sizes (c.deficit + c.weight * quantum) free
    let rest := c.sizes.drop g.1
    (g.1, { c with deficit := if rest.isEmpty then 0 else g.2, sizes := rest })

/-- One round over the children in index order: the grants of each. `free` bounds the requests that can be taken. -/
def arbiterRound (quantum : Nat) : Nat → List ArbChild → List Nat × List ArbChild
  | _, [] => ([], [])
  | free, c :: r =>
    let t := c.visit quantum free
    let u := arbiterRound quantum (free - t.1) r
    (t.1 :: u.1, t.2 :: u.2)

/-- Rounds until no child has a request that can be granted: the children's indices in the order of their grants. -/
def arbiterRounds (quantum : Nat) : Nat → Nat → List ArbChild → List Nat × List ArbChild
  | 0, _, l => ([], l)
  | fuel + 1, free, l =>
    if free = 0 || l.all (fun c => c.weight == 0 || c.sizes.isEmpty) then ([], l)
    else
      let r := arbiterRound quantum free l
      let order := ((List.range l.length).map (fun i => List.replicate (nth r.1 i 0) i)).flatten
      let t := arbiterRounds quantum fuel (free - order.length) r.2
      (order ++ t.1, t.2)

/-- Rounds enough for every request of the children. -/
def roundsFor (quantum : Nat) (l : List ArbChild) : Nat := l.foldl (fun a c => a + c.sizes.sum / max 1 quantum + c.sizes.length + 1) 1

/-! ## Requests and their ports (R12) -/

/-- The weight of inline service as a leaf; every other leaf has the weight 1 (Table 1.6). -/
def inlineWeight : Nat := 8

/-- No context: the leaf of a request that none makes. -/
def noCtx : Nat := 4096

/-- An engine reaches an address through its compute-network port: a PE all memory, an SE memory outside its own stack
(R12). -/
def State.usesNet (s : State) (e a : Nat) : Bool := !(isSe e && s.stackAt a == some (e / 8))

/-- The operation of a request on its port (Table 17.9). -/
def Req.op (r : Req) : Nat := if r.kind = 5 then 3 else if 1 ≤ r.kind && r.kind ≤ 3 then 2 else 1

/-- The bytes that a request moves. -/
def Req.len (r : Req) : Nat := if r.op = 2 then 4 else r.data.length

/-- The request stands for no leaf of the arbitration tree. -/
def Req.direct (r : Req) : Bool := r.kind == 5 || (r.kind != 6 && decide (noCtx ≤ r.ctx))

/-- The first request that `p` picks is sent under a tag. -/
def sendFirst (p : Req → Bool) (t : Nat) : List Req → List Req
  | [] => []
  | r :: l => if p r then { r with sent := true, tag := t } :: l else r :: sendFirst p t l

/-- A request on a port that still waits. -/
def Req.waits (r : Req) (net : Bool) : Bool := !r.sent && r.net == net

/-- The oldest waiting request of an engine's port that `p` picks takes a tag and stands at the boundary. The ribbon's marker
is never sent to a stack (R348). -/
def presentReq (s : State) (e : Nat) (net : Bool) (p : Req → Bool) (tag : Option Nat) : State :=
  match tag, (s.eng e).reqs.find? (fun r => r.waits net && p r) with
  | some t, some r =>
    let s := s.modEng e (fun x => { x with reqs := sendFirst (fun r => r.waits net && p r) t x.reqs })
    if r.kind = 5 && !net then s else s.out (.request e net r.op r.addr r.len t r.data)
  | _, _ => s

/-- The lowest of 4,096 tags that is not in use (Tables 17.8 and 17.9). -/
def freeTag (used : List Nat) : Option Nat := (List.range 4096).find? (fun t => !used.contains t)

/-- Tags in use on an engine's compute-network port, and on the port of a stack. -/
def State.netTags (s : State) (e : Nat) : List Nat := ((s.eng e).reqs.filter (fun r => r.sent && r.net)).map (·.tag)
def State.stackTags (s : State) (k : Nat) : List Nat :=
  ((stackSes k).map (fun e => ((s.eng e).reqs.filter (fun r => r.sent && !r.net && r.kind != 5)).map (·.tag))).flatten

/-- Waiting requests of a compute-network port go in order while a tag is free. -/
def issueNet (s : State) (e : Nat) : State :=
  forN ((s.eng e).reqs.filter (·.waits true)).length s (fun s _ => presentReq s e true (fun _ => true) (freeTag (s.netTags e)))

/-! ## Headcounts (R23) and the stack arbiters -/

/-- The headcount of an SE at its stack: the weights of the distinct leaves with a stack request pending; a fenced engine's
is 0 (R308). -/
def State.stackHeadcount (s : State) (e : Nat) : Nat :=
  if (s.eng e).fenced then 0
  else
    let l := (s.eng e).reqs.filter (fun r => !r.net && !r.direct)
    ((l.filter (fun r => r.kind != 6)).map (·.ctx)).eraseDups.length + (if l.any (fun r => r.kind == 6) then inlineWeight else 0)

/-- The weight of a stack's network input (R25). -/
def State.netWeight (s : State) : Nat := max 1 s.coreWeight

/-- A request takes part in the arbitration of its stack. -/
def State.arbitrated (s : State) (e : Nat) (r : Req) : Bool := !r.direct && !(s.eng e).fenced

/-- The children of a stack's arbiter: its eight SEs, and the network input last, whose requests no command of the block
presents. -/
def stackChildren (s : State) (k : Nat) : List ArbChild :=
  (List.range 8).map (fun i =>
    let e := 8 * k + i
    let l := (s.eng e).reqs.filter (fun r => r.waits false && s.arbitrated e r)
    { weight := s.stackHeadcount e, deficit := SMap.get s.stackDef 0 e, sizes := l.map Req.len }) ++ [{ weight := s.netWeight }]

/-- The stack arbiter grants waiting requests of its SEs while a tag is free (R24): 256 B quanta. Requests of no leaf go
first. -/
def issueStack (s : State) (k : Nat) : State :=
  let s := (stackSes k).foldl (fun s e =>
    forN ((s.eng e).reqs.filter (fun r => r.waits false && !s.arbitrated e r)).length s (fun s _ =>
      presentReq s e false (fun r => !s.arbitrated e r) (freeTag (s.stackTags k)))) s
  let l := stackChildren s k
  let r := arbiterRounds 256 (roundsFor 256 l) (4096 - (s.stackTags k).length) l
  let s := r.1.foldl (fun s i =>
    presentReq s (8 * k + i) false (fun r => s.arbitrated (8 * k + i) r) (freeTag (s.stackTags k))) s
  { s with stackDef := (List.range 8).foldl (fun m i => SMap.set m 0 (8 * k + i) (nth r.2 i {}).deficit) s.stackDef }

/-- Requests that can go do. -/
def issueReqs (s : State) (e : Nat) : State :=
  let s := issueNet s e
  if isSe e then issueStack s (e / 8) else s

/-- Requests made by an engine. -/
def State.sendReqs (s : State) (e : Nat) (l : List Req) : State :=
  if l.isEmpty then s else issueReqs (s.modEng e (fun x => { x with reqs := x.reqs ++ l })) e

/-! ## Reads and writes of memory -/

/-- The pieces, as offset and length, of `n` bytes from `a` that lie between multiples of `w`. -/
def piecesOf (w : Nat) : Nat → Nat → Nat → List (Nat × Nat)
  | 0, _, _ => []
  | fuel + 1, a, n =>
    if n = 0 then []
    else
      let k := min n (w - a % w)
      (0, k) :: (piecesOf w fuel (a + k) (n - k)).map (fun p => (p.1 + k, p.2))

/-- Bytes of one request: the quantum of a stack's arbiter and the width of an SE's port, or the width of a PE's. -/
def portBytes (e : Nat) : Nat := if isPe e then 128 else 256

/-- The write requests of an engine for the bytes `l` at `a`, like `r`: none where the write is posted to host memory. -/
def writeReqs (s : State) (e a : Nat) (l : List Byte) (r : Req) : List Req :=
  if (s.stackAt a).isNone then []
  else (piecesOf (portBytes e) (l.length + 1) a l.length).map (fun p =>
    { r with net := s.usesNet e (a + p.1), addr := a + p.1, data := (l.drop p.1).take p.2 })

/-- A read of `n` bytes at `a` by an engine: the requests stand at its port, and their data is memory's at once. -/
def readMem (s : State) (e a n : Nat) : State :=
  (piecesOf (portBytes e) (n + 1) a n).foldl (fun s p =>
    let net := s.usesNet e (a + p.1)
    s.out (.request e net 0 (a + p.1) p.2 ((freeTag (if net then s.netTags e else s.stackTags (e / 8))).getD 0) [])) s

/-- A record of an engine is written: its bytes, and the requests that carry them (R12); `c` is the context whose record it
is. -/
def writeRecord (s : State) (e c a : Nat) (l : List Byte) : State :=
  (s.setMem (Mem.wrBytes s.mem a l)).sendReqs e (writeReqs s e a l { kind := 4, ctx := c })

end Sys2Proof.Machine
end

