-- ==== Sys2Proof/Machine/Observe.lean ====
section
/-! DEFINITION. What 16_observation_and_global_stop.md counts and records: the trace unit and its budget, the sample,
context and aggregate records, and the counts that a completion adds. -/

namespace Sys2Proof.Machine

/-! ## Trace (R326 to R330) -/

/-- Segment size in bytes (Table 16.9). -/
def Trace.segBytes (t : Trace) : Nat := 2 ^ (if 12 ≤ t.segLog2 && t.segLog2 ≤ 30 then t.segLog2 else 12)

/-- Bit of an engine in ENGMASK, held as SE bits 0 to 95 then PE bits 96 to 127. -/
def Trace.engOn (t : Trace) (e : Nat) : Bool := bitAt t.engMask e

/-- The segment of an engine has no room for a record (R328). -/
def traceFull (s : State) (e : Nat) : Bool :=
  !s.trace.mode && !s.trace.wrap && decide ((s.eng e).trFill + 32 > s.trace.segBytes)

/-- A record that has no credit, no room or no path is dropped and counted (R330); in a ribbon hold the engine's own counter
is frozen (R333). -/
def traceLose (s : State) (e : Nat) : State :=
  let s := s.modEng e (fun x => { x with
    trLost := x.trLost + 1
    cnt := if x.holding then x.cnt else { x.cnt with trDrop := (x.cnt.trDrop + 1) % 2 ^ 32 } })
  { s with trace := { s.trace with budgetDrop := satInc32 s.trace.budgetDrop 1 } }

/-- A record goes to the merge queue of the port; a full queue drops it (R329). -/
def tracePush (s : State) (v : Nat) : State :=
  if s.trace.queue.length < 1024 then { s with trace := { s.trace with queue := s.trace.queue ++ [v] } }
  else { s with trace := { s.trace with mergeDrop := satInc32 s.trace.mergeDrop 1 } }

/-- The address of an engine's next trace record (R328). -/
def traceAddr (s : State) (e : Nat) : Nat :=
  s.trace.base * 4096 + e * s.trace.segBytes + (s.eng e).trFill % s.trace.segBytes

/-- A write of an engine at an address can go at once: a tag of its port is free. -/
def writeGoes (s : State) (e a : Nat) : Bool :=
  (freeTag (if s.usesNet e a then s.netTags e else s.stackTags (e / 8))).isSome

/-- A record that has its credit is written to the segment or passed to the port (R328, R329). -/
def tracePut (s : State) (e v : Nat) : State :=
  let a := traceAddr s e
  let s := s.modEng e (fun x => { x with credit := x.credit - 100, trFill := x.trFill + 32 })
  if s.trace.mode then tracePush s v else writeRecord s e noCtx a (leBytes 32 v)

/-- A record of an engine can go: a credit, room, and a path (R330). -/
def traceMay (s : State) (e : Nat) : Bool :=
  decide (100 ≤ (s.eng e).credit) && !traceFull s e && (s.trace.mode || writeGoes s e (traceAddr s e))

/-- A trace record: TIME, the fields below it, ENGINE and TYPE (Table 16.8). -/
def traceWord (time fields e ty : Nat) : Nat :=
  place time 64 192 + fields + place e 7 8 + place ty 8 0

/-- The DROP record that an engine owes, once it holds a credit (R330). -/
def traceOwed (s : State) (e : Nat) : State :=
  let x := s.eng e
  if x.traceFn == .on && decide (x.trLost ≠ 0) && traceMay s e then
    tracePut (s.modEng e (fun y => { y with trLost := 0 })) e (traceWord s.time (place x.trLost 32 160) e 6)
  else s

/-- The trace unit of an engine emits a record of type `ty` of an event at `time` (R326), under TRON, ENGMASK and the mask
bit `mb`. -/
def traceEmitAt (s : State) (time e ty mb fields : Nat) : State :=
  if s.trace.on && s.trace.engOn e && (s.eng e).traceFn == .on && bitAt s.trace.mask mb then
    let s := traceOwed s e
    if traceMay s e then tracePut s e (traceWord time fields e ty) else traceLose s e
  else s

/-- A record of an event now. -/
def traceEmit (s : State) (e ty mb fields : Nat) : State := traceEmitAt s s.time e ty mb fields

/-- Port order bytes of records (R326: byte 0 first). -/
def recBytes (l : List Nat) : List Byte := (l.map (leBytes 32)).flatten

/-- Data blocks of a lane between SKP ordered sets: the PCIe 5.0 interval, 370 to 375 blocks (PRESUMED, log 95). -/
def skpInterval : Nat := 370

/-- A record, or with 0 an idle record, goes to the lane that has been idle longest: two data blocks, after an SKP ordered set
where one is due (R329). -/
def laneSend (s : State) (v : Nat) : State :=
  let l := nth s.trace.lanes 0 0
  let n := nth s.trace.blocks l 0
  let s := if skpInterval ≤ n then s.out (.traceSkp l) else s
  { s.out (.traceRec l v) with
    trace := { s.trace with
      lanes := s.trace.lanes.drop 1 ++ [l], blocks := s.trace.blocks.set l (if skpInterval ≤ n then 2 else n + 2) } }

/-- A lane of the port sends the oldest record of the merge queue; after every 255 the merge inserts a CHECK record, and with
no record waiting the lane sends an idle record (R329). A port that closes goes idle once its queue is empty. -/
def tracePort (s : State) : State :=
  let t := s.trace
  if t.port == .sending || t.port == .closing then
    if 255 ≤ t.since.length then
      let v := traceWord s.time (place (crc32c (recBytes t.since)) 32 160 + place t.checkSeq 32 128) 0 7
      laneSend { s with trace := { t with since := [], checkSeq := (t.checkSeq + 1) % 2 ^ 32 } } v
    else
      match t.queue with
      | [] => if t.port == .closing then { s with trace := { t with port := .idle } } else laneSend s 0
      | v :: r => laneSend { s with trace := { t with queue := r, since := t.since ++ [v] } } v
  else s

/-- The trace unit follows TRON and its ENGMASK bit (R346): a start sets the budget to 64 credits; an engine's records go out
as they are emitted, so its unit has nothing left to emit in quiescing. -/
def traceUnit (s : State) (e : Nat) : State :=
  let x := s.eng e
  let want := s.trace.on && s.trace.engOn e && (x.isOn || x.st == .quiescing)
  if want && x.isOn && x.traceFn != .on then s.setEng e { x with traceFn := .on, credit := 6400 }
  else if !want && x.traceFn == .on then s.setEng e { x with traceFn := .off }
  else s

def traceUnits (s : State) : State := allEngines.foldl traceUnit s

/-- BEGIN (Table 16.8). -/
def traceBegin (s : State) (e c : Nat) (d : Desc) : State :=
  let ticket := if d.op = opCOLLECTIVE || d.op = opREBOND then bits (d.p 0) 47 0 else 0
  traceEmit s e 1 1 (place d.seq 16 176 + place c 12 164 + place d.op 8 156 + place d.count 40 108 +
    place d.job 12 96 + place ticket 48 48)

/-- END (Table 16.8). -/
def traceEnd (s : State) (e c : Nat) (d : Desc) (op st sat flush : Nat) : State :=
  traceEmit s e 2 2 (place d.seq 16 176 + place c 12 164 + place op 8 156 + place st 8 148 +
    place sat 40 108 + place flush 40 68)

/-- SEND and RECV (Table 16.8); DATA frames are under mask bit 3 or 4, other frames under bit 6. -/
def traceFrame (s : State) (e : Nat) (h : FrameHdr) (recv acc : Bool) : State :=
  let mb := if h.ftype = 0 then (if recv then 4 else 3) else 6
  traceEmit s e (if recv then 4 else 3) mb
    (place h.seq 16 176 + place h.job 12 164 + place h.ticket 48 116 + place h.bucket 16 100 + place h.chunk 18 82 +
      place (if recv then h.src else h.dst) 15 67 + place h.ftype 4 63 + place h.plen 14 49 + place h.flags 8 41 +
      (if recv then place (bit acc) 1 40 else 0))

/-! ## Counters (R314 to R319) -/

/-- A sparse count raised. -/
def bump (l : List (Nat × Nat)) (k n : Nat) : List (Nat × Nat) := SMap.set l 0 k (SMap.get l 0 k + n)

/-- The class of an element width (Table 16.2). -/
def widthClass (w : Nat) : Nat :=
  if w = 64 then 0 else if w = 32 then 1 else if w = 16 then 2 else if w = 8 then 3 else if w = 6 then 4 else 5

/-- The class of an opcode (Table 16.2). -/
def opClass (o : Nat) : Nat :=
  if o = 1 || o = 2 || o = 3 || o = 4 then 0 else if o = 5 || o = 0x24 then 1 else if o = 6 || o = 7 then 2
  else if o = 8 then 3 else if o = 9 then 4 else if o = 0xA then 5
  else if o = 0x10 || o = 0x11 || o = 0x12 || o = 0x18 then 6 else 7

/-- The command counters of `old` in the place of those of `k`. -/
def CtxCounters.keepCmd (k old : CtxCounters) : CtxCounters :=
  { k with
    cmdSeq := old.cmdSeq, cmdValid := old.cmdValid, cmdIssue := old.cmdIssue, cmdWait := old.cmdWait, cmdIn := old.cmdIn
    cmdOut := old.cmdOut }

/-- An increment of a context's counters that belongs to descriptor `q` (R319): in an fclk in which another one has started,
it is of the interval before the start, which a sample point of this fclk takes. -/
def Ctx.count (x : Ctx) (q : Nat) (f : CtxCounters → CtxCounters) : Ctx :=
  match x.now.starter with
  | none => { x with cnt := f x.cnt }
  | some p => if p = q then { x with cnt := f x.cnt } else { x with cnt := (f x.cnt).keepCmd x.cnt, atPoint := f x.atPoint }

/-- The counters that a sample point takes at the end of the fclk that has just passed (R319). -/
def Ctx.sampled (x : Ctx) : CtxCounters := if x.now.past then x.atPoint else x.cnt

/-- Elements of width `w` read by an engine, for a descriptor of a context where one is named (R315, R317). -/
def countIn (s : State) (e : Nat) (c : Option (Nat × Nat)) (w n : Nat) : State :=
  let s := s.modEng e (fun x => { x with cnt := { x.cnt with elemsIn := bump x.cnt.elemsIn (widthClass w) n } })
  match c with
  | some c => s.modCtx c.1 (fun x => x.count c.2 (fun k => { k with inElems := k.inElems + n, cmdIn := k.cmdIn + n }))
  | none => s

/-- Elements of width `w` written by an engine (R315, R317). -/
def countOut (s : State) (e : Nat) (c : Option (Nat × Nat)) (w n : Nat) : State :=
  let s := s.modEng e (fun x => { x with cnt := { x.cnt with elemsOut := bump x.cnt.elemsOut (widthClass w) n } })
  match c with
  | some c => s.modCtx c.1 (fun x => x.count c.2 (fun k => { k with outElems := k.outElems + n, cmdOut := k.cmdOut + n }))
  | none => s

/-- The first descriptor `q` of a context stands behind descriptor `p` in ring order. -/
def Ctx.behind (x : Ctx) (p q : Nat) : Bool :=
  decide ((x.descs.map (·.seq)).idxOf p < (x.descs.map (·.seq)).idxOf q)

/-- The counters `k` of an interval with the command counters of a later part of it added. -/
def CtxCounters.joinCmd (k l : CtxCounters) : CtxCounters :=
  { l with
    cmdSeq := k.cmdSeq, cmdValid := k.cmdValid, cmdIssue := k.cmdIssue + l.cmdIssue, cmdWait := k.cmdWait + l.cmdWait
    cmdIn := k.cmdIn + l.cmdIn, cmdOut := k.cmdOut + l.cmdOut }

/-- The command counters restart for descriptor `q` (R318, R319): of two starts in one fclk the later in ring order counts. -/
def Ctx.restart (x : Ctx) (q : Nat) : Ctx :=
  let fresh (k : CtxCounters) : CtxCounters :=
    { k with cmdSeq := q, cmdValid := true, cmdIssue := 0, cmdWait := 0, cmdIn := 0, cmdOut := 0 }
  match x.now.starter with
  | none => { x with
      atPoint := x.cnt, cnt := fresh x.cnt
      now := { x.now with starter := some q, past := false, cmdIssued := false, atIssued := x.now.issued } }
  | some p =>
    if x.behind p q then { x with
      atPoint := x.atPoint.joinCmd x.cnt, cnt := fresh x.cnt
      now := { x.now with starter := some q, cmdIssued := false, atIssued := x.now.issued } }
    else x

/-- A descriptor starts (R318): the command counters restart and a BEGIN record is emitted. -/
def startDesc (s : State) (c : Nat) (d : Desc) : State :=
  if d.started then s
  else
    let s := s.modDesc c d.seq (fun x => { x with started := true })
    traceBegin (s.modCtx c (·.restart d.seq)) (s.engOf c) c d

/-- The present fclk counts as one in which descriptor `q` of a context issued (R317, R319). -/
def Ctx.issue (x : Ctx) (q : Nat) : Ctx :=
  let add (k : CtxCounters) (a b : Bool) : CtxCounters := { k with issue := k.issue + bit !a, cmdIssue := k.cmdIssue + bit !b }
  match x.now.starter with
  | none => { x with
      cnt := add x.cnt x.now.issued x.now.issued, now := { x.now with issued := true } }
  | some p =>
    if p = q then { x with
      cnt := add x.cnt x.now.issued x.now.cmdIssued, now := { x.now with issued := true, cmdIssued := true } }
    else { x with
      cnt := add x.cnt x.now.issued true, atPoint := add x.atPoint x.now.atIssued x.now.atIssued
      now := { x.now with issued := true, atIssued := true } }

/-- A strip, fold step or scan of a descriptor issues in this fclk (R314, R317). -/
def countIssue (s : State) (c q : Nat) : State :=
  (s.modEng (s.engOf c) (fun x => { x with issued := true })).modCtx c (·.issue q)

/-- `n` fclk of a context end: those in which it issued nothing are counted as waiting (R317). What a sample point at the end of
the last one takes is kept, where that one had a start (R319). -/
def Ctx.passed (x : Ctx) (n : Nat) : Ctx :=
  if n = 0 then x
  else
    let w := if x.descs.any (·.admitted) then (if x.now.issued then n - 1 else n) else 0
    { x with
      now := { past := n == 1 && x.now.starter.isSome }
      atPoint := if n = 1 && x.now.starter.isSome then x.atPoint else {}
      cnt := { x.cnt with wait := x.cnt.wait + w, cmdWait := x.cnt.cmdWait + w } }

/-- The numeric counts of a completion or of an inline event (R315). -/
def countNumeric (s : State) (e : Nat) (sat flush nf ovf : Nat) : State :=
  s.modEng e (fun x => { x with cnt := { x.cnt with
    sat := x.cnt.sat + sat, flush := x.cnt.flush + flush, nonfin := x.cnt.nonfin + nf, scaleOvf := x.cnt.scaleOvf + ovf } })

/-! ## Records (Tables 16.1 and 16.3) -/

/-- Bytes of fields given as (value, bytes). -/
def packFields (l : List (Nat × Nat)) : List Byte := (l.map (fun p => leBytes p.2 p.1)).flatten

/-- The 256 bytes of a sample record (Table 16.1). -/
def sampleBytes (k : Counters) (time sample engine kind tag mhz rescales recno : Nat) : List Byte :=
  packFields ([(time, 8), (sample, 4), (engine, 1), (kind, 1), (tag, 1), (0, 1), (k.fclk, 8), (k.active, 8),
    (k.stallMem, 8), (k.stallSync, 8), (k.stallTest, 8), (mhz, 4), (rescales, 4)] ++
    (List.range 6).map (fun i => (SMap.get k.elemsIn 0 i, 8)) ++
    (List.range 6).map (fun i => (SMap.get k.elemsOut 0 i, 8)) ++
    (List.range 8).map (fun i => (SMap.get k.ops 0 i, 4)) ++
    [(k.sat, 8), (k.flush, 8), (k.nonfin, 8), (k.scaleOvf, 8), (k.errCorr, 4), (k.errUncorr, 4), (k.errParity, 4),
      (k.errResidue, 4), (k.flagViol, 4), (k.trDrop, 4), (k.inlineCnt, 4), (recno, 4)])

/-- Slots per segment (R321: 13 to 15 are taken as 12). -/
def SampCfg.slots (c : SampCfg) : Nat := 2 ^ (min c.slotLog2 12)

/-- An engine writes a sample record to the next slot of its segment (R316). SAMPLE counts the periodic record being
written (log 12). -/
def writeSample (s : State) (e kind tag time : Nat) (k : Counters) : State :=
  let x := s.eng e
  let no := if kind = 1 then (x.sampleNo + 1) % 2 ^ 32 else x.sampleNo
  let a := s.samp.base * 256 + 256 * (e * s.samp.slots + x.recNo % s.samp.slots)
  let s := writeRecord s e noCtx a
    (sampleBytes k time no e kind tag x.fcur (if isPe e then k.rescales else 0) x.recNo)
  s.modEng e (fun x => { x with recNo := (x.recNo + 1) % 2 ^ 32, sampleNo := no })

/-- The 256 bytes of a context record (Table 16.3). -/
def ctxRecBytes (x : Ctx) (c time sample kind : Nat) : List Byte :=
  let k := if kind = 1 then x.sampled else x.cnt
  packFields [(time, 8), (sample, 4), (c, 2), (x.use.engine, 1), (kind, 1), (k.issue, 8), (k.wait, 8), (k.inElems, 8),
    (k.outElems, 8), (k.done, 8), (k.sat, 8), (k.flush, 8), (k.nonfin, 8), (k.cmdSeq, 2), (bit k.cmdValid, 1), (0, 5),
    (k.cmdIssue, 8), (k.cmdWait, 8), (k.cmdIn, 8), (k.cmdOut, 8), (x.dbDrop, 4), (0, 132)]

/-- A context record goes to its place in the array (R317). -/
def writeCtxRec (s : State) (c kind : Nat) : State :=
  let x := s.ctx c
  writeRecord s x.use.engine c (s.samp.ctxBase * 256 + 256 * c)
    (ctxRecBytes x c s.time (s.eng x.use.engine).sampleNo kind)

/-- The contexts resident on an engine, in ascending number. -/
def State.residents (s : State) (e : Nat) : List Nat :=
  (s.ctxs.filter (fun p => p.2.resident && p.2.use.engine == e)).map (·.1)

/-- The counters of several engines added field by field (R322). -/
def Counters.add (a b : Counters) : Counters :=
  { fclk := a.fclk + b.fclk, active := a.active + b.active, stallMem := a.stallMem + b.stallMem
    stallSync := a.stallSync + b.stallSync, stallTest := a.stallTest + b.stallTest, rescales := a.rescales + b.rescales
    elemsIn := b.elemsIn.foldl (fun l p => bump l p.1 p.2) a.elemsIn
    elemsOut := b.elemsOut.foldl (fun l p => bump l p.1 p.2) a.elemsOut
    ops := b.ops.foldl (fun l p => bump l p.1 p.2) a.ops
    sat := a.sat + b.sat, flush := a.flush + b.flush, nonfin := a.nonfin + b.nonfin, scaleOvf := a.scaleOvf + b.scaleOvf
    errCorr := a.errCorr + b.errCorr, errUncorr := a.errUncorr + b.errUncorr, errParity := a.errParity + b.errParity
    errResidue := a.errResidue + b.errResidue, flagViol := a.flagViol + b.flagViol, trDrop := a.trDrop + b.trDrop
    inlineCnt := a.inlineCnt + b.inlineCnt }

/-- What an engine adds to a snapshot (R322): nothing unless it is ON, and its counters when fenced once it is. -/
def Engine.snapCounters (x : Engine) : Counters :=
  if x.st != .on then {} else if x.fenced then x.fencedCnt else x.cnt

/-- The sums of a snapshot over every engine. -/
def State.snapSums (s : State) : Counters := s.engines.foldl (fun a p => a.add p.2.snapCounters) {}

end Sys2Proof.Machine
end

