-- ==== Sys2Proof/Machine/Wire.lean ====
section
/-! DEFINITION. Frames (12_port_engine_wire_protocol.md): the Dravti header, the two encapsulations, the membership
table, sending, the drops of R249, and the abort of R241. -/

namespace Sys2Proof.Machine

/-! ## The header and the encapsulations -/

/-- The 256-bit header (R246, Table 12.3). -/
def hdrNat (h : FrameHdr) : Nat :=
  place h.version 4 252 + place h.ftype 4 248 + place h.domain 16 232 + place h.job 12 220 + place h.ticket 48 172 +
  place h.bucket 16 156 + place h.chunk 18 138 + place h.course 15 123 + place h.src 15 108 + place h.dst 15 93 +
  place h.pfmt 6 87 + place h.plen 14 73 + place h.mlen 9 64 + place h.qlen 11 53 + place h.seq 16 37 +
  place h.flags 8 29 + place h.kind 4 25

/-- `n` bytes, most significant first (network order). -/
def beBytes (n v : Nat) : List Byte := (leBytes n v).reverse

/-- The 32 bytes of the header on the wire. -/
def hdrBytes (h : FrameHdr) : List Byte := beBytes 32 (hdrNat h)

/-- Header flags (Table 12.3). -/
def flFhalf : Nat := 1
def flDist : Nat := 2
def flRescale : Nat := 4
def flRetx : Nat := 8
def flPairsum : Nat := 16
def flLres : Nat := 32
def flEcho : Nat := 64

/-- LINKCFG fields (Table 12.2). -/
def lcEncap (v : Nat) : Bool := bitAt v 63
def lcPrioData (v : Nat) : Nat := bits v 62 60
def lcPrioCtrl (v : Nat) : Nat := bits v 59 57
def lcDscpData (v : Nat) : Nat := bits v 56 51
def lcDscpCtrl (v : Nat) : Nat := bits v 50 45
def lcVlan (v : Nat) : Nat := bits v 44 33
def lcEtype (v : Nat) : Nat := bits v 31 16
def lcUdp (v : Nat) : Nat := bits v 15 0

/-- The priority of a frame's class (R250). -/
def framePrio (cfg : Nat) (h : FrameHdr) : Nat := if h.ftype = 0 then lcPrioData cfg else lcPrioCtrl cfg

/-- Word `k` of membership table entry `d` (R262). -/
def memberWord (s : State) (d k : Nat) : Nat := Mem.rd s.mem (s.dom.domtab * 64 + 32 * d + 8 * k) 8
/-- The entry is VALID. -/
def memberValid (s : State) (d : Nat) : Bool := bitAt (memberWord s d 0) 63
/-- MACBASE. -/
def memberMac (s : State) (d : Nat) : Nat := bits (memberWord s d 0) 47 0
/-- IPBASE: 16 bytes in network order at entry bytes 16 to 31. -/
def memberIp (s : State) (d : Nat) : Nat :=
  ((Mem.bytes s.mem (s.dom.domtab * 64 + 32 * d + 16) 16).foldl (fun a b => a * 256 + b.toNat) 0)
/-- The zero-bit rules of Table 12.6 that a join checks (R262): reserved bits and the low bits of the bases. -/
def memberZeroOk (s : State) (d : Nat) : Bool :=
  bits (memberWord s d 0) 62 48 == 0 && bits (memberWord s d 0) 4 0 == 0 && memberWord s d 1 == 0 &&
    memberIp s d % 32 == 0
/-- The VALID device IDs, ascending. -/
def validMembers (s : State) : List Nat := (List.range 32768).filter (memberValid s)

/-- The 16-bit one's-complement sum of network-order halfwords. -/
def sum16 : List Byte → Nat
  | a :: b :: r => a.toNat * 256 + b.toNat + sum16 r
  | [a] => a.toNat * 256
  | [] => 0
/-- Carries folded in. -/
def fold16 (v : Nat) : Nat := let a := v % 65536 + v / 65536; let b := a % 65536 + a / 65536; b % 65536 + b / 65536

/-- The bytes that the PE passes to the MAC (R243, R244): no preamble, no FCS; control frames are padded (R248). -/
def frameBytes (s : State) (p : Nat) (f : Frame) : List Byte :=
  let cfg := (s.eng (peEng p)).linkCfg
  let body := hdrBytes f.hdr ++ f.payload
  let me := s.dom.deviceId
  let eth := beBytes 6 ((memberMac s f.hdr.dst + p) % 2 ^ 48) ++ beBytes 6 ((memberMac s me + p) % 2 ^ 48) ++
    beBytes 2 0x8100 ++ beBytes 2 (place (framePrio cfg f.hdr) 3 13 + place (lcVlan cfg) 12 0)
  if lcEncap cfg then
    let dscp := if f.hdr.ftype = 0 then lcDscpData cfg else lcDscpCtrl cfg
    let len := 8 + body.length
    let ips := beBytes 16 ((memberIp s me + p) % 2 ^ 128) ++ beBytes 16 ((memberIp s f.hdr.dst + p) % 2 ^ 128)
    let ip6 := beBytes 4 (place 6 4 28 + place dscp 6 22 + place (f.hdr.job * 32 + p) 20 0) ++
      beBytes 2 len ++ beBytes 1 17 ++ beBytes 1 64 ++ ips
    let ports := beBytes 2 (0xC000 + f.hdr.job % 2 ^ 12) ++ beBytes 2 (lcUdp cfg) ++ beBytes 2 len
    let c := 65535 - fold16 (sum16 ips + len + 17 + sum16 ports + sum16 body)
    eth ++ beBytes 2 0x86DD ++ ip6 ++ ports ++ beBytes 2 (if c = 0 then 65535 else c) ++ body
  else
    let b := eth ++ beBytes 2 (lcEtype cfg) ++ body
    b ++ List.replicate (60 - b.length) 0

/-! ## Sending -/

/-- The link interface of a PE runs: the engine is ON and LINKEN is 1. -/
def linkLive (s : State) (p : Nat) : Bool := (s.eng (peEng p)).isOn && (s.eng (peEng p)).linkEn

/-- Among the eight lowest tickets present (Table 11.5). -/
def Link.permitted (l : Link) (ticket : Nat) : Bool := decide ((l.insts.filter (fun i => i.ticket < ticket)).length < 8)

/-- A frame may pass to the MAC now: link up (R260), class not paused (R250), only aborts from a fenced PE (R309), only
HEARTBEAT frames in a ribbon hold (R333), no DATA frame in a self-test (R304) or of a WAITING instance (R236). -/
def maySend (s : State) (p : Nat) (h : FrameHdr) : Bool :=
  let x := s.eng (peEng p)
  linkLive s p && x.linkUp && !(s.link p).paused.contains (framePrio x.linkCfg h) &&
    (!x.fenced || h.ftype == 5) && (!x.holding || h.ftype == 6) &&
    (h.ftype != 0 || (!x.testing && (s.link p).permitted h.ticket))

/-- The job state of a PE's link. -/
def Link.job (l : Link) (j : Nat) : JobSt := SMap.get l.jobs {} j
def Link.setJob (l : Link) (j : Nat) (v : JobSt) : Link := { l with jobs := SMap.set l.jobs {} j v }

/-- The link counters after a frame is sent (Table 16.6). -/
def countTx (l : Link) (f : Frame) : Link :=
  let k := l.cnt
  let k := { k with txFrames := k.txFrames + 1 }
  let k := if bitAt f.hdr.flags 3 && f.hdr.ftype = 0 then { k with retx := k.retx + 1 } else k
  let k := if f.hdr.ftype = 2 then { k with nakTx := satInc32 k.nakTx 1 } else k
  let k := if f.hdr.ftype = 0 then { k with txBytes := k.txBytes + f.payload.length } else k
  let l := { l with cnt := k }
  if f.hdr.ftype = 0 then l.setJob f.hdr.job { l.job f.hdr.job with tx := (l.job f.hdr.job).tx + 1 } else l

/-- A frame passes to the MAC. -/
def passFrame (s : State) (p : Nat) (f : Frame) : State :=
  let pri := framePrio (s.eng (peEng p)).linkCfg f.hdr
  let s := s.modLink p (fun l => { countTx l f with sentAt := SMap.set l.sentAt 0 f.hdr.dst (s.time + 1) })
  let s := s.out (.frame p pri (frameBytes s p f) f)
  traceFrame s (peEng p) f.hdr false false

/-- Frames that may pass to the MAC go, control frames ahead of DATA frames. -/
def pump (s : State) (p : Nat) : State :=
  let q := (s.link p).txq
  let go := q.filter (fun f => maySend s p f.hdr)
  let stay := q.filter (fun f => !maySend s p f.hdr)
  let s := s.modLink p (fun l => { l with txq := stay })
  let s := (go.filter (fun f => f.hdr.ftype != 0)).foldl (fun s f => passFrame s p f) s
  (go.filter (fun f => f.hdr.ftype == 0)).foldl (fun s f => passFrame s p f) s

/-- A frame is handed to the link of a PE whose interface runs, for a device of the domain (R244). -/
def sendFrame (s : State) (p : Nat) (f : Frame) : State :=
  if linkLive s p && memberValid s f.hdr.dst then pump (s.modLink p (fun l => { l with txq := l.txq ++ [f] })) p else s

/-- A header of this device to device `dst`. -/
def ownHdr (s : State) (ty dst : Nat) : FrameHdr :=
  { ftype := ty, domain := s.dom.domain, src := s.dom.deviceId, dst := dst }

/-- A control frame without payload. -/
def sendCtrl (s : State) (p : Nat) (h : FrameHdr) : State := sendFrame s p { hdr := h }

/-! ## The fields of a COLLECTIVE or REBOND, and the abort of R241 -/

namespace Desc

/-- COLLECTIVE or REBOND. -/
def isColl (d : Desc) : Bool := d.op == opCOLLECTIVE || d.op == opREBOND
/-- TICKET (R180, R266). -/
def ticket (d : Desc) : Nat := bits (d.p 0) 47 0
/-- GROUP. -/
def group (d : Desc) : Nat := bits (d.p 0) 63 48
/-- BUCKET: word 1 of the collective block, word 0 of the destination bond block. -/
def bucket (d : Desc) : Nat := if d.op = opREBOND then bits (d.p 8) 63 48 else bits (d.p 1) 63 48

end Desc

/-! ## Groups and parameter blocks, as device memory holds them -/

/-- A group table entry with its member list, as read from device memory (Table 11.1). -/
structure Group where
  valid : Bool := false
  rsv : Bool := false
  pd : Nat := 0
  n : Nat := 0
  self : Nat := 0
  members : List Nat := []
  deriving DecidableEq, Repr, Inhabited

/-- Entry `g` of the group table. -/
def readGroup (s : State) (g : Nat) : Group :=
  let a := s.groupBase * 64 + 16 * g
  let w0 := Mem.rd s.mem a 8
  let w1 := Mem.rd s.mem (a + 8) 8
  let n := bits w0 47 32
  let raw := (List.range (min n 32768)).map (fun k => Mem.rd s.mem (bits w1 47 6 * 64 + 2 * k) 2)
  { valid := bitAt w0 63, pd := bits w0 55 48, n := n, self := bits w0 30 16
    rsv := bits w0 62 56 != 0 || bitAt w0 31 || bits w0 15 0 != 0 || bits w1 63 48 != 0 || bits w1 5 0 != 0 ||
      raw.any (fun v => bitAt v 15)
    members := raw.map (· % 32768) }

/-- The rank of a device in a member list. -/
def rankOf (members : List Nat) (dev : Nat) : Nat := members.findIdx (· == dev)

/-- `n` 64-bit words from a device address. -/
def readWords (m : Mem) (a n : Nat) : List Nat := (List.range n).map (fun k => Mem.rd m (a + 8 * k) 8)

/-- Address of a descriptor's parameter block. -/
def paramAddr (x : Ctx) (d : Desc) : Nat := x.use.paramBase * 64 + 64 * d.param

/-- The abort of R241 for one bucket, to every other member of the group. -/
def sendAbort (s : State) (p : Nat) (members : List Nat) (job ticket bucket : Nat) : State :=
  (members.filter (· ≠ s.dom.deviceId)).foldl
    (fun s m => sendCtrl s p { ownHdr s 5 m with job := job, ticket := ticket, bucket := bucket }) s

/-- Endings whose COLLECTIVE or REBOND sends the abort (R241; PEER_LOST carries the loss on, R259). -/
def abortEnd (st : Nat) : Bool := [0x41, 0x30, 0x31, 0x11, 0x10, 0x40, 0x20].contains st

/-- A COLLECTIVE or REBOND sends the abort of R241, once: to the members of its instance, or, where it was not admitted, to
those of the group that its parameter block names. -/
def abortGroup (s : State) (c : Nat) (d : Desc) : State :=
  if d.coll.aborted || !isPe (s.engOf c) then s
  else
    let s := s.modDesc c d.seq (fun x => { x with coll := { x.coll with aborted := true } })
    let d := if d.par.isEmpty && d.pb then
        { d with par := readWords s.mem (paramAddr (s.ctx c) d) (if d.op = opREBOND then 16 else 8) } else d
    let g := readGroup s d.group
    let dsts := if !d.coll.members.isEmpty then d.coll.members else if d.pb && g.valid then g.members else []
    sendAbort s (s.engOf c - 96) dsts d.job d.ticket d.bucket

/-- A descriptor meets an ending (R184). A COLLECTIVE or REBOND sends the abort of R241 once. -/
def endDesc (s : State) (c q st : Nat) : State :=
  match s.desc? c q with
  | none => s
  | some d =>
    let s := s.addEnd c q st
    if d.isColl && abortEnd st && (d.addEnd st).ends != d.ends then abortGroup s c d else s

/-- Every fetched, uncompleted descriptor of a context that `pick` names meets an ending. -/
def endCtx (s : State) (c st : Nat) (pick : Desc → Bool) : State :=
  (((s.ctx c).descs.filter pick).map (·.seq)).foldl (fun s q => endDesc s c q st) s

/-! ## Receiving (R249) -/

/-- One drop counter raised. -/
def dropFcs (s : State) (p : Nat) : State :=
  s.modLink p (fun l => { l with cnt := { l.cnt with dropFcs := satInc32 l.cnt.dropFcs 1 } })
def dropHdr (s : State) (p : Nat) : State :=
  s.modLink p (fun l => { l with cnt := { l.cnt with dropHdr := satInc32 l.cnt.dropHdr 1 } })
def dropAddr (s : State) (p : Nat) : State :=
  s.modLink p (fun l => { l with cnt := { l.cnt with dropAddr := satInc32 l.cnt.dropAddr 1 } })

/-- EtherType or UDP port of LINKCFG. -/
def protoOk (s : State) (p : Nat) (f : RxFrame) : Bool :=
  let cfg := (s.eng (peEng p)).linkCfg
  f.proto == (if lcEncap cfg then lcUdp cfg else lcEtype cfg)

/-- TICKET_SEEN rises to a ticket (R261). -/
def seeTicket (s : State) (t : Nat) : State := { s with dom := { s.dom with ticketSeen := max s.dom.ticketSeen t } }

/-! ## The control receive queue (R250) -/

/-- The request to pause the control class goes out or ends. -/
def setPauseReq (s : State) (p : Nat) (on : Bool) : State := s.out (.pauseReq p (lcPrioCtrl (s.eng (peEng p)).linkCfg) on)

/-- A control frame enters the receive queue of a PE: at 192 of its 256 entries the control class is asked to pause, and
CPAUSE counts the request. -/
def enterCtl (s : State) (p : Nat) : State :=
  let n := (s.link p).ctlq + 1
  let s := s.modLink p (fun l => { l with ctlq := n })
  if n = 192 then
    setPauseReq (s.modLink p (fun l => { l with cnt := { l.cnt with cpause := satInc32 l.cnt.cpause 1 } })) p true
  else s

/-- A control frame has been worked on and leaves the queue; below 192 entries the request ends. -/
def leaveCtl (s : State) (p : Nat) : State :=
  let n := (s.link p).ctlq
  let s := s.modLink p (fun l => { l with ctlq := n - 1 })
  if n = 192 then setPauseReq s p false else s

/-- A frame of type `ty` arrives at PE `p`: the drops of R249, HOLDDROP in a hold (R333), the lost mark cleared (R259),
and then what `k` does with it. A frame of another type, or at a link that does not run, is not this event. A control frame passes through the receive
queue (R250), worked on as it arrives (log 31). A failed UDP checksum counts with the FCS errors (DESIGN CHOICE, log 96). `rec` says
whether a RECV record is written here (a DATA frame writes its own, with ACC). -/
def receive (s : State) (p ty : Nat) (f : RxFrame) (rec : Bool) (k : State → FrameHdr → State) : State :=
  let h := f.frame.hdr
  if p ≥ 32 || !linkLive s p || (s.eng (peEng p)).fenced || (h.ftype != ty && h.ftype < 14) then s
  else if (s.eng (peEng p)).holding && h.ftype != 6 then
    s.modLink p (fun l => { l with cnt := { l.cnt with holdDrop := satInc32 l.cnt.holdDrop 1 } })
  else if f.fcsErr || !f.parityOk || (lcEncap (s.eng (peEng p)).linkCfg && !f.udpOk) then dropFcs s p
  else if !protoOk s p f || h.version != 1 || h.ftype ≥ 14 then dropHdr s p
  else if h.domain != s.dom.domain || h.dst != s.dom.deviceId || !memberValid s h.src then dropAddr s p
  else
    let s := s.modLink p (fun l => { l with lost := l.lost.filter (· ≠ h.src) })
    let s := if rec then traceFrame s (peEng p) h true false else s
    if ty = 0 then k s h else leaveCtl (k (enterCtl s p) h) p

end Sys2Proof.Machine
end

