-- ==== Sys2Proof/Machine/Flags.lean ====
section
/-! DEFINITION. Ownership flags (R146 to R153): claims and their trackers, the compare-and-swaps on flag words, and what
a swap that fails does. -/

namespace Sys2Proof.Machine

/-! ## Claims of a descriptor -/

/-- Phases of a claim. -/
def phSWAP : Nat := 0
def phCLAIMED : Nat := 1
def phTODONE : Nat := 2
def phTOFAULT : Nat := 3
def phWAIT : Nat := 4
def phDONE : Nat := 5
def phFAULTED : Nat := 6
def phTRACKER : Nat := 7

namespace Desc

/-- The phase of chunk `k` of window `w`, if the descriptor uses it. -/
def phaseOf (d : Desc) (w k : Nat) : Option Nat :=
  (d.claims.find? (fun x => x.win == w && x.chunk == k)).map (·.phase)

/-- A chunk put in a phase. -/
def setPhase (d : Desc) (w k ph : Nat) : Desc :=
  if (d.phaseOf w k).isSome then
    { d with claims := d.claims.map (fun x => if x.win = w && x.chunk = k then { x with phase := ph } else x) }
  else { d with claims := d.claims ++ [{ win := w, chunk := k, phase := ph }] }

/-- The bytes of a chunk are accessed. -/
def touch (d : Desc) (w k : Nat) : Desc :=
  { d with claims := d.claims.map (fun x => if x.win = w && x.chunk = k then { x with touched := true } else x) }

/-- The bytes of a chunk have been accessed. -/
def touched (d : Desc) (w k : Nat) : Bool := d.claims.any (fun x => x.win == w && x.chunk == k && x.touched)

/-- A claim given up. -/
def dropClaim (d : Desc) (w k : Nat) : Desc :=
  { d with claims := d.claims.filter (fun x => !(x.win == w && x.chunk == k)) }

/-- The descriptor holds the chunk CLAIMED. -/
def holds (d : Desc) (w k : Nat) : Bool := d.phaseOf w k == some phCLAIMED
/-- The chunk is finished (R149, R186). -/
def isDone (d : Desc) (w k : Nat) : Bool := d.phaseOf w k == some phDONE
/-- Trackers in use (R153). -/
def trackers (d : Desc) : Nat := (d.claims.filter (fun x => x.phase < phWAIT)).length

end Desc

/-- A descriptor may claim chunks: an instance that is WAITING only accepts frames (R236). -/
def State.mayClaim (s : State) (c : Nat) (d : Desc) : Bool :=
  !(d.isColl && isPe (s.engOf c)) || (s.link (s.engOf c - 96)).permitted d.ticket

/-! ## Trackers (R153) -/

/-- Trackers of an engine, and those reserved for each resident context. -/
def trackersAll : Nat := 16384
def trackersOwn : Nat := 64

namespace State

/-- Trackers that a descriptor uses in flagged windows. -/
def flaggedTrackers (s : State) (d : Desc) : Nat :=
  (d.claims.filter (fun x => x.phase < phWAIT && (s.win x.win).flagged)).length

/-- Trackers that a context uses in flagged windows. -/
def ctxTrackers (s : State) (c : Nat) : Nat := (s.ctx c).descs.foldl (fun a d => a + s.flaggedTrackers d) 0

/-- Trackers in use on an engine. -/
def trackersUsed (s : State) (e : Nat) : Nat := (s.residents e).foldl (fun a c => a + s.ctxTrackers c) 0

/-- Shared trackers in use on an engine. -/
def trackersShared (s : State) (e : Nat) : Nat :=
  (s.residents e).foldl (fun a c => a + (s.ctxTrackers c - trackersOwn)) 0

/-- Shared trackers that a PE still keeps for its present instance with the lowest ticket, from the descriptor `q` of
context `c` (R238): none from a descriptor of that instance. Of a context's shared trackers those that the instance's claims
account for are taken as the instance's (DESIGN CHOICE, log 97). -/
def keptTrackers (s : State) (c q : Nat) : Nat :=
  let e := s.engOf c
  if isPe e then
    match (sortBy Inst.ticket (s.link (e - 96)).insts).head? with
    | none => 0
    | some i =>
      let mine (d : Desc) : Bool := d.isColl && d.job == i.job && d.ticket == i.ticket
      let held (c' : Nat) : Nat := (((s.ctx c').descs.filter mine).map (s.flaggedTrackers ·)).sum
      if mine (s.desc c q) then 0
      else 1024 - (s.residents e).foldl (fun a c' => a + min (held c') (s.ctxTrackers c' - trackersOwn)) 0
  else 0

/-- A descriptor may take one more tracker. -/
def mayTrack (s : State) (c q : Nat) : Bool :=
  s.ctxTrackers c < trackersOwn ||
    s.trackersShared (s.engOf c) + s.keptTrackers c q < trackersAll - 64 * trackersOwn

/-! ## Requests -/

/-- The flag word of a chunk, as memory holds it. -/
def flagWord (s : State) (w k : Nat) : Nat := Mem.rd s.mem ((s.win w).flagAddr k) 4

/-- The request of a descriptor is outstanding. -/
def hasReq (s : State) (c q : Nat) : Bool :=
  (s.eng (s.engOf c)).reqs.any (fun r => decide (r.kind < 4) && r.ctx == c && r.seq == q)

end State

/-! ## Swaps (R148, R149, R151, R152) -/

/-- Value that a swap of a kind writes, and the phase that its success leaves. -/
def swapValue (kind : Nat) : Nat := if kind = 1 then flCLAIMED else if kind = 2 then flDONE else flFAULTED
def swapPhase (kind : Nat) : Nat := if kind = 1 then phCLAIMED else if kind = 2 then phDONE else phFAULTED

/-- Value that a swap of a kind expects of the flag (R148, R149, R151, R152). -/
def swapFrom (kind : Nat) : Nat := if kind = 1 then flREADY else flCLAIMED

/-- A compare-and-swap of a chunk's flag in the word last seen as `word`: the request goes out on the compute-network port
(R349), with the expected word and then the new one as its data (DESIGN CHOICE, log 98). -/
def sendSwap (s : State) (c q w k kind word : Nat) : State :=
  let ph := if kind = 1 then phSWAP else if kind = 2 then phTODONE else phTOFAULT
  let s := s.modDesc c q (·.setPhase w k ph)
  let from' := withFlag word k (swapFrom kind)
  s.sendReqs (s.engOf c) [
    { net := true, kind := kind, ctx := c, seq := q, win := w, chunk := k, addr := (s.win w).flagAddr k
      expect := from', data := leBytes 4 from' ++ leBytes 4 (withFlag word k (swapValue kind)) }]

/-- A flag word has been read: READY is swapped for CLAIMED, any other value is waited on (R148, R10). -/
def claimFrom (s : State) (c q w k word : Nat) : State :=
  if flagOf word k = flREADY then sendSwap s c q w k 1 word else s.modDesc c q (·.setPhase w k phWAIT)

/-- A descriptor begins to claim a chunk, where a tracker is free (R148, R153): the flag word is read. -/
def beginClaim (s : State) (c q w k : Nat) : State :=
  if s.mayTrack c q then
    claimFrom (readMem s (s.engOf c) ((s.win w).flagAddr k) 4) c q w k (s.flagWord w k)
  else s.modDesc c q (·.setPhase w k phTRACKER)

/-- The flag-violation counters of an engine (R151, R362). -/
def countViolation (s : State) (e : Nat) : State :=
  s.modEng e (fun x => { x with
    flagViol := satInc32 x.flagViol 1, cnt := { x.cnt with flagViol := (x.cnt.flagViol + 1) % 2 ^ 32 } })

/-- A swap that expected CLAIMED found another value (R151). -/
def flagViolation (s : State) (c q w k : Nat) : State :=
  let s := s.modDesc c q (·.dropClaim w k)
  endDesc (countViolation s (s.engOf c)) c q stPROTECTION

/-- The answer `old` to a swap, whose request has left the list: success where it equals the expected word (R146). A claim
that failed is retried from the word as it stands, unless the command has ended; a swap from CLAIMED whose word changed
elsewhere is made again, and one whose own flag changed is a violation. -/
def swapAnswer (s : State) (r : Req) (old : Nat) : State :=
  if old = r.expect then
    let s := s.setMem (Mem.wr s.mem r.addr 4 (withFlag old r.chunk (swapValue r.kind)))
    s.modDesc r.ctx r.seq (·.setPhase r.win r.chunk (swapPhase r.kind))
  else
    let s := s.setMem (Mem.wr s.mem r.addr 4 old)
    if r.kind = 1 then
      if (s.desc r.ctx r.seq).over then s.modDesc r.ctx r.seq (·.dropClaim r.win r.chunk)
      else claimFrom s r.ctx r.seq r.win r.chunk old
    else if flagOf old r.chunk = flCLAIMED then
      (if (s.eng (s.engOf r.ctx)).fenced then s.modDesc r.ctx r.seq (·.setPhase r.win r.chunk phCLAIMED)
       else sendSwap s r.ctx r.seq r.win r.chunk r.kind old)
    else flagViolation s r.ctx r.seq r.win r.chunk

/-- A chunk that the descriptor holds is swapped from CLAIMED to FAULTED (R152); without flags it is only given up. A fenced
engine issues no swap (R308). -/
def faultChunk (s : State) (c q w k : Nat) : State :=
  if (s.desc c q).holds w k && !(s.eng (s.engOf c)).fenced then
    if (s.win w).flagged then sendSwap s c q w k 3 (s.flagWord w k) else s.modDesc c q (·.dropClaim w k)
  else s

/-- Those of some chunks that are held CLAIMED become FAULTED (R306). -/
def faultHeld (s : State) (c q : Nat) (l : List (Nat × Nat)) : State :=
  l.foldl (fun s x => faultChunk s c q x.1 x.2) s

end Sys2Proof.Machine
end

