-- ==== Sys2Proof/Machine/Contexts.lean ====
section
/-! DEFINITION. Contexts: enabling and leaving (R166 to R168), residency (R167, R97), doorbells (R173, R174). -/

namespace Sys2Proof.Machine

/-! ## Doorbells (R173, R174) -/

/-- Submission and completion ring sizes (R169). -/
def CtxSet.sqSize (x : CtxSet) : Nat := 2 ^ x.sqLog2
def CtxSet.cqSize (x : CtxSet) : Nat := 2 ^ x.cqLog2

/-- A dropped doorbell write is counted, and in its context's own count (Table 16.3). -/
def dropDoorbell (s : State) (c : Nat) : State :=
  let s := { s with dbDrop := satInc32 s.dbDrop 1 }
  if (s.ctx c).resident then s.modCtx c (fun x => { x with dbDrop := (x.dbDrop + 1) % 2 ^ 32 }) else s

/-- Every flag on which a context waits is read again (R148). -/
def reReadFlags (s : State) (c : Nat) : State :=
  ((s.ctx c).descs.filter (fun d => !d.over && s.mayClaim c d)).foldl (fun s d =>
    (d.claims.filter (·.phase == phWAIT)).foldl (fun s k =>
      if s.mayTrack c d.seq then claimFrom s c d.seq k.win k.chunk (s.flagWord k.win k.chunk) else s) s) s

/-- A doorbell write takes effect (R174): both indices pass, or RINGERR is set. -/
def ringDoorbell (s : State) (c v : Nat) : State :=
  let x := s.ctx c
  let p := bits v 15 0
  let h := bits v 31 16
  if sub16 p x.sqHead < x.use.sqSize && sub16 p x.sqTail < x.use.sqSize && sub16 x.cqTail h ≤ sub16 x.cqTail x.cqHead then
    let s := s.setCtx c { x with sqTail := p, cqHead := h, rang := true }
    if p = x.sqTail && (s.eng x.use.engine).works then reReadFlags s c else s
  else s.setCtx c { x with ringErr := true }

/-- A doorbell write to a context arrives (R174, R289, R295, R308, R333). -/
def takeDoorbell (s : State) (c v : Nat) : State :=
  let x := s.ctx c
  let e := s.eng x.use.engine
  if !x.enable || x.reEnable || e.fenced || x.saving then dropDoorbell s c
  else if x.restoring || (x.resident && e.isOn && e.holding) then
    if x.restoring || x.heldDb.length < 16 then s.setCtx c { x with heldDb := x.heldDb ++ [v] } else dropDoorbell s c
  else ringDoorbell s c v

/-- The doorbells held for a context are applied in arrival order. -/
def releaseDoorbells (s : State) (c : Nat) : State :=
  let h := (s.ctx c).heldDb
  h.foldl (fun s v => takeDoorbell s c v) (s.modCtx c (fun x => { x with heldDb := [] }))

/-! ## Enabling, leaving, residency -/

/-- An accepted enable takes effect (R167): ring indices 0, first lap, and the context waits for residency. -/
def enableCtx (s : State) (c : Nat) : State :=
  let x := s.ctx c
  let s := s.setCtx c { x with
    enable := true, use := x.reg, sqTail := 0, sqHead := 0, cqTail := 0, cqHead := 0, ringErr := false, phase := true
    rang := false, reEnable := false, heldDb := [] }
  { s with waitQ := s.waitQ ++ [c] }

/-- A context leaves with a SAVE_CONTEXT or RESTORE_CONTEXT that has not ended: its target is free again. -/
def releaseTargets (s : State) (c : Nat) : State :=
  ((s.ctx c).descs.filter (fun d => d.admitted && !d.over)).foldl (fun s d =>
    if d.op = opSAVE then s.modCtx (bits d.soff 11 0) (fun x => { x with saving := false })
    else if d.op = opRESTORE then
      releaseDoorbells (s.modCtx (bits d.doff 11 0) (fun x => { x with restoring := false })) (bits d.doff 11 0)
    else s) s

/-- A context leaves its engine (R168): the final context record (R317), then slot, tiles and trackers are released and
its recipe cache entries discarded (R215). `off` says that its engine went OFF or was fenced, so ENABLE reads 0 (R308,
R345). An enable held meanwhile takes effect, unless it names the engine that is gone; it joins the waiting contexts at this
moment (DESIGN CHOICE, log 33). -/
def leaveCtx (s : State) (c : Nat) (off : Bool) : State :=
  let s := releaseTargets s c
  let x := s.ctx c
  let e := x.use.engine
  let s := if x.resident && (s.eng e).ctxEff && !(s.eng e).fenced then writeCtxRec s c 3 else s
  let s := s.modEng e (fun y => { y with cache := y.cache.filter (fun k => k.ctx != c) })
  let again := x.reEnable && !(off && x.reg.engine == e)
  let s := s.setCtx c { x with
    resident := false, enable := if off && !again then false else x.enable, reEnable := false, live := [], shadow := []
    descs := [], saving := false, restoring := false, heldDb := [] }
  let s := { s with waitQ := s.waitQ.filter (· ≠ c) }
  if again then enableCtx s c else s

/-- After a completion: a context that no longer may run, and has no fetched descriptor left, leaves. -/
def leaveIfDone (s : State) (c : Nat) : State :=
  let x := s.ctx c
  let e := s.eng x.use.engine
  if x.resident && x.descs.isEmpty then
    if e.fenced then leaveCtx s c true
    else if !x.enable || x.reEnable then leaveCtx s c false
    else s
  else s

/-- ENABLE written 0 (R168): a waiting context stops waiting; a resident one ends its descriptors with CANCELLED. -/
def disableCtx (s : State) (c : Nat) : State :=
  let s := s.modCtx c (fun x => { x with enable := false, reEnable := false })
  if (s.ctx c).resident then leaveIfDone (endCtx s c stCANCELLED (fun _ => true)) c
  else { s with waitQ := s.waitQ.filter (· ≠ c) }

/-- Tile slots of an engine that no resident context holds (R97, Table 18.5). -/
def State.tileFree (s : State) (e : Nat) : Nat :=
  storeSlots e - (s.residents e).foldl (fun a c => a + (s.ctx c).use.tileSlots) 0

/-- The first context that waits for an engine. -/
def State.firstWaiting (s : State) (e : Nat) : Option Nat := s.waitQ.find? (fun c => s.engOf c == e)

/-- The first waiting context of an engine becomes resident, with a free slot and free tile slots, which read +0 (R97,
R167, R317). -/
def execContextResident (e : Nat) (s : State) : Host.Outcome State Fault Refusal :=
  .next (match s.firstWaiting e with
    | none => s
    | some c =>
      if (s.eng e).works && decide ((s.residents e).length < 64) && decide ((s.ctx c).use.tileSlots ≤ s.tileFree e) then
        let s := s.modCtx c (fun x => { x with resident := true, cnt := {}, dbDrop := 0, live := [], shadow := [] })
        { s with waitQ := s.waitQ.filter (· ≠ c) }
      else s)

end Sys2Proof.Machine
end

