-- ==== Sys2Proof/Machine/Quant.lean ====
section
/-! DEFINITION. The safeguards of 04_quantisation_safeguards.md: block rotation, quoin choice, ashlar scales and scale
search, the encoding of one ashlar, and reading back. -/

namespace Sys2Proof.Machine

/-! ## Rotation (R69 to R71) -/

/-- One butterfly stage of half-width `h` over the first `fuel` pairs of half-blocks. -/
def butterfly (h : Nat) : Nat → List F32 → List F32
  | 0, l => l
  | fuel + 1, l =>
    match l with
    | [] => []
    | _ =>
      let a := l.take h
      let b := (l.drop h).take h
      List.zipWith fAdd a b ++ List.zipWith fSub a b ++ butterfly h fuel (l.drop (2 * h))

/-- The k butterfly stages in ascending order of h. -/
def butterflies (k : Nat) (v : List F32) : List F32 :=
  forN k v (fun l i => butterfly (2 ^ i) (2 ^ (k - 1 - i)) l)

/-- The normalisation 2^(-k/2). -/
def rotNorm (k : Nat) (v : F32) : F32 :=
  fMul (if k % 2 = 1 then fMul v f32SqrtHalf else v) (fPow2 (-((k / 2 : Nat) : Int)))

/-- The signs applied. -/
def rotSigns (v : List F32) (neg : List Bool) : List F32 := List.zipWith (fun x n => if n then fNeg x else x) v neg

/-- `rotate_block` of R71 on a block of 2^k values. -/
def rotateBlock (v : List F32) (k : Nat) (neg : List Bool) (inverse : Bool) : List F32 :=
  let v0 := if inverse then v else rotSigns v neg
  let v1 := (butterflies k v0).map (rotNorm k)
  if inverse then rotSigns v1 neg else v1

/-- Consecutive rotation blocks of 2^k values, the first at position `pos` (R69, R70). -/
def rotateRun (seed k pos : Nat) (inverse : Bool) : Nat → List F32 → List F32
  | 0, _ => []
  | fuel + 1, l =>
    match l with
    | [] => []
    | _ =>
      let n := 2 ^ k
      let neg := (List.range n).map (fun j => rotSign seed (pos + j))
      rotateBlock (l.take n) k neg inverse ++ rotateRun seed k (pos + n) inverse fuel (l.drop n)

/-- The rotation of a format word, nothing where ROTK is 0. -/
def rotateIf (f : FmtW) (seed pos : Nat) (inverse : Bool) (l : List F32) : List F32 :=
  if f.rotk = 0 then l else rotateRun seed f.rotk pos inverse l.length l

/-! ## Quoins and scales (R74 to R78) -/

/-- `mag` of R74. -/
def fMag (v : F32) : F32 := if fLt v 0 then fNeg v else v

/-- `outranks` of R74. -/
def outranks (a b : F32) : Bool :=
  let ra := if fIsNan a then 2 else if fIsInf a then 1 else 0
  let rb := if fIsNan b then 2 else if fIsInf b then 1 else 0
  if ra ≠ rb then decide (ra > rb) else ra == 0 && fLt (fMag b) (fMag a)

/-- The best position not in `skip` (R74): pads are not listed and zero values are never chosen. -/
def bestQuoin (w : List F32) (skip : List Nat) : Option Nat :=
  (List.range w.length).foldl (fun best j =>
    let v := nth w j 0
    if fIsZero v || skip.contains j then best
    else match best with
      | none => some j
      | some b => if outranks v (nth w b 0) then some j else best) none

/-- `pick_quoins` of R74: the chosen positions, highest ranked first. -/
def pickQuoins (w : List F32) (q : Nat) : List Nat :=
  if q = 0 then []
  else match bestQuoin w [] with
    | none => []
    | some p0 =>
      if q = 1 then [p0] else match bestQuoin w [p0] with
        | none => [p0]
        | some p1 => [p0, p1]

/-- The value of a scale code (`scale_val`), NaN for 0xFF. -/
def scaleVal (f : FmtW) (c : Nat) : XVal := xvCode f.sfmt false c

/-- `e5m3_up` of R76. -/
def e5m3Up (v : F32) : Nat :=
  ((List.range 254).map (· + 1)).find? (fun c => !(xvCode fmtE5m3 false c).lt (xf v)) |>.getD 0xFE

/-- qmax of Table 2.5: the largest finite magnitude of the format inside an ashlar. -/
def qmax (f : Fmt) : F32 := toF32 (xvCode f true (limitCode f false))

/-- `e8m0_base` of R76. -/
def e8m0Base (amax q : F32) : Nat :=
  let (eq, mq) := expb q
  let (ea, ma) := expb amax
  let x := ea + 127 + (if ma > mq then 1 else 0)
  if x ≤ eq then 0 else min (x - eq).toNat 254

/-- `candidates` of R76. -/
def candidates (f : FmtW) (amax : F32) : List Nat :=
  if f.e8 then
    let k0 := e8m0Base amax (qmax f.fmt)
    (List.range 4).map (fun j => k0 - j)
  else
    let b := fDiv amax (qmax f.fmt)
    [e5m3Up b, e5m3Up (fMul b 0x3F700000), e5m3Up (fMul b 0x3F600000), e5m3Up (fMul b 0x3F500000)]

/-- `ashlar_err` of R76 over the values in U. -/
def ashlarErr (f : FmtW) (u : List F32) (s : Nat) : F32 :=
  let sv := toF32 (scaleVal f s)
  u.foldl (fun err w =>
    let c := (convertOne ((xf w).quo (xf sv)) f.fmt true false .rne 0).1
    let d := fSub w (fMul (toF32 (xvCode f.fmt true c)) sv)
    fAdd err (fMul d d)) 0

/-- `choose_scale` of R76 over the values in U. -/
def chooseScale (f : FmtW) (u : List F32) (search infnan : Bool) : Nat :=
  let nan := u.any fIsNan
  let inf := u.any fIsInf
  let amax := u.foldl (fun a w => if !fIsNan w && !fIsInf w && fLt a (fMag w) then fMag w else a) 0
  if nan || (inf && infnan) then 0xFF
  else if inf then 0xFE
  else if fIsZero amax then (if f.e8 then 0x7F else 0x78)
  else
    let c := candidates f amax
    if !search then nth c 0 0
    else
      let e0 := ashlarErr f u (nth c 0 0)
      ((List.range 3).foldl (fun (b : Nat × F32) i =>
        let e := ashlarErr f u (nth c (i + 1) 0)
        if fLt e b.2 then (nth c (i + 1) 0, e) else b) (nth c 0 0, e0)).1

/-! ## One ashlar (R75, R79, R80) -/

/-- What the quantisation of one ashlar gives: codes of its elements, the scale, the quoin entry words, and for each
element its events and the exact value it stands for without its row scale. -/
structure AshOut where
  codes : List Nat := []
  scale : Nat := 0
  quoins : List Nat := []
  evs : List Ev := []
  vals : List XVal := []
  deriving DecidableEq, Repr, Inhabited

/-- One ashlar from its working values (pads excluded), with the stochastic bytes of its elements. -/
def quantAshlar (f : FmtW) (w : List F32) (search infnan : Bool) (mode : RMode) (rb : List Nat) : AshOut :=
  let qs := pickQuoins w f.quoins
  let idx := List.range w.length
  let u := (idx.filter (fun j => !qs.contains j)).map (fun j => nth w j 0)
  let s := chooseScale f u search infnan
  let sv := scaleVal f s
  let elem (j : Nat) : Nat × Ev × XVal :=
    let v := nth w j 0
    if qs.contains j then
      let (c, ev) := convertOne (xf v) fmtBf16 false infnan .rne 0
      (0, if s = 0xFF then { ev with nf := true } else ev, if s = 0xFF then .nan else xvCode fmtBf16 false c)
    else if s = 0xFF then (0, .nfEv, .nan)
    else
      let (c, ev) := convertOne ((xf v).quo sv) f.fmt true false mode (nth rb j 0)
      (c, ev, (xvCode f.fmt true c).mul sv)
  let es := idx.map elem
  { codes := es.map (·.1), scale := s
    quoins := (List.range f.quoins).map (fun k =>
      match qs[k]? with
      | some p => Tensor.quoinWord p (convertOne (xf (nth w p 0)) fmtBf16 false infnan .rne 0).1
      | none => 0)
    evs := es.map (·.2.1), vals := es.map (·.2.2) }

/-- The ashlars of a run of working values that starts an ashlar. `rb j` is the stochastic byte of value `j`. -/
def quantRun (f : FmtW) (search infnan : Bool) (mode : RMode) (rb : Nat → Nat) :
    Nat → Nat → List F32 → List AshOut
  | 0, _, _ => []
  | fuel + 1, j, l =>
    match l with
    | [] => []
    | _ =>
      let w := l.take f.b
      quantAshlar f w search infnan mode ((List.range w.length).map (fun i => rb (j + i))) ::
        quantRun f search infnan mode rb fuel (j + f.b) (l.drop f.b)

/-- Memory with the ashlars of a run written, the first being ashlar `g`. -/
def writeRun (m : Mem) (t : Tensor) : Nat → List AshOut → Mem
  | _, [] => m
  | g, o :: r => writeRun (t.wrAshlar m g o.codes o.scale o.quoins) t (g + 1) r

/-- Column at which the group (ashlars and rotation blocks) that holds element `i` ends, as an element index (R81). -/
def groupEnd (f : FmtW) (d i : Nat) : Nat :=
  let g := max f.group 1
  min (i - i % d + d) (i + (g - i % d % g))

/-- The elements of a run that starts at a group boundary: at least `want` of them, to a group boundary, at most `n`. -/
def runEnd (f : FmtW) (d n i want : Nat) : Nat → Nat
  | 0 => i
  | fuel + 1 =>
    let e := min n (groupEnd f d i)
    if want ≤ e - i || n ≤ e then e else runEnd f d n e (want - (e - i)) fuel

/-! ## Reading back (R82) -/

/-- The exact or rotated values of elements `i` to `j - 1` of a packed tensor, within one row and aligned to rotation
blocks, before the final rounding (R82). `pos` is the position of element `i`. -/
def dequantRun (m : Mem) (t : Tensor) (seed pos i j : Nat) : List XVal :=
  if t.f.rotk = 0 then (range2 i j).map (fun k => t.value m k)
  else
    let l := (range2 i j).map (fun k => toF32 (t.coreValue m k))
    let r := rotateRun seed t.f.rotk pos true l.length l
    (List.range r.length).map (fun k => t.rowFactor m (i + k) (xf (nth r k 0)))

/-- The value of one element of a packed tensor under R82. -/
def dequantElem (m : Mem) (t : Tensor) (seed posbase i : Nat) : XVal :=
  if t.f.rotk = 0 then t.value m i
  else
    let a := i - t.col i % 2 ^ t.f.rotk
    nth (dequantRun m t seed (posbase + a) a (a + 2 ^ t.f.rotk)) (i - a) .nan

end Sys2Proof.Machine
end

