-- ==== Sys2Proof/Machine/InlineTable.lean ====
section
/-! DEFINITION. The inline window table: geometry (R156), the checks of an enable (R155), and the end of a flush or a
disable (R160). -/

namespace Sys2Proof.Machine

namespace InlineSet

/-- The packed storage's format. -/
def fmt (x : InlineSet) : FmtW := FmtW.ofNat x.format
/-- The wide view's element format (Table 8.2). -/
def viewFmt (x : InlineSet) : Fmt := fmtD (x.view + 1)
/-- Bytes of an element of the view. -/
def viewBytes (x : InlineSet) : Nat := x.viewFmt.w / 8
/-- First byte and length of the view on the compute network. -/
def viewBase (x : InlineSet) : Nat := x.vbase * 4096
def viewLen (x : InlineSet) : Nat := x.vlen * x.viewBytes
/-- The combining block size C (R156). -/
def blockC (x : InlineSet) : Nat := if x.fmt.ash = 0 then 32 else max 1 x.fmt.group
/-- Number of combining blocks. -/
def blocks (x : InlineSet) : Nat := x.vlen / x.blockC
/-- The packed tensor, at a device base. -/
def tensor (x : InlineSet) (base : Nat) : Tensor := { base := base, f := x.fmt, n := x.vlen }
/-- Offsets of the block-state plane and the mask plane from the storage's start, and its length (R156). -/
def stateOff (x : InlineSet) : Nat := align64 (x.tensor 0).planes.total
def maskOff (x : InlineSet) : Nat := align64 (x.stateOff + ceilDiv (2 * x.blocks) 8)
def storage (x : InlineSet) : Nat := x.maskOff + x.blocks * (x.blockC / 8)

end InlineSet

namespace State

/-- Device address of an inline window's storage (R156). -/
def inlBase (s : State) (x : InlineSet) : Nat := s.stackBase x.stack + x.pbase * 64

/-- Two views overlap. -/
def viewsMeet (a b : InlineSet) : Bool :=
  decide (a.viewBase < b.viewBase + b.viewLen) && decide (b.viewBase < a.viewBase + a.viewLen)

/-- The checks of R155 on an entry. -/
def inlineOk (s : State) (i : Nat) (x : InlineSet) : Bool :=
  let f := x.fmt
  f.rsv == 0 && f.ok x.vlen && !f.isPair && (f.ash != 0 || 8 ≤ f.fmt.w) &&
  x.vlen != 0 && x.vlen % x.blockC == 0 && f.d x.vlen % x.blockC == 0 &&
  decide (s.apBase ≤ x.viewBase) && decide (x.viewBase + x.viewLen ≤ s.apBase + s.apSize) &&
  s.inlines.all (fun p => p.1 == i || !p.2.active || !viewsMeet p.2.use x) &&
  decide (x.stack ≤ 11) && decide (x.pbase * 64 + x.storage ≤ 2 ^ 37)

/-- An enable is checked: it starts the block-state initialisation, or is refused (R155). -/
def inlineEnable (s : State) (i : Nat) : State :=
  let x := s.inl i
  if s.inlineOk i x.reg then s.setInl i { x with enable := true, use := x.reg, initPending := true, heldEnable := false, lost := [] }
  else s.setInl i { x with enable := false, refused := true, heldEnable := false }

/-- The SEs of an inline window's stack hold an entry of it that the present flush covers. -/
def flushPending (s : State) (i : Nat) : Bool :=
  (stackSes (s.inl i).use.stack).any (fun e => (s.eng e).wc.any (fun w => w.win == i && w.inFlush))

/-- Every entry of a window held at this moment is covered by a flush. -/
def coverFlush (s : State) (i : Nat) : State :=
  (stackSes (s.inl i).use.stack).foldl (fun s e => s.modEng e (fun x => { x with
    wc := x.wc.map (fun w => if w.win = i then { w with inFlush := true } else w) })) s

/-- A flush whose last merge is done ends (R160, R363): a disable ends ACTIVE, a second flush begins, and an enable held
meanwhile is checked. -/
def flushEnd (s : State) (i : Nat) : State :=
  let x := s.inl i
  if !x.flushing || s.flushPending i then s
  else if x.disabling then
    let s := s.setInl i { x with flushing := false, disabling := false, flushAgain := false, active := false }
    if x.heldEnable then s.inlineEnable i else s
  else if x.flushAgain then
    let s := (s.setInl i { x with flushAgain := false }).coverFlush i
    if s.flushPending i then s else s.modInl i (fun x => { x with flushing := false })
  else s.setInl i { x with flushing := false }

/-- FLUSH written 1 (R160, R363). -/
def flushStart (s : State) (i : Nat) : State :=
  if (s.inl i).flushing then s.modInl i (fun x => { x with flushAgain := true })
  else ((s.modInl i (fun x => { x with flushing := true })).coverFlush i).flushEnd i

/-- ENABLE written 0 (R160): accesses stop, and ACTIVE becomes 0 when the flush ends. -/
def inlineDisable (s : State) (i : Nat) : State :=
  let s := s.modInl i (fun x => { x with
    enable := false, initPending := false, heldEnable := false, flushing := true, disabling := true })
  (s.coverFlush i).flushEnd i

/-- The write-combining entries of an engine are lost (R164); flushes that waited only for them end. -/
def dropWc (s : State) (e : Nat) : State :=
  let s := s.modEng e (fun x => { x with wc := [] })
  (s.inlines.map (·.1)).foldl (fun s i => s.flushEnd i) s

end State

end Sys2Proof.Machine
end

