-- ==== Sys2Proof/Machine/Errors.lean ====
section
/-! DEFINITION. The error ring (R299 to R301), classification and self-test (R302 to R305), external errors (R307),
fencing (R308, R309) and the always-on island's own errors (R310). -/

namespace Sys2Proof.Machine

/-! ## The error ring -/

/-- Records in the ring (Table 15.2: other values of ERRLOG2 are taken as 6). -/
def ErrCfg.size (c : ErrCfg) : Nat := 2 ^ (if 6 ≤ c.log2 && c.log2 ≤ 16 then c.log2 else 6)

/-- A record may be written (R300). -/
def ErrCfg.room (c : ErrCfg) : Bool := c.on && decide (sub16 c.tail c.head < c.size - 1)

/-- The 256-bit error record (Table 15.3). -/
def errNat (r : ErrRec) : Nat :=
  place r.time 64 192 + place r.loc 40 152 + place r.win 12 140 + place r.context 12 128 + place r.seq 16 112 +
  place r.ref 16 96 + place r.synd 32 64 + place r.uniterr 16 48 + place r.engine 7 33 + place r.unit 5 28 +
  place r.quire 4 24 + place r.kind 4 20 + place r.lockind 4 16 + place r.cls 4 12 + place (bit r.noctx) 1 10 +
  place (bit r.redo) 1 9 + place (bit r.phase) 1 8 + place r.type 8 0

/-- An error record goes to the ring, or is dropped and counted (R300). -/
def writeErr (s : State) (r : ErrRec) : State :=
  let c := s.err
  if c.room then
    let s := s.setMem (Mem.wr s.mem (c.base * 64 + 32 * (c.tail % c.size)) 32 (errNat { r with phase := c.phase }))
    let s := { s with err := { c with tail := (c.tail + 1) % mod16
                                      phase := if (c.tail + 1) % c.size = 0 then !c.phase else c.phase } }
    s.out (.event 1 0)
  else { s with err := { c with drop := satInc32 c.drop 1 } }

/-! ## Codes (Table 15.4) -/

def unQUIRE : Nat := 0x00
def unSCALE : Nat := 0x01
def unFOLD : Nat := 0x02
def unROT : Nat := 0x03
def unTILE : Nat := 0x04
def unREDUCE : Nat := 0x05
def unSAMPLER : Nat := 0x06
def unMIXER : Nat := 0x07
def unWATCH : Nat := 0x08
def unFRONT : Nat := 0x09
def unCACHE : Nat := 0x0A
def unMEMSTREAM : Nat := 0x0B
def unNETSTREAM : Nat := 0x0C
def unLINK : Nat := 0x0D
def unWC : Nat := 0x10
def unISLAND : Nat := 0x1E
def unOUTSIDE : Nat := 0x1F
def clPENDING : Nat := 0
def clTRANSIENT : Nat := 1
def clLASTING : Nat := 2
def clEXTERNAL : Nat := 3

def kindCode : ErrKind → Nat
  | .secdedCorr => 0 | .secdedUncorr => 1 | .parity => 2 | .residue => 3

/-- The lane of a residue failure in the lane array names its quire (R13). -/
def theQuire (k : Detection) : Nat :=
  if k.unit = unQUIRE && k.kind == .residue then bits k.synd 25 16 / 64 else k.quire

/-- The tile regions and the write-combining entries exist only inside the fabric (R306). -/
def onlyInside (k : Detection) : Bool :=
  k.inside || ((k.unit = unTILE || k.unit = unWC) && k.kind == .secdedUncorr)

/-- The unit of R302, as a key: the quire matters for the lane array only. -/
def unitKey (unit quire : Nat) : Nat := unit * 16 + (if unit = 0 then quire % 16 else 0)

/-- What an error record says of the place and the work affected (R301). -/
structure ErrAt where
  lockind : Nat := 0
  loc : Nat := 0
  win : Nat := 0
  context : Nat := 0
  seq : Nat := 0
  noctx : Bool := false
  deriving DecidableEq, Repr, Inhabited

/-- One more error in a unit: its UNITERR (saturating) and the counter of its kind (Table 16.1). -/
def countError (s : State) (e unit quire kind : Nat) : State :=
  s.modEng e (fun x =>
    let k := unitKey unit quire
    let c := x.cnt
    { x with
      unitErr := SMap.set x.unitErr 0 k (min 0xFFFF (SMap.get x.unitErr 0 k + 1))
      cnt := if kind = 0 then { c with errCorr := c.errCorr + 1 } else if kind = 1 then { c with errUncorr := c.errUncorr + 1 }
        else if kind = 2 then { c with errParity := c.errParity + 1 } else if kind = 3 then { c with errResidue := c.errResidue + 1 }
        else c })

/-- A record of an engine's unit, with the fields that every record has; REF is its own index (R301). -/
def mkErr (s : State) (e unit quire kind cls synd : Nat) (p : ErrAt) : ErrRec :=
  { time := s.time, loc := p.loc, win := p.win, context := if p.noctx then 0 else p.context
    seq := if p.noctx then 0 else p.seq, ref := s.err.tail, synd := synd
    uniterr := SMap.get (s.eng e).unitErr 0 (unitKey unit quire), engine := e, unit := unit
    quire := if unit = 0 then quire else 0, kind := kind, lockind := p.lockind, cls := cls, noctx := p.noctx, type := 1 }

/-! ## Cut participation (R336): an engine that is fenced or OFF counts as having captured -/

/-- Every engine that takes part has captured (R334): CUTDONE, CUTTIME, and in snapshot mode CUTBUSY clears and the RIBBON
completes (R336). -/
def cutCheck (s : State) : State :=
  if s.trace.cutBusy && !s.trace.cutDone && s.engines.all (fun p => !p.2.cut.part || p.2.cut.captured) then
    let s := { s with trace := { s.trace with cutDone := true, cutTime := s.time } }
    if s.trace.cutHold then s
    else
      let s := match s.trace.granted with
        | some (c, q) => s.modDesc c q (fun d => { d with finished := true })
        | none => s
      let s := { s with trace := { s.trace with cutBusy := false, granted := none } }
      { s with engines := SMap.mapVals s.engines {} (fun x => { x with cut := {} }) }
  else s

/-- An engine's part in a cut ends. -/
def leaveCut (s : State) (e : Nat) : State :=
  if (s.eng e).cut.part then cutCheck (s.modEng e (fun x => { x with cut := { x.cut with captured := true, hold := false } }))
  else s

/-! ## Fencing (R308, R309) -/

/-- The chunk of an output element is finished. -/
def Desc.elemDone (d : Desc) (chunkOf : Nat → Option (Nat × Nat)) (i : Nat) : Bool :=
  match chunkOf i with | some (w, k) => d.isDone w k | none => false

/-- The part of a count that a restored descriptor brought which lies in finished chunks: all of it unless the chunk in which
its cursor stood is unfinished; then none where no chunk lies before that one, else a free value up to the count, which the
image does not divide among chunks (log 57). -/
def Desc.priorPart (d : Desc) (chunkOf : Nat → Option (Nat × Nat)) (free v : Nat) : Nat :=
  let p := d.prior
  if p.cursor = 0 || (chunkOf p.cursor).isNone then 0
  else if chunkOf (p.cursor - 1) != chunkOf p.cursor || d.elemDone chunkOf p.cursor then v
  else if chunkOf 0 == chunkOf p.cursor then 0
  else free % (v + 1)

/-- The counts and index of a completion that the island writes: only the elements of finished destination chunks
(R308). `chunkOf` names the destination chunk of an output element, if it has one; `free` numbers free values. -/
def Desc.finishedCounts (d : Desc) (chunkOf : Nat → Option (Nat × Nat)) (free : Nat) : Desc :=
  let ev := d.events.filter (fun p => d.elemDone chunkOf p.1)
  let nf := ev.filter (fun p => bitAt p.2 2)
  let p := d.prior
  let part (j v : Nat) : Nat := d.priorPart chunkOf (Config.restoredPart free d.seq j) v
  let before := p.nonfin && (chunkOf p.firstNf).isSome &&
    (chunkOf p.firstNf != chunkOf p.cursor || d.elemDone chunkOf p.cursor)
  { d with
    island := true, events := ev
    sat := (ev.filter (fun p => bitAt p.2 0)).length + part 0 p.sat
    flush := (ev.filter (fun p => bitAt p.2 1)).length + part 1 p.flush
    aux := if d.op = opSIGNATURE then d.aux else ev.foldl (fun a p => a + p.2 / 8) 0 + part 2 p.aux
    nonfin := !nf.isEmpty || before
    firstNf := nf.foldl (fun a p => min a p.1) (if before then p.firstNf else 0xFFFFFFFFFF) }

/-- The contexts that an engine runs or that wait for it. -/
def State.named (s : State) (e : Nat) : List Nat :=
  (s.ctxs.filter (fun p => p.2.use.engine == e && (p.2.resident || p.2.enable))).map (·.1)

/-- The responses of an access that no earlier part holds back are presented. -/
def drainAccess (s : State) (a : OpenAccess) : Nat → State
  | 0 => { s with accesses := s.accesses.filter (fun x => x.id != a.id) ++ (if a.next < a.parts then [a] else []) }
  | fuel + 1 =>
    match a.done.find? (fun r => r.1 == a.next) with
    | some r => drainAccess (s.out (.inlineResp a.tag r.2.1 r.2.2)) { a with next := a.next + 1 } fuel
    | none => { s with accesses := s.accesses.filter (fun x => x.id != a.id) ++ (if a.next < a.parts then [a] else []) }

/-- The response of one part: at once, or after the earlier parts of an access of which one is held. -/
def respond (s : State) (p : HeldInline) (code : Nat) (data : List Byte) : State :=
  match s.accesses.find? (fun a => a.id == p.acc) with
  | some a =>
    if p.acc = 0 then s.out (.inlineResp p.tag code data)
    else drainAccess s { a with done := a.done ++ [(p.idx, code, data)] } a.parts
  | none => s.out (.inlineResp p.tag code data)

/-- The inline accesses that an engine holds receive a code of Table 8.4 without being served. -/
def State.dropHeldIn (s : State) (e code : Nat) : State :=
  (s.eng e).heldIn.foldl (fun s x => respond s x code []) (s.modEng e (fun x => { x with heldIn := [] }))

/-- An engine is fenced by an error of `unit` (R308, R309). The aborts of a PE go out with the endings, unless its link
interface is the lasting unit. Inline accesses that the engine holds receive DATA. -/
def fence (s : State) (e unit : Nat) : State :=
  let isl := unit = unFRONT || unit = unMEMSTREAM || unit = unNETSTREAM
  let s := { (s.dropHeldIn e 3) with freeCount := s.freeCount + 1 }
  let s := (s.modEng e (fun x => { x with fenced := true, fencedCnt := if x.fenced then x.fencedCnt else x.cnt })).dropWc e
  let s := { s with err := { s.err with degraded := true } }
  let s := leaveCut s e
  (s.named e).foldl (fun s c =>
    if !(s.ctx c).resident then leaveCtx s c true
    else
      let s := s.modCtx c (fun x => { x with descs := x.descs.map (fun d =>
        let d := if unit = unLINK then { d with coll := { d.coll with aborted := true } } else d
        if isl && !d.early then d.finishedCounts (s.destChunk d) s.freeCount else d) })
      let s := endCtx s c stFENCED (fun _ => true)
      leaveIfDone s c) s

/-! ## Detections (R301, R302) -/

/-- The unit had a detection less than 10^9 ns ago (R302). -/
def repeated (s : State) (e unit quire : Nat) : Bool :=
  let t := SMap.get (s.eng e).lastDet 0 (unitKey unit quire)
  t != 0 && decide (s.time + 1 - t < 10 ^ 9)

/-- A failed check in a unit of an engine: its record, and the fence or the self-test that follows (R301, R302). `redo`
says that a chunk is redone after a test that passes. -/
def detect (s : State) (e unit quire kind synd : Nat) (p : ErrAt) (redo : Bool) : State :=
  let again := repeated s e unit quire
  let s := countError s e unit quire kind
  let s := s.modEng e (fun x => { x with lastDet := SMap.set x.lastDet 0 (unitKey unit quire) (s.time + 1) })
  let r := mkErr s e unit quire kind (if again then clLASTING else clPENDING) synd p
  let s := writeErr s r
  if again then fence s e unit
  else s.modEng e (fun x => { x with tests := x.tests ++ [{ unit := unit, quire := quire, record := r, redo := redo }] })

/-- An EXTERNAL record: data that came from outside the fabric with an error or bad parity (R307, R347). -/
def external (s : State) (e : Nat) (parity : Bool) (p : ErrAt) : State :=
  let kind := if parity then 2 else 4
  let s := s.modEng e (fun x => { x with
    unitErr := SMap.set x.unitErr 0 (unitKey unOUTSIDE 0) (min 0xFFFF (SMap.get x.unitErr 0 (unitKey unOUTSIDE 0) + 1)) })
  writeErr s (mkErr s e unOUTSIDE 0 kind clEXTERNAL 0 p)

/-- An EXTERNAL record of a read that a descriptor made of a window's chunk: it ends with DATA_ERROR and the chunk becomes
FAULTED (R307). -/
def externalRead (s : State) (c q w k : Nat) (parity : Bool) : State :=
  let s := external s (s.engOf c) parity { lockind := 1, loc := k, win := w, context := c, seq := q }
  endDesc (faultChunk s c q w k) c q stDATAERR

/-- The same of a read outside windows. -/
def externalAddr (s : State) (c q a : Nat) (parity : Bool) : State :=
  let s := external s (s.engOf c) parity { lockind := 5, loc := a / 256, context := c, seq := q }
  endDesc s c q stDATAERR

/-- An external read error that answers a write of no descriptor (R307). -/
def externalWrite (s : State) (e a : Nat) (parity : Bool) : State :=
  external s e parity { lockind := 5, loc := a / 256, noctx := true }

/-- EPOCH goes up by one (R282), and goes out on the channel to every engine that is not OFF (R283). -/
def raiseEpoch (s : State) : State :=
  let n := (s.epoch + 1) % 2 ^ 32
  { s with
    epoch := n
    engines := SMap.mapVals s.engines {} (fun x => if x.st == .off then x else { x with chan := x.chan ++ [.epoch n] }) }

/-- The entry of a context reads as not enabled: it stops waiting, or its descriptors that name a window end with REVOKED; those
that name none are never revoked (R283, R310). -/
def loseCtx (s : State) (n : Nat) : State :=
  let s := s.modCtx n (fun x => { x with enable := false, reEnable := false })
  if (s.ctx n).resident then
    leaveIfDone (endCtx s n stREVOKED (fun d => !([opFENCE, opNOP, opLEASE, opRIBBON].contains d.op))) n
  else { s with waitQ := s.waitQ.filter (· ≠ n) }

/-- An error in a table entry of the always-on island: a corrected one is TRANSIENT; an uncorrectable one is LASTING, sets
DEGRADED, and the entry reads as not VALID or not enabled (R310). `loc` is [39:36] table, [11:0] entry. -/
def islandError (s : State) (kind synd loc : Nat) : State :=
  let s := { s with err := { s.err with unitErr := min 0xFFFF (s.err.unitErr + 1) } }
  let rec0 : ErrRec := { time := s.time, loc := loc, ref := s.err.tail, synd := synd, unit := unISLAND, kind := kind
                         lockind := 6, cls := if kind = 0 then clTRANSIENT else clLASTING, noctx := true
                         uniterr := s.err.unitErr }
  let s := writeErr s rec0
  if kind = 0 then s
  else
    let s := { s with err := { s.err with degraded := true } }
    let n := loc % 4096
    let s := match bits loc 39 36 with
      | 0 => s.setWin n { s.win n with valid := false }
      | 1 => s.modInl (n % 256) (fun x => { x with enable := false, active := false, heldEnable := false, initPending := false })
      | 2 => s.setPd (n % 256) { s.pdt (n % 256) with valid := false }
      | _ => loseCtx s n
    raiseEpoch s

/-! ## Self-tests (R302 to R305) -/

/-- A test is pending or runs whose detection lies in the work of a descriptor: that work waits for it (R94, R305). -/
def heldByTest (x : Engine) (c q : Nat) : Bool :=
  x.tests.any (fun t => !t.record.noctx && t.record.kind != 0 && t.record.context == c && t.record.seq == q)

/-- A PENDING detection's targeted self-test starts (R302). -/
def execSelfTestStart (e unit quire : Nat) (s : State) : Host.Outcome State Fault Refusal :=
  .next (s.modEng e (fun x => { x with
    tests := x.tests.map (fun t => if unitKey t.unit t.quire = unitKey unit quire then { t with started := true } else t) }))

/-- A targeted self-test ends (R302, R305): its outcome record repeats the detection record. `us` is its length in µs,
rounded up; `pattern` the failing pattern; `redo` says that a chunk is redone. -/
def endTest (s : State) (e : Nat) (t : SelfTest) (pass redo : Bool) (pattern us : Nat) : State :=
  let r := { t.record with
    type := 2, cls := if pass then clTRANSIENT else clLASTING, redo := pass && redo, time := s.time
    synd := (if pass then 0 else pattern % 65536) * 65536 + us % 65536 }
  let s := writeErr s r
  let s := s.modEng e (fun x => { x with tests := x.tests.filter (fun y => unitKey y.unit y.quire != unitKey t.unit t.quire) })
  if pass then { s with err := { s.err with trans := (s.err.trans + 1) % 2 ^ 40 } } else fence s e t.unit

end Sys2Proof.Machine
end

