-- ==== Sys2Proof/Machine/Bond.lean ====
section
/-! DEFINITION. Groups (R218, R219) and bonds (R266, R267): which member holds an element, and the pieces of a tensor
(R269, R270). -/

namespace Sys2Proof.Machine

/-! ## Groups -/

/-- The BAD_DESCRIPTOR conditions of R219 do not hold. -/
def Group.ok (g : Group) (device : Nat) : Bool :=
  g.valid && !g.rsv && 1 ≤ g.n && g.n ≤ 32768 && g.self < g.n && nth g.members g.self 0x8000 == device &&
    g.members.eraseDups.length == g.members.length

/-! ## Bonds -/

/-- A bond block's words 1 to 4 (Table 13.1): sizes of the dimensions, of the grid axes, and PART as masks. -/
structure Bond where
  ndim : Nat := 0
  dims : List Nat := []
  grid : List Nat := []
  part : List Nat := []
  rsv : Bool := false
  deriving DecidableEq, Repr, Inhabited

/-- A bond from its words. -/
def Bond.ofWords (w1 w2 w3 w4 : Nat) : Bond :=
  let nd := bits w1 63 61
  let gd := bits w1 60 59 + 1
  let all := [bits w1 23 0, bits w1 47 24, bits w2 23 0, bits w2 47 24, bits w3 23 0]
  let gr := (List.range 4).map (fun a => bits w4 (16 * a + 15) (16 * a))
  { ndim := nd, dims := all.take nd, grid := gr.take gd
    part := ((List.range 5).map (fun t => bits w3 (47 + 4 * t) (44 + 4 * t))).take nd
    rsv := bits w1 58 48 != 0 || bits w2 63 48 != 0 || bits w3 43 24 != 0 || (all.drop nd).any (· != 0) ||
      (gr.drop gd).any (· != 0) }

namespace Bond

/-- The axes that divide dimension `t`. -/
def axes (b : Bond) (t : Nat) : List Nat := (List.range 4).filter (fun a => bitAt (nth b.part t 0) a)
/-- P_t. -/
def p (b : Bond) (t : Nat) : Nat := (b.axes t).foldl (fun x a => x * nth b.grid a 0) 1
/-- E_t. -/
def e (b : Bond) (t : Nat) : Nat := nth b.dims t 1 / max 1 (b.p t)
/-- Members. -/
def ranks (b : Bond) : Nat := b.grid.foldl (· * ·) 1
/-- Elements of the tensor. -/
def size (b : Bond) : Nat := b.dims.foldl (· * ·) 1
/-- Elements of a shard. -/
def shard (b : Bond) : Nat := (List.range b.ndim).foldl (fun x t => x * b.e t) 1
/-- Grid coordinate y_a of a rank. -/
def coord (b : Bond) (r a : Nat) : Nat := r / ((b.grid.take a).foldl (· * ·) 1) % max 1 (nth b.grid a 1)
/-- Block index of a rank along dimension `t` (R267). -/
def block (b : Bond) (r t : Nat) : Nat :=
  ((b.axes t).foldl (fun (x : Nat × Nat) a => (x.1 + b.coord r a * x.2, x.2 * nth b.grid a 0)) (0, 1)).1
/-- Coordinate x_t of element `g`. -/
def xt (b : Bond) (g t : Nat) : Nat := g / ((b.dims.take t).foldl (· * ·) 1) % max 1 (nth b.dims t 1)
/-- A rank holds element `g`. -/
def holds (b : Bond) (r g : Nat) : Bool := (List.range b.ndim).all (fun t => b.xt g t / max 1 (b.e t) == b.block r t)
/-- Index of element `g` in the shard of a member that holds it. -/
def localIx (b : Bond) (g : Nat) : Nat :=
  ((List.range b.ndim).foldl (fun (x : Nat × Nat) t => (x.1 + b.xt g t % max 1 (b.e t) * x.2, x.2 * b.e t)) (0, 1)).1
/-- The ranks that hold element `g`, ascending. -/
def holders (b : Bond) (g : Nat) : List Nat := (List.range b.ranks).filter (fun r => b.holds r g)
/-- An axis in two PARTs, or a P_t that does not divide DIM_t. -/
def bad (b : Bond) : Bool :=
  b.ndim < 1 || 5 < b.ndim || b.dims.any (· == 0) || 2 ^ 50 < b.size ||
  (List.range 4).any (fun a => 1 < (b.part.filter (fun m => bitAt m a)).length) ||
  (List.range b.ndim).any (fun t => b.p t == 0 || nth b.dims t 1 % b.p t != 0)

end Bond

/-! ## Pieces (R269, R270) -/

/-- The cuts of a global row, as (start, end) along dimension 0. -/
def rowCuts (d0 es ed : Nat) : Nat → Nat → List (Nat × Nat)
  | 0, _ => []
  | fuel + 1, x =>
    if d0 ≤ x then []
    else
      let nx := min d0 (min ((x / 2048 + 1) * 2048) (min ((x / max 1 es + 1) * max 1 es) ((x / max 1 ed + 1) * max 1 ed)))
      (x, nx) :: rowCuts d0 es ed fuel nx

/-- The pieces of each global row. -/
def pieceCuts (src dst : Bond) : List (Nat × Nat) := rowCuts (nth src.dims 0 0) (src.e 0) (dst.e 0) (nth src.dims 0 0) 0

/-- Number of pieces of the tensor. -/
def pieceCount (src dst : Bond) : Nat := src.size / max 1 (nth src.dims 0 0) * (pieceCuts src dst).length

/-- First element and length of piece `k`. -/
def piece (src dst : Bond) (k : Nat) : Nat × Nat :=
  let c := pieceCuts src dst
  let q := nth c (k % max 1 c.length) (0, 0)
  (k / max 1 c.length * nth src.dims 0 0 + q.1, q.2 - q.1)

/-- The sender of a piece that starts at element `g` for receiver rank `d` (R270). -/
def pieceSender (src : Bond) (g d : Nat) : Nat :=
  let h := src.holders g
  if h.contains d then d else nth h (d % max 1 h.length) 0

namespace Desc

/-- The bonds of a REBOND, its pieces per bucket, first piece and pieces (R266). -/
def srcBond (d : Desc) : Bond := Bond.ofWords (d.p 1) (d.p 2) (d.p 3) (d.p 4)
def dstBond (d : Desc) : Bond := Bond.ofWords (d.p 9) (d.p 10) (d.p 11) (d.p 12)
def bp (d : Desc) : Nat := bits (d.p 8) 18 0
def piece0 (d : Desc) : Nat := bits (d.p 13) 39 0
def npiece (d : Desc) : Nat := bits (d.p 14) 39 0
def rsWin (d : Desc) : Nat := bits (d.p 15) 63 52
def rsOff (d : Desc) : Nat := bits (d.p 15) 39 0
/-- The pieces of the descriptor's bucket (R271). -/
def bucketPieces (d : Desc) : List Nat :=
  let lo := d.piece0 + d.bucket * d.bp
  range2 lo (min (lo + d.bp) (d.piece0 + d.npiece))

/-- KIND, PAIRSUM, ROOT, CAP and the dropped-position bitmap of a COLLECTIVE (R180). OPF has a meaning for KIND 0 and 2 only, and
is not looked at for the others (DEDUCED, log 92). -/
def kind (d : Desc) : Nat := if d.op = opREBOND then 6 else bits d.sub 3 0
def pairSum (d : Desc) : Bool := d.opf && (d.kind == 0 || d.kind == 2)
def root (d : Desc) : Nat := bits (d.p 1) 47 32
def bmWin (d : Desc) : Nat := bits (d.p 2) 63 52
def bmOff (d : Desc) : Nat := bits (d.p 2) 39 0
def cap (d : Desc) : Nat := bits (d.p 3) 39 0
/-- Shard length S of a group of `n` (R221). -/
def shardLen (d : Desc) (n : Nat) : Nat := if d.kind = 3 then d.count else d.count / max 1 n
/-- Elements of the source and of the result at a member (Table 11.2). -/
def collSrcN (d : Desc) (n : Nat) : Nat := if d.kind = 1 || d.kind = 4 then d.shardLen n else d.count
def collDstN (d : Desc) (n : Nat) : Nat := if d.kind = 0 then d.shardLen n else d.count

end Desc

/-- Offset of the data of an all-to-all after its count array (R234). -/
def a2aData (off n : Nat) : Nat := align64 (off + 4 * n)

end Sys2Proof.Machine
end

