-- ==== Sys2Proof/Machine/Watch.lean ====
section
/-! DEFINITION. Welford states (R110), the watch unit (R118 to R123) and the watch record (Table 6.4). -/

namespace Sys2Proof.Machine

/-! ## Welford (R110) -/

/-- `wf_step`. -/
def wfStep (s : Wst) (x : F32) : Wst :=
  let n := s.n + 1
  let d := fSub x s.mean
  let mean := fAdd s.mean (fDiv d (fOfNat n))
  let d2 := fSub x mean
  { n := n, mean := mean, m2 := fAdd s.m2 (fMul d d2) }

/-- `wf_merge`. -/
def wfMerge (a b : Wst) : Wst :=
  if a.n = 0 then b else if b.n = 0 then a
  else
    let n := a.n + b.n
    let d := fSub b.mean a.mean
    let mean := fAdd a.mean (fMul d (fDiv (fOfNat b.n) (fOfNat n)))
    let w := fDiv (fMul (fOfNat a.n) (fOfNat b.n)) (fOfNat n)
    { n := n, mean := mean, m2 := fAdd (fAdd a.m2 b.m2) (fMul (fMul d d) w) }

/-- The partials merged in ascending index. -/
def wfAll (l : List (Nat × Wst)) : Wst := l.foldl (fun s p => wfMerge s p.2) {}

/-- Partial `j` after value `x`. -/
def wfPut (l : List (Nat × Wst)) (j : Nat) (x : F32) : List (Nat × Wst) :=
  Keyed.set l j (wfStep ((Keyed.get? l j).getD {}) x)

/-! ## Watch control (R118, Table 6.3) -/

/-- What a watch computes and its histogram parameters. -/
structure WatchCfg where
  stat : Bool := false
  hist : Bool := false
  sig : Bool := false
  hbase : Nat := 0
  hstep : Nat := 0
  deriving DecidableEq, Repr, Inhabited

/-- The watch control field. -/
def WatchCfg.ofField (v : Nat) : WatchCfg :=
  { stat := bitAt v 0, hist := bitAt v 1, sig := bitAt v 2, hbase := bits v 13 6, hstep := bits v 5 4 }

def WatchCfg.active (c : WatchCfg) : Bool := c.stat || c.hist || c.sig

/-- The watch of a descriptor. -/
def Desc.watchCfg (d : Desc) : WatchCfg := WatchCfg.ofField d.watchField
/-- The statistics that a STATS descriptor makes of its source (R117): everything, histogram parameters from DFMT. -/
def Desc.statsCfg (d : Desc) : WatchCfg :=
  { stat := true, hist := true, sig := true, hbase := bits d.dfmtW 7 0, hstep := bits d.dfmtW 9 8 }

/-! ## Observing (R120 to R122) -/

/-- The order of R111 with -0 below +0, on values that are not NaN. -/
def fLtZ (a b : F32) : Bool := fLt a b || (fIsZero a && fIsZero b && bitAt a 31 && !bitAt b 31)

/-- The histogram bin of a working value (R121). -/
def histBin (c : WatchCfg) (v : F32) : Nat :=
  if fIsZero v then 0
  else if !fIsFin v then 15
  else
    let e := (expb (fAbs v)).1
    let b := toSigned c.hbase 8
    1 + (min 13 (max 0 ((e - b) / (2 ^ c.hstep : Nat)))).toNat

/-- One element of the watched output: its index and its working value (R120, R121). -/
def WatchSt.elem (w : WatchSt) (c : WatchCfg) (idx : Nat) (v : F32) : WatchSt :=
  let w := { w with count := w.count + 1 }
  let w := if fIsNan v then { w with nanc := w.nanc + 1 }
    else if fIsInf v then { w with infc := w.infc + 1 }
    else { w with
      fin := w.fin + 1
      min := some (match w.min with | none => v | some m => if fLtZ v m then v else m)
      max := some (match w.max with | none => v | some m => if fLtZ m v then v else m)
      absmax := if fLt w.absmax (fAbs v) then fAbs v else w.absmax
      wels := if c.stat then wfPut w.wels (idx % 256) v else w.wels }
  if c.hist then { w with hist := SMap.set w.hist 0 (histBin c v) (SMap.get w.hist 0 (histBin c v) + 1) } else w

/-- `k` whole bytes of a bit buffer go into the CRC. -/
def WatchSt.drainBits : Nat → WatchSt → WatchSt
  | 0, w => w
  | k + 1, w =>
    if w.bitLen < 8 then w
    else drainBits k { w with crc := crc64Byte w.crc (w.bitBuf % 256), bitBuf := w.bitBuf / 256, bitLen := w.bitLen - 8 }

/-- `n` bits of the element stream are observed, least significant first (R27, R122). -/
def WatchSt.bitsIn (w : WatchSt) (c : WatchCfg) (v n : Nat) : WatchSt :=
  if c.sig then
    WatchSt.drainBits (n / 8 + 1) { w with bitBuf := w.bitBuf + v % 2 ^ n * 2 ^ w.bitLen, bitLen := w.bitLen + n }
  else w

/-- Bytes of the element stream. -/
def WatchSt.bytesIn (w : WatchSt) (c : WatchCfg) (l : List Byte) : WatchSt :=
  l.foldl (fun w b => w.bitsIn c b.toNat 8) w

/-- Bytes of the mortar plane, and of the quoin plane. -/
def WatchSt.mortarIn (w : WatchSt) (c : WatchCfg) (n v : Nat) : WatchSt :=
  if c.sig then { w with crcM := (leBytes n v).foldl (fun k b => crc64Byte k b.toNat) w.crcM, lenM := w.lenM + n } else w
def WatchSt.quoinIn (w : WatchSt) (c : WatchCfg) (v : Nat) : WatchSt :=
  if c.sig then { w with crcQ := (leBytes 4 v).foldl (fun k b => crc64Byte k b.toNat) w.crcQ, lenQ := w.lenQ + 4 } else w

/-- A CRC carried over `n` zero bytes. -/
def crcShift (crc n : Nat) : Nat := forN n crc (fun c _ => crc64Byte c 0)

/-- The signature of everything observed, in the order of R122; the last byte is completed with zero bits, as R28 writes
it in an output. For the source of a STATS that ends inside a byte the spec does not say so (DEDUCED, log 83). -/
def WatchSt.signature (w : WatchSt) : Nat :=
  let c := if w.bitLen = 0 then w.crc else crc64Byte w.crc (w.bitBuf % 256)
  (crcShift ((crcShift c w.lenM) ^^^ w.crcM) w.lenQ) ^^^ w.crcQ

/-- One byte of a record output, observed as a UINT8 element (R120). -/
def WatchSt.recByte (w : WatchSt) (c : WatchCfg) (b : Byte) : WatchSt :=
  (w.elem c w.count (fOfNat b.toNat)).bitsIn c b.toNat 8

/-- One ashlar of a packed output: a bound record, or element bytes, its mortar byte and quoin words (R122). -/
def WatchSt.ashlar (w : WatchSt) (c : WatchCfg) (t : Tensor) (codes : List Nat) (scale : Nat) (quoins : List Nat) : WatchSt :=
  let body := codes.foldr (fun x a => x % 2 ^ t.w + a * 2 ^ t.w) 0
  let w := if t.f.bound then w.bitsIn c scale 8 else w
  let w := w.bitsIn c body (t.ab * 8)
  let w := if t.f.bound then w else w.mortarIn c 1 scale
  (List.range t.f.quoins).foldl (fun w k => w.quoinIn c (nth quoins k 0)) w

/-! ## The record (R119, Table 6.4) -/

/-- The 256 bytes of a watch record. -/
def watchRecord (w : WatchSt) (c : WatchCfg) (seq : Nat) (partialEnd : Bool) : List Byte :=
  let m := wfAll w.wels
  let none? := w.fin = 0
  let st (v : Nat) := if c.stat then v else 0
  leBytes 8 (st w.count) ++ leBytes 8 (st w.fin) ++ leBytes 8 (st w.nanc) ++ leBytes 8 (st w.infc) ++
  leBytes 4 (st (w.min.getD f32NaN)) ++ leBytes 4 (st (w.max.getD f32NaN)) ++ leBytes 4 (st w.absmax) ++
  leBytes 4 (st (if none? then f32NaN else m.mean)) ++
  leBytes 4 (st (if none? then f32NaN else fDiv m.m2 (fOfNat m.n))) ++
  leBytes 4 (bit c.stat + 2 * bit c.hist + 4 * bit c.sig + 8 * bit partialEnd + place c.hbase 8 4 + place c.hstep 2 12) ++
  leBytes 8 (if c.sig then w.signature else 0) ++
  ((List.range 16).map (fun i => leBytes 8 (if c.hist then SMap.get w.hist 0 i else 0))).flatten ++
  leBytes 8 seq ++ List.replicate 56 0

/-- The working value of an exact value (R104). -/
def workVal (x : XVal) : F32 := toF32 x

/-! ## Events of the primary output (R64 to R66) -/

/-- An output element with its events at output index `idx`. -/
def Desc.note (d : Desc) (idx : Nat) (ev : Ev) : Desc :=
  { d with
    sat := d.sat + bit ev.sat, flush := d.flush + bit ev.flush
    events := if ev.sat || ev.flush || ev.nf then d.events ++ [(idx, bit ev.sat + 2 * bit ev.flush + 4 * bit ev.nf)] else d.events
    nonfin := d.nonfin || ev.nf, firstNf := if ev.nf then min d.firstNf idx else d.firstNf }

/-- `n` more in AUX for output element `idx`. -/
def Desc.noteAux (d : Desc) (idx n : Nat) : Desc :=
  { d with aux := d.aux + n, events := if n = 0 then d.events else d.events ++ [(idx, 8 * n)] }

/-- The events of one accumulation step for output element `idx` (R86, R89). -/
def Desc.noteStep (d : Desc) (idx : Nat) (so flush : Bool) : Desc :=
  { d with
    aux := d.aux + bit so, flush := d.flush + bit flush
    events := if so || flush then d.events ++ [(idx, 8 * bit so + 2 * bit flush)] else d.events }

/-- An output element of an unpacked plane: events, watch statistics, and its bits in the stream. -/
def Desc.emit (d : Desc) (f : Fmt) (idx code : Nat) (ev : Ev) : Desc :=
  let d := d.note idx { ev with nf := codeNonfinite f code }
  let c := d.watchCfg
  if c.active then { d with watch := (d.watch.elem c idx (workVal (elemValue f false code))).bitsIn c code f.w } else d

end Sys2Proof.Machine
end

