-- ==== Sys2Proof/Machine/Fold.lean ====
section
/-! DEFINITION. The fold unit (05_fold_and_accumulate.md): exact products, accumulation steps, the tile store and its
drains, and the output stage. -/

namespace Sys2Proof.Machine

/-! ## Products and steps (R87 to R90) -/

/-- The value of one part of a pair: 1 lo, 2 hi. -/
def pairPart (f : Fmt) (c part : Nat) : XVal :=
  let h := halfOf f
  xvCode h false (if part = 2 then c % 2 ^ h.w else c / 2 ^ h.w)

/-- The product of the factors that R87 lists for row `r`, column `k` of an operand. -/
def operandValue (m : Mem) (t : Tensor) (r k part : Nat) : XVal :=
  let i := r * t.d + k
  if t.f.isPair then t.rowFactor m i (pairPart t.f.fmt (t.code m i) part) else t.value m i

/-- Omega of R89 for an accumulator format. -/
def accLimit (bf16 : Bool) : XVal := if bf16 then .fin false 511 119 false else .fin false 0x1FFFFFF 103 false

/-- Accumulator format. -/
def accFmt (bf16 : Bool) : Fmt := if bf16 then fmtBf16 else fmtFp32

/-- Result of a step: the accumulator code, a scale overflow, a flush. -/
structure StepOut where
  acc : Nat := 0
  so : Bool := false
  flush : Bool := false
  deriving DecidableEq, Repr, Inhabited

/-- `acc_step` of R89. -/
def accStep (acc : Nat) (p : XVal) (bf16 : Bool) : StepOut :=
  let fin := match p with | .fin .. => true | _ => false
  let above := fin && !p.abs.lt (accLimit bf16)
  let below := fin && p.abs.lt (.fin false 1 (-126) false)
  let p' := if above then .inf p.sign else p
  let s := (xvCode (accFmt bf16) false acc).add p'
  let (r, ev) := convertOne s (accFmt bf16) false true .rne 0
  let sf := match s with | .fin .. => true | _ => false
  { acc := r, so := above || (sf && ev.nf), flush := !above && below }

/-- Number of parts of an operand (R90). -/
def partsOf (f : FmtW) : Nat := if f.isPair then 2 else 1
/-- `part_of` of R90. -/
def partOf (f : FmtW) (i : Nat) : Nat := if f.isPair then 1 + i else 0

/-! ## Tiles (R95 to R99) -/

/-- Slot of a tile (Table 5.5). -/
def tileSlot (bf16 : Bool) (t : Nat) : Nat := if bf16 then t / 2 else t
/-- First byte of a tile's region in the context's own store. -/
def tileBase (bf16 : Bool) (t : Nat) : Nat := if bf16 then t / 2 * 4096 + 2048 * (t % 2) else t * 4096
/-- Bytes of a tile's region. -/
def tileBytes (bf16 : Bool) : Nat := if bf16 then 2048 else 4096
/-- Byte of position (m, n) (Table 5.5). -/
def tileByte (bf16 : Bool) (t m n : Nat) : Nat := tileBase bf16 t + (if bf16 then 2 else 4) * (32 * m + n)
/-- The tile index is within an allotment (R97). -/
def tileOk (bf16 : Bool) (t slots : Nat) : Bool := if bf16 then t < 2 * slots else t < slots

/-- The little-endian value of `n` bytes of a store. -/
def storeRd (l : List (Nat × Byte)) (a : Nat) : Nat → Nat
  | 0 => 0
  | n + 1 => storeRd l a n + (SMap.get l 0 (a + n)).toNat * 256 ^ n
/-- A store with `n` bytes written. -/
def storeWr (l : List (Nat × Byte)) (a n v : Nat) : List (Nat × Byte) :=
  (List.range n).foldl (fun l k => SMap.set l 0 (a + k) (BitVec.ofNat 8 (v / 256 ^ k))) l

/-- The accumulator code at (m, n). -/
def tileRd (l : List (Nat × Byte)) (bf16 : Bool) (t m n : Nat) : Nat := storeRd l (tileByte bf16 t m n) (if bf16 then 2 else 4)
def tileWr (l : List (Nat × Byte)) (bf16 : Bool) (t m n v : Nat) : List (Nat × Byte) :=
  storeWr l (tileByte bf16 t m n) (if bf16 then 2 else 4) v

/-- The live region exchanged with the shadow set: the shadow takes its bytes and the live region reads +0 (R99). -/
def exchange (x : Ctx) (bf16 : Bool) (t : Nat) : Ctx :=
  let lo := tileBase bf16 t
  let hi := lo + tileBytes bf16
  let inside (p : Nat × Byte) : Bool := lo ≤ p.1 && p.1 < hi
  let keep := x.shadow.filter (fun p => !inside p)
  let moved := (x.live.filter inside).foldl (fun l p => SMap.set l 0 p.1 p.2) keep
  { x with live := x.live.filter (fun p => !inside p), shadow := moved }

/-- Two tile regions overlap (R98). -/
def tilesMeet (b1 : Bool) (t1 : Nat) (b2 : Bool) (t2 : Nat) : Bool :=
  tileBase b1 t1 < tileBase b2 t2 + tileBytes b2 && tileBase b2 t2 < tileBase b1 t1 + tileBytes b1

/-! ## The fold block (R179, Table 9.6) -/

namespace Desc

def ewin (d : Desc) : Nat := bits (d.p 0) 63 52
def bwin (d : Desc) : Nat := bits (d.p 0) 51 40
def boff (d : Desc) : Nat := bits (d.p 0) 39 0
def eoff (d : Desc) : Nat := bits (d.p 1) 39 0
def bfmt (d : Desc) : FmtW := FmtW.ofNat (d.p 2)
def efmt (d : Desc) : FmtW := FmtW.ofNat (d.p 3)
def arow0 (d : Desc) : Nat := bits (d.p 4) 63 32
def arows (d : Desc) : Nat := bits (d.p 4) 31 0
def brow0 (d : Desc) : Nat := bits (d.p 5) 63 32
def brows (d : Desc) : Nat := bits (d.p 5) 31 0
def dcol0 (d : Desc) : Nat := bits (d.p 6) 55 32
def drow0 (d : Desc) : Nat := bits (d.p 6) 31 0
def fuse (d : Desc) : Nat := bits (d.p 7) 37 36
def fout (d : Desc) : Bool := bitAt (d.p 7) 34
def finit (d : Desc) : Bool := bitAt (d.p 7) 33
def facc (d : Desc) : Bool := bitAt (d.p 7) 32
def ftile (d : Desc) : Nat := bits (d.p 7) 24 16
def fn (d : Desc) : Nat := bits (d.p 7) 13 8
def fm (d : Desc) : Nat := bits (d.p 7) 5 0
/-- K. -/
def fk (d : Desc) : Nat := d.sfmt.rowlen
/-- E is read (R86). -/
def usesE (d : Desc) : Bool := d.fout && (d.fuse == 1 || d.fuse == 2)
/-- Passes of R90. -/
def passes (d : Desc) : Nat := partsOf d.sfmt * partsOf d.bfmt

end Desc

/-- One step of every position of a FOLD: product `k` of the pass added to the accumulators (R90). -/
def foldStep (m : Mem) (ta tb : Tensor) (k : Nat) (st : Desc × List (Nat × Byte)) : Desc × List (Nat × Byte) :=
  let d0 := st.1
  let i := d0.pass / partsOf d0.bfmt
  let j := d0.pass % partsOf d0.bfmt
  (List.range (d0.fm * d0.fn)).foldl (fun s q =>
    let r := q / d0.fn
    let c := q % d0.fn
    let p := (operandValue m ta (d0.arow0 + r) k (partOf d0.sfmt i)).mul
      (operandValue m tb (d0.brow0 + c) k (partOf d0.bfmt j))
    let o := accStep (tileRd s.2 d0.facc d0.ftile r c) p d0.facc
    (s.1.noteStep q o.so o.flush, tileWr s.2 d0.facc d0.ftile r c o.acc)) st

/-- Positions m < M, n < N set to +0 (INIT). -/
def tileInit (l : List (Nat × Byte)) (bf16 : Bool) (t m n : Nat) : List (Nat × Byte) :=
  (List.range (m * n)).foldl (fun l q => tileWr l bf16 t (q / n) (q % n) 0) l

/-- FOLD with OUT 0 presents its accumulators as its output (R92). -/
def foldObserve (d : Desc) (live : List (Nat × Byte)) : Desc :=
  (List.range (d.fm * d.fn)).foldl (fun d q =>
    d.emit (accFmt d.facc) q (tileRd live d.facc d.ftile (q / d.fn) (q % d.fn)) .none) d

/-! ## Output stage (R91) -/

/-- What the output stage needs: the accumulators, M, N, the destination with its first row and column, the fused operand
and the conversion controls, `draw` the draw index of the rounding. -/
structure OutStage where
  bf16 : Bool := false
  tile : Nat := 0
  m : Nat := 0
  n : Nat := 0
  dst : Tensor := {}
  row0 : Nat := 0
  col0 : Nat := 0
  fuse : Nat := 0
  e : Tensor := {}
  infnan : Bool := false
  mode : RMode := .rne
  seed : Nat := 0
  stream : Nat := 0
  posbase : Nat := 0
  draw : Nat := 0
  deriving DecidableEq, Repr, Inhabited

/-- Destination element index of output position (r, c). -/
def OutStage.index (o : OutStage) (r c : Nat) : Nat := (o.row0 + r) * o.dst.f.rowlen + o.col0 + c

/-- The code and events that the output stage writes for one position, from accumulator code `a`. -/
def OutStage.convertAt (o : OutStage) (mem : Mem) (a i : Nat) : Nat × Ev :=
  let v := xvCode (accFmt o.bf16) false a
  let x := if o.fuse = 1 then v.add (o.e.value mem i) else if o.fuse = 2 then v.mul (o.e.value mem i) else v
  let r := if o.mode == .sr then srByte o.seed o.stream o.draw (o.posbase + i) else 0
  convert x o.dst.f.fmt false o.infnan o.mode r

/-- The output stage over every position, in output element order; other bits of shared bytes are kept (R28). -/
def OutStage.run (o : OutStage) (shadow : List (Nat × Byte)) (mem : Mem) (d : Desc) (note : Bool) : Mem × Desc :=
  (List.range (o.m * o.n)).foldl (fun s q =>
    let r := q / o.n
    let c := q % o.n
    let i := o.index r c
    let (code, ev) := o.convertAt mem (tileRd shadow o.bf16 o.tile r c) i
    (Mem.wrBits s.1 o.dst.base (i * o.dst.w) o.dst.w code,
      if note then
        let d := s.2.note q { ev with nf := codeNonfinite o.dst.f.fmt code }
        let k := d.watchCfg
        if k.active then { d with watch := d.watch.elem k q (workVal (elemValue o.dst.f.fmt false code)) } else d
      else s.2)) (mem, d)

/-- The byte ranges (from the destination base) that the rows of an output stage touch, in address order. -/
def OutStage.rowBytes (o : OutStage) : List (Nat × Nat) :=
  (List.range o.m).map (fun r => (o.index r 0 * o.dst.w / 8, ceilDiv ((o.index r 0 + o.n) * o.dst.w) 8))

end Sys2Proof.Machine
end

