-- ==== Sys2Proof/Machine/Reduce.lean ====
section
/-! DEFINITION. The reductions of 06_reductions_and_watches.md, one working value at a time, and the rows of the sampler
(07_randomness_and_sampling.md). -/

namespace Sys2Proof.Machine

/-! ## Partials (R105) -/

/-- Partial `j` with one more addend; the first stands as it is. -/
def partAdd (l : List (Nat × Nat)) (j : Nat) (x : F32) : List (Nat × Nat) :=
  Keyed.set l j (match Keyed.get? l j with | some p => fAdd p x | none => x)

/-- `part_combine`. -/
def partCombine (l : List (Nat × Nat)) : F32 :=
  match l with
  | [] => 0
  | p :: r => r.foldl (fun s q => fAdd s q.2) p.2

/-! ## The exact accumulator (R106) -/

/-- `xacc_add`. The sum counts units of 2^-149. -/
def Xacc.add (a : Xacc) (v : F32) : Xacc :=
  let a := { a with used := true, allNegZero := a.allNegZero && decide (v = 0x80000000) }
  match xf v with
  | .nan => { a with nan := true }
  | .inf n => if n then { a with negInf := true } else { a with posInf := true }
  | .zero _ => a
  | .fin n m e _ =>
    let u : Int := (m * 2 ^ (e + 149).toNat : Nat)
    { a with sum := a.sum + (if n then -u else u) }

/-- `xacc_val`. -/
def Xacc.val (a : Xacc) : XVal :=
  if a.nan || (a.posInf && a.negInf) then .nan
  else if a.posInf then .inf false
  else if a.negInf then .inf true
  else if a.sum = 0 then .zero (a.used && a.allNegZero)
  else .fin (decide (a.sum < 0)) a.sum.natAbs (-149) false

/-! ## Extremes (R111) -/

/-- The extreme record after column `i`; `better a b` says that `a` replaces the record `b`. A NaN stays. -/
def Extreme.put (x : Extreme) (i : Nat) (v : F32) (better : F32 → F32 → Bool) : Extreme :=
  if !x.used then { used := true, value := if fIsNan v then f32NaN else v, col := i }
  else if fIsNan x.value then x
  else if fIsNan v then { used := true, value := f32NaN, col := i }
  else if better v x.value then { used := true, value := v, col := i }
  else x

def beatsMax (a b : F32) : Bool := fLtZ b a
def beatsMin (a b : F32) : Bool := fLtZ a b

/-- FUNC codes (Table 6.1). -/
def fnSUM : Nat := 0
def fnSUMSQ : Nat := 1
def fnMEANVAR : Nat := 2
def fnMIN : Nat := 3
def fnMAX : Nat := 4
def fnABSMAX : Nat := 5
def fnARGMAX : Nat := 6
def fnLSE : Nat := 7
def fnSOFTSTATS : Nat := 8

/-- Elements written per row. -/
def funcElems (f : Nat) : Nat := if f = 2 || f = 6 then 2 else if f = 8 then 3 else 1

/-- Columns that the exact accumulator takes (R106, R108). -/
def longCols : Nat := 2 ^ 24

/-! ## `row_stats` (R138) -/

/-- `ss_join`. -/
def ssJoin (a b : Sst) : Sst :=
  if !b.used then a
  else if !a.used then b
  else if fLt a.m b.m then
    let c := exp2d (fMul (fSub a.m b.m) f32Log2e)
    { used := true, s := fAdd (fMul a.s c) b.s, w := fAdd (fMul a.w c) b.w, m := b.m }
  else
    let c := exp2d (fMul (fSub b.m a.m) f32Log2e)
    { used := true, s := fAdd a.s (fMul b.s c), w := fAdd a.w (fMul b.w c), m := a.m }

/-- Partial `i mod 256` with one more candidate. -/
def ssPut (l : List (Nat × Sst)) (i : Nat) (z : F32) : List (Nat × Sst) :=
  Keyed.set l (i % 256) (ssJoin ((Keyed.get? l (i % 256)).getD {}) { used := true, m := z, s := f32One, w := z })

/-- The results of `row_stats`: lse, the greatest value, the entropy. -/
structure RowStats where
  lse : Nat := 0
  maxz : Nat := 0
  ent : Nat := 0
  deriving DecidableEq, Repr, Inhabited

def rowStats (l : List (Nat × Sst)) : RowStats :=
  let r := l.foldl (fun a p => ssJoin a p.2) {}
  let lse := fAdd r.m (fMul (log2t r.s) f32Ln2)
  { lse := lse, maxz := r.m, ent := fSub lse (fDiv r.w r.s) }

/-! ## One reduction over a row -/

/-- The state after column `i` (from 0) with working value `x`; `pass` is the LSE pass. -/
def RedSt.step (st : RedSt) (func : Nat) (exact : Bool) (pass i : Nat) (x : F32) : RedSt :=
  if func = fnSUM || func = fnSUMSQ then
    let q := if func = fnSUMSQ then fMul x x else x
    if exact then
      if i < longCols then { st with acc := st.acc.add q }
      else
        let st := if i = longCols then { st with s0 := toF32 st.acc.val } else st
        { st with parts := partAdd st.parts ((i - longCols) % 256) q }
    else { st with parts := partAdd st.parts (i % 256) q }
  else if func = fnMEANVAR then { st with wels := wfPut st.wels (i % 256) x }
  else if func = fnMIN then { st with ext := st.ext.put i x beatsMin }
  else if func = fnMAX || func = fnARGMAX then { st with ext := st.ext.put i x beatsMax }
  else if func = fnABSMAX then { st with ext := st.ext.put i (if fIsNan x then x else fAbs x) beatsMax }
  else if func = fnLSE then
    if pass = 0 then { st with ext := st.ext.put i x beatsMax }
    else
      let t := fMul (fSub x st.ext.value) f32Log2e
      { st with parts := partAdd st.parts (i % 256) (exp2d t) }
  else if fIsFin x then { st with ssts := ssPut st.ssts i x }
  else st

/-- LSE needs no second pass (R112, point 2): the row result is m. -/
def RedSt.lseDone (st : RedSt) : Bool := fIsNan st.ext.value || fIsInf st.ext.value

/-- The exact results of a finished row of `d` columns, and whether R108 applied. ARGMAX gives raw codes. -/
def RedSt.result (st : RedSt) (func : Nat) (exact : Bool) (d : Nat) : List XVal × Bool :=
  if func = fnSUM || func = fnSUMSQ then
    if exact then
      if d > longCols then ([xf (fAdd st.s0 (partCombine st.parts))], true) else ([st.acc.val], false)
    else ([xf (partCombine st.parts)], false)
  else if func = fnMEANVAR then
    let w := wfAll st.wels
    ([xf w.mean, xf (fDiv w.m2 (fOfNat w.n))], false)
  else if func = fnLSE then
    if st.lseDone then ([xf st.ext.value], false)
    else ([xf (fAdd st.ext.value (fMul (log2t (partCombine st.parts)) f32Ln2))], false)
  else if func = fnSOFTSTATS then
    if st.ssts.isEmpty then ([.nan, .nan, .nan], false)
    else
    let r := rowStats st.ssts
    ([xf r.lse, xf r.maxz, xf r.ent], false)
  else ([xf st.ext.value], false)

/-! ## A sampler row (R135 to R139) -/

/-- A row record (Table 7.8). -/
structure RowRec where
  scores : Nat := 0
  len : Nat := 0
  temp : Nat := 0
  stream : Nat := 0
  step : Nat := 0
  topk : Nat := 0
  ban : Bool := false
  banoff : Nat := 0
  rsv : Bool := false
  deriving DecidableEq, Repr, Inhabited

def RowRec.ofNat (v : Nat) : RowRec :=
  { scores := bits v 39 0, len := bits v 84 64, temp := bits v 127 96, stream := bits v 159 128, step := bits v 191 160
    topk := bits v 200 192, ban := bitAt v 208, banoff := bits v 255 224
    rsv := bits v 63 40 != 0 || bits v 95 85 != 0 || bits v 207 201 != 0 || bits v 223 209 != 0 }

/-- The conditions of R135 that mark a row BADROW; `sw` and `bw` are the sizes of the score and ban windows in bytes,
`w` the score width in bytes. -/
def RowRec.bad (r : RowRec) (w sw bw : Nat) : Bool :=
  r.rsv || r.scores % w != 0 || r.len == 0 || decide (r.len > 1048576) || decide (r.topk > 256) ||
  !(fIsFin r.temp && !fIsZero r.temp && !(xf r.temp).sign) || decide (r.stream ≥ 0xFFFFFF00) ||
  decide (r.scores + r.len * w > sw) || (r.ban && decide (64 * r.banoff + ceilDiv r.len 8 > bw))

/-- `a` ranks above `b` in top-k (R136). -/
def KEntry.above (a b : KEntry) : Bool := fLt b.z a.z || (!fLt a.z b.z && decide (a.col < b.col))

/-- A kept list, in descending rank, with one more candidate, cut to `k`. -/
def keepTop (k : Nat) (e : KEntry) : List KEntry → List KEntry
  | [] => if k = 0 then [] else [e]
  | x :: r => if k = 0 then [] else if e.above x then (e :: x :: r).take k else x :: keepTop (k - 1) e r

/-- A row after column `i`, whose score is exactly `x` in FP32 and whose ban bit is `banned` (R136, R137). -/
def RowSt.step (st : RowSt) (rr : RowRec) (seed i : Nat) (x : F32) (banned : Bool) : RowSt :=
  let st := { st with col := i + 1 }
  if banned then st
  else
    let z := fDiv x rr.temp
    if fIsNan z || z = f32Inf then { st with nonfin := true }
    else if fIsInf z then st
    else
      let s := fAdd z (gumbel ((mix seed rr.stream (i / 4) rr.step).word (i % 4)))
      if rr.topk = 0 then
        let st := { st with parts := ssPut st.parts i z }
        if !st.any || fLt st.best s then { st with any := true, best := s, bestCol := i, bestZ := z } else st
      else { st with any := true, kept := keepTop rr.topk { col := i, z := z, s := s } st.kept }

/-- The token of a finished row with its tempered score, and the partials over the kept candidates. -/
def RowSt.choose (st : RowSt) (topk : Nat) : Nat × F32 × List (Nat × Sst) :=
  if topk = 0 then (st.bestCol, st.bestZ, st.parts)
  else
    let byCol := st.kept.foldl (fun l e => Keyed.set l e.col (e.z, e.s)) ([] : List (Nat × (F32 × F32)))
    let best := byCol.foldl (fun (b : Option (Nat × F32 × F32)) e =>
      match b with
      | none => some e
      | some p => if fLt p.2.2 e.2.2 then some e else b) none
    let parts := byCol.foldl (fun l e => ssPut l e.1 e.2.1) []
    match best with
    | some (c, z, _) => (c, z, parts)
    | none => (0, 0, [])

/-- The 16-byte result record of a row (R139, Table 7.9), and whether it holds a NaN. -/
def RowSt.record16 (st : RowSt) (rr : RowRec) (bad : Bool) : Nat × Bool :=
  if bad || !st.any then
    (0xFFFFF + (if bad then 2 ^ 26 else 2 ^ 25) + (if st.nonfin then 2 ^ 24 else 0) +
      f32NaN * 2 ^ 32 + f32NaN * 2 ^ 64 + f32NaN * 2 ^ 96, true)
  else
    let (c, z, parts) := st.choose rr.topk
    let r := rowStats parts
    let logp := fSub z r.lse
    (place c 20 0 + (if st.nonfin then 2 ^ 24 else 0) + logp * 2 ^ 32 + r.maxz * 2 ^ 64 + r.ent * 2 ^ 96,
      fIsNan logp || fIsNan r.maxz || fIsNan r.ent)

end Sys2Proof.Machine
end

