-- ==== Sys2Proof/Machine/Stream.lean ====
section
/-! DEFINITION. What one strip of each streaming opcode does: CONVERT, QUANTISE, DEQUANTISE, ROTATE, FOLD, REDUCE, STATS,
SAMPLE and FILL_RANDOM. A strip reads its sources as they were before the command wrote over them, then writes (R13, R14). -/

namespace Sys2Proof.Machine

/-- The parts of the state that a strip works on: memory, memory as its sources are read (`rd`), the descriptor, the
context's live tiles; `ins` and `outs` collect the elements read and written, as (width, number) (R315). -/
structure Strip where
  mem : Mem := []
  rd : Mem := []
  d : Desc := {}
  live : List (Nat × Byte) := []
  ins : List (Nat × Nat) := []
  outs : List (Nat × Nat) := []
  deriving DecidableEq, Repr, Inhabited

/-- The device address of a window offset. -/
def State.addrOf (s : State) (w off : Nat) : Nat := (s.win w).addr + off

namespace Desc

/-- The header's source and destination operands. -/
def src (d : Desc) (s : State) : Tensor := { base := s.addrOf d.swin d.soff, f := d.sfmt, n := d.count }
def dst (d : Desc) (s : State) : Tensor := { base := s.addrOf d.dwin d.doff, f := d.dfmt, n := d.count }
/-- The stochastic byte of position index `i` at a draw index; none is drawn under RNE. -/
def rbyte (d : Desc) (draw i : Nat) : Nat := if d.round then srByte d.seed d.stream draw (d.posbase + i) else 0
/-- The residual operand of QUANTISE (R72, R180). -/
def resWin (d : Desc) : Nat := bits (d.p 0) 63 52
def resOff (d : Desc) : Nat := bits (d.p 0) 39 0
def resFmt (d : Desc) : FmtW := { elem := if bitAt d.sub 0 then 0x0B else 0x01 }
def resT (d : Desc) (s : State) : Tensor := { base := s.addrOf d.resWin d.resOff, f := d.resFmt, n := d.count }
/-- FUNC of REDUCE, k of ROTATE, MODE of FILL_RANDOM, KIND of COLLECTIVE. -/
def func (d : Desc) : Nat := bits d.sub 3 0
/-- Row length of the source of REDUCE (R102). -/
def redD (d : Desc) : Nat := d.sfmt.d d.count
/-- Rows of REDUCE; none over zero elements (R365). -/
def redRows (d : Desc) : Nat := if d.count = 0 then 0 else d.count / d.redD
/-- Destination of REDUCE. -/
def redDst (d : Desc) (s : State) : Tensor :=
  { base := s.addrOf d.dwin d.doff, f := d.dfmt, n := d.redRows * funcElems d.func }

end Desc

/-- Elements written in ascending index from `i` (R28). -/
def writeElems (m : Mem) (t : Tensor) : Nat → List Nat → Mem
  | _, [] => m
  | i, c :: r => writeElems (t.wrElem m i c) t (i + 1) r

/-- Unpacked output elements `lo`, `lo + 1`, …: written, with events and watch. -/
def emitElems (st : Strip) (t : Tensor) (lo : Nat) (l : List (Nat × Ev)) : Strip :=
  let d := (List.range l.length).foldl (fun d k =>
    let p := nth l k (0, Ev.none)
    d.emit t.f.fmt (lo + k) p.1 p.2) st.d
  { st with mem := writeElems st.mem t lo (l.map (·.1)), d := d, outs := st.outs ++ [(t.w, l.length)] }

/-! ## CONVERT, ROTATE, DEQUANTISE, FILL_RANDOM -/

/-- A strip of CONVERT: elements `lo` to `hi - 1` (R53). -/
def stripConvert (s : State) (st : Strip) (lo hi : Nat) : Strip :=
  let d := st.d
  let ts := d.src s
  let td := d.dst s
  let out := (range2 lo hi).map (fun i => convert (ts.value st.rd i) td.f.fmt false d.infnan d.mode (d.rbyte 0 i))
  emitElems { st with ins := st.ins ++ [(ts.w, hi - lo)] } td lo out

/-- A strip of ROTATE (R71, R177): whole blocks of 2^k columns. -/
def stripRotate (s : State) (st : Strip) (lo hi : Nat) : Strip :=
  let d := st.d
  let ts := d.src s
  let td := d.dst s
  let v := (range2 lo hi).map (fun i => toF32 (ts.value st.rd i))
  let r := rotateRun d.seed d.func (d.posbase + lo) d.opf v.length v
  let out := (List.range r.length).map (fun k =>
    convert (xf (nth r k 0)) td.f.fmt false d.infnan d.mode (d.rbyte 0 (lo + k)))
  emitElems { st with ins := st.ins ++ [(ts.w, hi - lo)] } td lo out

/-- The values of elements `i` to `hi - 1` of a packed tensor under R82, row by row. -/
def dequantSpan (m : Mem) (t : Tensor) (seed posbase hi : Nat) : Nat → Nat → List XVal
  | 0, _ => []
  | fuel + 1, i =>
    if hi ≤ i then []
    else
      let e := min hi (i - i % t.d + t.d)
      dequantRun m t seed (posbase + i) i e ++ dequantSpan m t seed posbase hi fuel e

/-- A strip of DEQUANTISE (R82). -/
def stripDequantise (s : State) (st : Strip) (lo hi : Nat) : Strip :=
  let d := st.d
  let ts := d.src s
  let td := d.dst s
  let v := dequantSpan st.rd ts d.seed d.posbase hi (hi - lo) lo
  let out := (List.range v.length).map (fun k =>
    convert (nth v k .nan) td.f.fmt false d.infnan d.mode (d.rbyte 0 (lo + k)))
  emitElems { st with ins := st.ins ++ [(ts.w, hi - lo)] } td lo out

/-- The code of FILL_RANDOM at index `i` (R130, R131). In BITS mode the bit position POSBASE·w + k is taken modulo 2^64
before its call position and its bit are read from it (DEDUCED, log 90). -/
def fillCode (d : Desc) (f : Fmt) (i : Nat) : Nat × Ev :=
  let p := pos64 (d.posbase + i)
  let a := bits d.sfmtW 31 0
  let b := bits d.sfmtW 63 32
  let conv (v : F32) := convert (xf v) f false d.infnan d.mode (d.rbyte 1 i)
  let word := (mix d.seed d.stream (p / 4) 0).word (p % 4)
  if d.func = 0 then
    ((List.range f.w).foldl (fun acc j =>
      let q := pos64 (d.posbase * f.w + i * f.w + j)
      acc + bit ((mix d.seed d.stream (q / 128) 0).bitv (q % 128)) * 2 ^ j) 0, .none)
  else if d.func = 1 then conv (fAdd a (fMul b (uniform word)))
  else if d.func = 2 then
    conv (if (mix d.seed d.stream (p / 8) 0).half (p % 8) < bits d.soff 15 0 then a else 0)
  else conv (fAdd a (fMul b (gauss word)))

/-- A strip of FILL_RANDOM. -/
def stripFill (s : State) (st : Strip) (lo hi : Nat) : Strip :=
  let td := st.d.dst s
  emitElems st td lo ((range2 lo hi).map (fun i => fillCode st.d td.f.fmt i))

/-! ## QUANTISE -/

/-- The part of one row, or of a run within it, from column group to column group: elements `lo` to `hi - 1` (R68). Its
residuals are held until their chunk is written (R81). -/
def quantSegment (s : State) (st : Strip) (lo hi : Nat) : Strip :=
  let d := st.d
  let ts := d.src s
  let td := d.dst s
  let tr := d.resT s
  let n := hi - lo
  let idx := range2 lo hi
  let a := idx.map (fun i => toF32 (ts.value st.rd i))
  let a := rotateIf td.f d.seed (d.posbase + lo) false a
  let u := if d.pb then (List.range n).map (fun k => toF32 ((xf (nth a k 0)).add (tr.value st.rd (lo + k)))) else a
  let rs := td.rowScale st.rd (td.row lo)
  let w := if td.f.rowsc then u.map (fun v => fDiv v rs) else u
  let outs := quantRun td.f d.opf d.infnan d.mode (fun k => d.rbyte 0 (lo + k)) n 0 w
  let evs := (outs.map (·.evs)).flatten
  let vals := ((outs.map (·.vals)).flatten).map (fun v => if td.f.rowsc then v.mul (xf rs) else v)
  let d1 := (List.range n).foldl (fun d k => d.note (lo + k) (nth evs k .none)) d
  let c := d.watchCfg
  let wt := if c.active then
      let w1 := (List.range n).foldl (fun w k => w.elem c (lo + k) (workVal (nth vals k .nan))) d1.watch
      outs.foldl (fun w o => w.ashlar c td o.codes o.scale o.quoins) w1
    else d1.watch
  let held := if d.pb then
      (List.range n).map (fun k =>
        let uv := xf (nth u k 0)
        let dv := nth vals k .nan
        (lo + k, if uv.isFinite && dv.isFinite then (convert (uv.add dv.neg) tr.f.fmt false false .rne 0).1 else 0))
    else []
  { st with mem := writeRun st.mem td (td.ashlar lo) outs, d := { d1 with watch := wt, held := d1.held ++ held }
            ins := st.ins ++ [(ts.w, n)] ++ (if d.pb then [(tr.w, n)] else [])
            outs := st.outs ++ [(td.w, n)] ++ (if d.pb then [(tr.w, n)] else []) }

/-- The residuals held for some elements are written (R81). -/
def Desc.writeHeld (s : State) (d : Desc) (m : Mem) (out : Nat → Bool) : Mem × Desc :=
  let go := d.held.filter (fun p => out p.1)
  (go.foldl (fun m p => (d.resT s).wrElem m p.1 p.2) m, { d with held := d.held.filter (fun p => !out p.1) })

/-- The segments of a strip, row by row. -/
def stripQuantise (s : State) (hi : Nat) : Nat → Strip → Nat → Strip
  | 0, st, _ => st
  | fuel + 1, st, lo =>
    if hi ≤ lo then st
    else
      let td := st.d.dst s
      let e := min hi (lo - lo % td.d + td.d)
      stripQuantise s hi fuel (quantSegment s st lo e) e

/-! ## REDUCE and STATS -/

/-- The results of a finished row go to the destination (R103, R114). -/
def reduceWrite (s : State) (st : Strip) (row : Nat) (rst : RedSt) : Strip :=
  let d := st.d
  let td := d.redDst s
  let k := funcElems d.func
  let (rs, long) := rst.result d.func d.opf d.redD
  let out : List (Nat × Ev) :=
    if d.func = fnARGMAX then [(rst.ext.col % 2 ^ 32, .none), (rst.ext.col / 2 ^ 32, .none)]
    else (List.range rs.length).map (fun j =>
      convert (nth rs j .nan) td.f.fmt false d.infnan d.mode (d.rbyte 0 (k * row + j)))
  let st := emitElems st td (k * row) out
  { st with d := { st.d with longsum := st.d.longsum || long } }

/-- One source element of REDUCE; the cursor returns to the row's start for the second LSE pass (R112). -/
def reduceElem (s : State) (st : Strip) : Strip :=
  let d := st.d
  let i := d.cursor
  if d.count ≤ i then st
  else
    let col := i % d.redD
    let row := i / d.redD
    let x := workVal ((d.src s).value st.rd i)
    let r0 : RedSt := if col = 0 && d.pass = 0 then {} else nth d.reds 0 {}
    let r1 := r0.step d.func d.opf d.pass col x
    if col + 1 < d.redD then { st with d := { d with cursor := i + 1, reds := [r1] } }
    else if d.func = fnLSE && d.pass = 0 && !r1.lseDone then
      { st with d := { d with cursor := row * d.redD, pass := 1, reds := [r1] } }
    else reduceWrite s { st with d := { d with cursor := i + 1, pass := 0, reds := [] } } row r1

/-- A strip of REDUCE: `n` source elements; `note` notes the states where another chunk begins. -/
def stripReduce (s : State) (note : Strip → Strip) (st : Strip) (n : Nat) : Strip :=
  forN n { st with ins := st.ins ++ [((st.d.src s).w, min n (st.d.count - st.d.cursor))] } (fun st _ => reduceElem s (note st))

/-- The bytes of element `i` of a source in the order of R122: element bits, with the scale, mortar and quoin bytes at the
start of an ashlar and the pads at the end of a row. -/
def watchStored (w : WatchSt) (c : WatchCfg) (m : Mem) (t : Tensor) (i : Nat) : WatchSt :=
  if t.f.b = 0 then w.bitsIn c (t.code m i) t.w
  else
    let g := t.ashlar i
    let w := if t.pos i = 0 then
        let w := if t.f.bound then w.bitsIn c (t.scaleCode m g) 8 else w.mortarIn c 1 (t.scaleCode m g)
        (List.range t.f.quoins).foldl (fun w k => w.quoinIn c (t.quoinEntry m g k)) w
      else w
    let w := w.bitsIn c (t.code m i) t.w
    if t.col i + 1 = t.d then
      (range2 (t.pos i + 1) t.f.b).foldl (fun w p => w.bitsIn c (m.rdBits t.base (t.ashOff g * 8 + p * t.w) t.w) t.w) w
    else w

/-- A strip of STATS (R117). -/
def stripStats (s : State) (st : Strip) (lo hi : Nat) : Strip :=
  let d := st.d
  let t := d.src s
  let c := d.statsCfg
  let w := (range2 lo hi).foldl (fun w i => watchStored (w.elem c i (workVal (t.value st.rd i))) c st.rd t i) d.watch
  { st with d := { d with watch := w }, ins := st.ins ++ [(t.w, hi - lo)] }

/-! ## SAMPLE -/

namespace Desc

/-- Row-table window, ban window and row-table offset (Table 9.4). -/
def rowWin (d : Desc) : Nat := bits d.dfmtW 63 52
def banWin (d : Desc) : Nat := bits d.dfmtW 51 40
def rowOff (d : Desc) : Nat := bits d.dfmtW 39 0

end Desc

/-- The row record of row `r`. -/
def rowRec (s : State) (m : Mem) (d : Desc) (r : Nat) : RowRec :=
  RowRec.ofNat (Mem.rd m (s.addrOf d.rowWin (d.rowOff + 32 * r)) 32)

/-- The record marks its row BADROW (R135). -/
def rowBad (s : State) (d : Desc) (rr : RowRec) : Bool :=
  rr.bad (d.sfmt.fmt.w / 8) (s.win d.swin).bytes (s.win d.banWin).bytes

/-- A row's result record is written and the row leaves its slot (R139, R140). -/
def finishRow (s : State) (st : Strip) (row : RowSt) (rr : RowRec) (bad : Bool) : Strip :=
  let d := st.d
  let (v, nan) := row.record16 rr bad
  let d := d.note row.row { nf := nan }
  let c := d.watchCfg
  let w := if c.active then (leBytes 16 v).foldl (fun w b => w.recByte c b) d.watch else d.watch
  { st with mem := Mem.wr st.mem (s.addrOf d.dwin (d.doff + 16 * row.row)) 16 v, d := { d with watch := w, rows := d.rows.drop 1 } }

/-- Scores `col` to `hi - 1` of the row in the slot are scanned (R136, R137). -/
def scanRow (s : State) (st : Strip) (row : RowSt) (rr : RowRec) (hi : Nat) : RowSt :=
  let d := st.d
  let t : Tensor := { base := s.addrOf d.swin rr.scores, f := { elem := d.sfmt.elem }, n := rr.len }
  (range2 row.col hi).foldl (fun r i =>
    let banned := rr.ban &&
      bitAt (Mem.byteAt st.rd (s.addrOf d.banWin (64 * rr.banoff + i / 8))).toNat (i % 8)
    r.step rr d.seed i (toF32 (t.value st.rd i)) banned) row

/-- The column at which the scores of a row enter another chunk of the score window, after column `col`. -/
def nextChunkCol (s : State) (d : Desc) (rr : RowRec) (col : Nat) : Nat :=
  let n := max 1 (d.sfmt.fmt.w / 8)
  let cb := (s.win d.swin).chunkBytes
  (((rr.scores + col * n) / cb + 1) * cb - rr.scores) / n

/-- Scores of a row up to column `hi` are scanned, chunk by chunk of the score window. -/
def scanTo (s : State) (note : Strip → RowSt → Strip) (rr : RowRec) (hi : Nat) : Nat → Strip → RowSt → Strip × RowSt
  | 0, st, row => (st, row)
  | fuel + 1, st, row =>
    if hi ≤ row.col then (st, row)
    else
      let st := note st row
      let row' := scanRow s st row rr (min hi (max (row.col + 1) (nextChunkCol s st.d rr row.col)))
      scanTo s note rr hi fuel { st with d := { st.d with rows := row' :: st.d.rows.drop 1 } } row'

/-- A strip of SAMPLE: up to `n` scores of the row in the slot, or of the next row, which enters it (R141). The row's record is
read again, and checked again, at every strip (DEDUCED, log 87). -/
def stripSample (s : State) (note : Strip → RowSt → Strip) (st : Strip) (n : Nat) : Strip :=
  let d := st.d
  let (row, d) := match d.rows with
    | r :: _ => (r, d)
    | [] => ({ row := d.cursor : RowSt }, { d with cursor := d.cursor + 1 })
  let rr := rowRec s st.rd d row.row
  if rowBad s d rr then finishRow s { st with d := d } row rr true
  else
    let hi := min rr.len (row.col + n)
    let (st, row') := scanTo s note rr hi n { st with d := { d with rows := row :: d.rows.drop 1 } } row
    let st := { st with ins := st.ins ++ [(d.sfmt.fmt.w, hi - row.col)] }
    if hi < rr.len then st else finishRow s st row' rr false

/-! ## FOLD -/

namespace Desc

/-- Operands A and B, the destination and E of a FOLD or DRAIN (R85, R369). -/
def foldA (d : Desc) (s : State) : Tensor := { base := s.addrOf d.swin d.soff, f := d.sfmt, n := d.arows * d.fk }
def foldB (d : Desc) (s : State) : Tensor := { base := s.addrOf d.bwin d.boff, f := d.bfmt, n := d.brows * d.fk }
def foldD (d : Desc) (s : State) : Tensor :=
  { base := s.addrOf d.dwin d.doff, f := d.dfmt, n := (d.drow0 + d.fm) * d.dfmt.rowlen }
def foldE (d : Desc) (s : State) : Tensor :=
  { base := s.addrOf d.ewin d.eoff, f := d.efmt, n := (d.drow0 + d.fm) * d.dfmt.rowlen }
/-- The output stage of a FOLD or DRAIN. -/
def foldOut (d : Desc) (s : State) : OutStage :=
  { bf16 := d.facc, tile := d.ftile, m := d.fm, n := d.fn, dst := d.foldD s, row0 := d.drow0, col0 := d.dcol0
    fuse := d.fuse, e := d.foldE s, infnan := d.infnan, mode := d.mode, seed := d.seed, stream := d.stream
    posbase := d.posbase }

end Desc

/-- Bits of the wider operand of a FOLD, a pair by its half (Table 5.7). -/
def Desc.foldWide (d : Desc) : Nat :=
  let w (f : FmtW) : Nat := if f.isPair then f.fmt.w / 2 else f.fmt.w
  max (w d.sfmt) (w d.bfmt)

/-- The steps that every position takes in one request of a FOLD (R101, Table 5.7) on an engine of `lanes` lanes; a figure
below 1 is one step in several fclk. -/
def Desc.foldSteps (d : Desc) (lanes : Nat) : Nat :=
  let k := if d.foldWide ≤ 8 then (if d.facc then 8 else 4) else 1
  max 1 (if lanes = 1024 then k else k / 2)

/-- A strip of FOLD: steps `lo` to `hi - 1` of the pass for every position (R90). Each element of A and B is read once,
whatever the number of passes (R101). After the last step of the last pass it asks for the drain, or presents its
accumulators (R92). -/
def stripFold (s : State) (st : Strip) (lo hi : Nat) : Strip :=
  let d := st.d
  let live := if d.finit && d.pass = 0 && lo = 0 then tileInit st.live d.facc d.ftile d.fm d.fn else st.live
  let (d, live) := (range2 lo hi).foldl (fun p k => foldStep st.rd (d.foldA s) (d.foldB s) k p) (d, live)
  let st := if d.pass = 0 then
      { st with ins := st.ins ++ [(d.sfmt.fmt.w, d.fm * (hi - lo)), (d.bfmt.fmt.w, d.fn * (hi - lo))] }
    else st
  if hi < d.fk then { st with d := { d with cursor := hi }, live := live }
  else if d.pass + 1 < d.passes then { st with d := { d with cursor := 0, pass := d.pass + 1 }, live := live }
  else if d.fout then
    { st with d := { d with cursor := hi, drains := [{ bf16 := d.facc, tile := d.ftile, m := d.fm, n := d.fn, out := true }] }
              live := live }
  else { st with d := { foldObserve { d with cursor := hi } live with finished := true }, live := live }

end Sys2Proof.Machine
end

