-- ==== Sys2Proof/Machine/Recipe.lean ====
section
/-! DEFINITION. The recipe instruction set (10_recipe_instruction_set.md): the prologue and its slots, the checks of R212,
and the run of the body over one strip. -/

namespace Sys2Proof.Machine

/-! ## Words -/

def rOp (w : Nat) : Nat := bits w 63 56
def rVD (w : Nat) : Nat := bits w 55 51
def rVA (w : Nat) : Nat := bits w 50 46
def rVB (w : Nat) : Nat := bits w 45 41
def rVC (w : Nat) : Nat := bits w 40 36

def riHEAD : Nat := 0x01
def riOPND : Nat := 0x02
def riLOOP : Nat := 0x04
def riLDS : Nat := 0x10
def riSTS : Nat := 0x11
def riIMM : Nat := 0x18
def riADD : Nat := 0x20
def riMUL : Nat := 0x21
def riFMA : Nat := 0x22
def riCMP : Nat := 0x23
def riSEL : Nat := 0x24
def riDIV : Nat := 0x25
def riCVT : Nat := 0x28
def riSCL : Nat := 0x30
def riQNT : Nat := 0x31
def riDQN : Nat := 0x32
def riROT : Nat := 0x33
def riMAC : Nat := 0x38
def riRED : Nat := 0x39
def riRNG : Nat := 0x3A
def riWATCH : Nat := 0x3B

/-- Slot field [35:33] of LDS, STS, QNT, DQN and RED; OSLOT of MAC. -/
def rSlot (w : Nat) : Nat := if rOp w = riMAC then bits w 17 15 else bits w 35 33
/-- T of LDS and of STS. -/
def rTile? (w : Nat) : Bool := (rOp w == riLDS && bitAt w 30) || (rOp w == riSTS && bitAt w 22)
/-- TILE and ACC of LDS, STS and MAC. -/
def rTile (w : Nat) : Nat := if rOp w = riLDS then bits w 17 9 else if rOp w = riSTS then bits w 21 13 else bits w 35 27
def rAcc (w : Nat) : Bool := if rOp w = riLDS then bitAt w 8 else if rOp w = riSTS then bitAt w 12 else bitAt w 26
/-- DRN of MAC. -/
def rDrn (w : Nat) : Bool := bitAt w 18

/-- Classes of R196. -/
def isElemIns (o : Nat) : Bool :=
  [0x10, 0x11, 0x18, 0x20, 0x21, 0x22, 0x23, 0x24, 0x25, 0x28, 0x32, 0x3A].contains o
def isGroupIns (o : Nat) : Bool := [0x30, 0x31, 0x33].contains o
def isRowIns (o : Nat) : Bool := [0x38, 0x39, 0x3B].contains o

/-- Bits `hi` to `lo` set. -/
def mask (hi lo : Nat) : Nat := 2 ^ (hi + 1) - 2 ^ lo

/-- The bits of a body word that are not reserved (R198, Tables 10.3 and 10.4). -/
def insMask (w : Nat) : Nat :=
  let o := rOp w
  let vd := mask 55 51
  let va := mask 50 46
  let vb := mask 45 41
  let vc := mask 40 36
  let op := mask 63 56
  if o = riLDS then op + vd + (if bitAt w 30 then 2 ^ 30 + 2 ^ 28 + mask 17 8 else mask 35 8)
  else if o = riSTS then op + va + (if bitAt w 22 then mask 22 12 else mask 35 12)
  else if o = riIMM then op + vd + mask 31 0
  else if o = riADD || o = riMUL || o = riDIV then op + vd + va + vb + mask 35 30
  else if o = riFMA || o = riSEL then op + vd + va + vb + vc + mask 35 30
  else if o = riCMP then op + vd + va + vb + mask 35 27
  else if o = riCVT then op + vd + va + mask 35 19
  else if o = riSCL then op + vd + va + mask 35 25
  else if o = riQNT then op + vd + va + mask 35 20
  else if o = riDQN then op + vd + mask 35 30
  else if o = riROT then op + vd + va + mask 35 31
  else if o = riMAC then op + va + vb + (if rDrn w then mask 35 5 else mask 35 18)
  else if o = riRED then op + va + mask 35 18
  else if o = riRNG then op + vd + mask 35 8
  else if o = riWATCH then op + va + mask 35 30
  else mask 63 0

/-! ## Prologue and slots (R190 to R193) -/

/-- A bound slot. -/
structure Slot where
  num : Nat := 0
  dest : Bool := false
  win : Nat := 0
  off : Nat := 0
  fmt : FmtW := {}
  deriving DecidableEq, Repr, Inhabited

namespace Desc

def headLen (d : Desc) : Nat := bits (d.p 0) 32 24
def use0 (d : Desc) : Bool := bitAt (d.p 0) 39
def use1 (d : Desc) : Bool := bitAt (d.p 0) 38
/-- The words of the recipe. -/
def recipeWords (d : Desc) : List Nat := d.par.take d.headLen
/-- D of R192. -/
def rD (d : Desc) : Nat := if bits (d.p 0) 23 0 = 0 then d.count else bits (d.p 0) 23 0
/-- Rows of the index space. -/
def rRows (d : Desc) : Nat := if d.count = 0 then 0 else d.count / d.rD

end Desc

/-- The bindings at the head of a word list, and the words after them; none when an OPND has no format word. -/
def bindings : List Nat → Option (List Slot × List Nat)
  | [] => some ([], [])
  | w :: r =>
    if rOp w = riOPND then
      match r with
      | [] => none
      | f :: r' =>
        match bindings r' with
        | none => none
        | some (l, b) =>
          some ({ num := bits w 55 53, dest := bitAt w 52, win := bits w 51 40, off := bits w 39 0, fmt := FmtW.ofNat f } :: l, b)
    else some ([], w :: r)

/-- The slots and the body of a recipe. -/
def Desc.recipeParse (d : Desc) : Option (List Slot × List Nat) :=
  match bindings (d.recipeWords.drop 1) with
  | none => none
  | some (l, b) =>
    some ((if d.use0 then [{ num := 0, win := d.swin, off := d.soff, fmt := d.sfmt }] else []) ++
      (if d.use1 then [{ num := 1, dest := true, win := d.dwin, off := d.doff, fmt := d.dfmt }] else []) ++ l, b)

def Desc.slots (d : Desc) : List Slot := (d.recipeParse.map (·.1)).getD []
def Desc.body (d : Desc) : List Nat := (d.recipeParse.map (·.2)).getD []

/-- A slot by number. -/
def slotOf (l : List Slot) (n : Nat) : Option Slot := l.find? (·.num == n)

/-- The words of a body with the LOOP that holds each (its N and STRIDE), LOOP words left out. `left` counts the words
of the present loop. -/
def unrollInfo : Nat → Nat × Nat → List Nat → List (Nat × Option (Nat × Nat))
  | _, _, [] => []
  | left, lp, w :: r =>
    if left > 0 then (w, some lp) :: unrollInfo (left - 1) lp r
    else if rOp w = riLOOP then unrollInfo (bits w 43 36) (bits w 55 44, bits w 35 0) r
    else (w, none) :: unrollInfo 0 lp r

/-- The instructions of a recipe, each with its loop. -/
def Desc.ins (d : Desc) : List (Nat × Option (Nat × Nat)) := unrollInfo 0 (0, 0) d.body

/-- An instruction reads a source slot, or writes a destination slot. -/
def readsSlot (w : Nat) : Bool := (rOp w == riLDS && !rTile? w) || rOp w == riDQN
def writesSlot (w : Nat) : Bool :=
  (rOp w == riSTS && !rTile? w) || rOp w == riQNT || rOp w == riRED || (rOp w == riMAC && rDrn w)

/-- LOOP rules (R197): element instructions only, no nesting, a body that ends within the recipe. -/
def loopsOk : Nat → List Nat → Bool
  | left, [] => left == 0
  | left, w :: r =>
    if left > 0 then isElemIns (rOp w) && loopsOk (left - 1) r
    else if rOp w = riLOOP then bits w 55 44 != 0 && bits w 43 36 != 0 && loopsOk (bits w 43 36) r
    else loopsOk 0 r

/-- Conditions on one body word that end with BAD_DESCRIPTOR at order 1: a DIV of LDS outside its range, and an STS to a tile
over more than 1,024 elements, among them (DEDUCED, logs 93 and 94). -/
def insOk (s : State) (d : Desc) (slots : Nat) (w : Nat) : Bool :=
  let o := rOp w
  let sl := slotOf d.slots (rSlot w)
  (isElemIns o || isGroupIns o || isRowIns o) && (w &&& insMask w) == w &&
  (!readsSlot w || (match sl with | some x => !x.dest | none => false)) &&
  (!writesSlot w || (match sl with | some x => x.dest | none => false)) &&
  (!(rTile? w || o == riMAC) || tileOk (rAcc w) (rTile w) slots) &&
  (o != riLDS || rTile? w || ((if bits w 32 31 = 1 then bits w 27 18 != 0 else bits w 27 18 == 0) &&
    ((bits w 32 31 == 0 && !bitAt w 29) || (match sl with | some x => !(s.win x.win).flagged | none => false)))) &&
  (o != riSTS || !rTile? w || d.count ≤ 1024) &&
  (o != riCMP || bits w 29 27 != 7) && (o != riDQN || bits w 32 31 != 3) && (o != riRNG || bits w 35 33 < 4) &&
  (o != riRNG || !bitAt w 32 || (d.count == 0 || d.stream + d.rRows - 1 < 0xFFFFFF00)) &&
  (o != riROT || (4 ≤ bits w 35 32 && bits w 35 32 ≤ 8)) &&
  (o != riRED || (bits w 32 29 ≤ 8 && bits w 32 29 != 7 && (!bitAt w 28 || bits w 32 29 ≤ 1))) &&
  (o != riMAC || (1 ≤ bits w 25 20 && bits w 25 20 ≤ 32 && d.rRows % bits w 25 20 == 0 &&
    d.rRows / bits w 25 20 ≤ 32 &&
    (!rDrn w || (match sl with | some x => bits w 25 20 ≤ x.fmt.rowlen | none => false))))

/-- A tile that an MAC or STS names is named by no other instruction (R210). -/
def tilesOk (l : List Nat) : Bool :=
  let t := l.filter (fun w => rTile? w || rOp w == riMAC)
  (List.range t.length).all (fun i =>
    let a := nth t i 0
    (rOp a == riLDS) ||
    (List.range t.length).all (fun j => i == j || !tilesMeet (rAcc a) (rTile a) (rAcc (nth t j 0)) (rTile (nth t j 0))))

/-- The faults of a RECIPE at order 1 of Table 9.8 (R212), header fields apart. -/
def recipeOk1 (s : State) (d : Desc) (slots : Nat) : Bool :=
  rOp (d.p 0) == riHEAD && bits (d.p 0) 37 33 == 0 && 2 ≤ d.headLen && d.headLen ≤ 256 &&
  d.param + ceilDiv d.headLen 8 - 1 ≤ 4095 &&
  (match d.recipeParse with
    | none => false
    | some (sl, body) =>
      let own := sl.filter (fun x => 2 ≤ x.num)
      let bound := bindings (d.recipeWords.drop 1)
      (match bound with | some (b, _) => b.all (fun x => 2 ≤ x.num) | none => false) &&
      (own.map (·.num)).eraseDups.length == own.length &&
      loopsOk 0 body &&
      d.ins.all (fun p => insOk s d slots p.1) &&
      sl.all (fun x => !x.dest || (d.ins.filter (fun p => writesSlot p.1 && rSlot p.1 == x.num)).length == 1) &&
      (d.ins.filter (fun p => rOp p.1 == riRED)).length ≤ 4 && (d.ins.filter (fun p => rOp p.1 == riMAC)).length ≤ 4 &&
      (d.ins.filter (fun p => rOp p.1 == riWATCH)).length ≤ 1 && tilesOk (d.ins.map (·.1)))

/-- The element count of the operand as one use of its slot fixes it (R193): COUNT where the use is linear, the results of
a RED, one value for each row or each column; none where the use names whole rows (LDS in MODE 1, MAC) or goes
beyond by J. -/
def useCount (d : Desc) (w : Nat) : Option Nat :=
  let o := rOp w
  if o = riRED then some (d.rRows * funcElems (bits w 32 29))
  else if o = riMAC then none
  else if o = riLDS then
    if bitAt w 29 then none
    else match bits w 32 31 with
      | 0 => some d.count
      | 1 => none
      | 2 => some d.rRows
      | _ => some d.rD
  else some d.count

/-- The rules of R193 on the format of a slot, given how it is used, with those of R44 and R69 on its element count. -/
def slotFmtOk (d : Desc) (x : Slot) : Bool :=
  let uses := d.ins.filter (fun p => (readsSlot p.1 || writesSlot p.1) && rSlot p.1 == x.num)
  x.fmt.okStatic && x.fmt.rsv == 0 && (x.fmt.rotk == 0 || x.fmt.rowlen % 2 ^ x.fmt.rotk == 0) &&
  uses.all (fun p =>
    let o := rOp p.1
    (match useCount d p.1 with | some n => x.fmt.ok n | none => true) &&
    if o = riDQN || o = riQNT then x.fmt.ash != 0 && x.fmt.rowlen == d.rD
    else x.fmt.unpacked &&
      (o != riLDS || bits p.1 32 31 != 1 || (x.fmt.rowlen != 0 && d.rD ≤ x.fmt.rowlen)) &&
      (o != riRED || bits p.1 32 29 != 6 || x.fmt.elem == 0x18) &&
      !(x.fmt.isPair && ((o == riSTS && bitAt p.1 32) || (o == riRED && bitAt p.1 27) || (o == riMAC && bitAt p.1 14))))

/-- The faults of a RECIPE at order 2. -/
def recipeOk2 (d : Desc) : Bool :=
  (d.count == 0 || d.count % d.rD == 0) && d.slots.all (slotFmtOk d) &&
  d.ins.all (fun p =>
    let w := p.1
    let o := rOp w
    (o != riCVT || ((fmtOf (bits w 35 30)).isSome && !((fmtD (bits w 35 30)).kind == .pair && bitAt w 29))) &&
    (o != riSCL || ashlarOk (bits w 33 28)) && (o != riWATCH || (fmtOf (bits w 35 30)).isSome) &&
    (o != riROT || d.rD % 2 ^ bits w 35 32 == 0))

/-- Greatest value of `x mod m` for x up to `hi`; m 0 means no modulus. -/
def maxMod (hi m : Nat) : Nat := if m = 0 then hi else min hi (m - 1)

/-- One more than the highest element index that an instruction reaches in its slot (R193). -/
def insReach (d : Desc) (p : Nat × Option (Nat × Nat)) (f : FmtW) : Nat :=
  let w := p.1
  let o := rOp w
  if d.count = 0 then 0
  else if o = riLDS then
    let base := match bits w 32 31 with
      | 0 => d.count - 1
      | 1 => maxMod ((d.rRows - 1) / bits w 27 18) (bits w 17 8) * f.rowlen + d.rD - 1
      | 2 => d.rRows - 1
      | _ => d.rD - 1
    let j := match p.2 with | some (n, stride) => if bitAt w 29 then (n - 1) * stride else 0 | none => 0
    base + j + 1
  else if o = riRED then d.rRows * funcElems (bits w 32 29)
  else if o = riMAC then (d.rRows / bits w 25 20 - 1) * f.rowlen + bits w 25 20
  else d.count

/-- Elements that a slot must hold, and its length in bytes. -/
def slotReach (d : Desc) (x : Slot) : Nat :=
  (d.ins.filter (fun p => (readsSlot p.1 || writesSlot p.1) && rSlot p.1 == x.num)).foldl
    (fun a p => max a (insReach d p x.fmt)) 0
def slotBytes (d : Desc) (x : Slot) : Nat :=
  let n := slotReach d x
  if x.fmt.ash = 0 then ceilDiv (n * x.fmt.fmt.w) 8 else (Tensor.planes { f := x.fmt, n := n }).total

/-- Slots `a` (a source) and `b` (a destination) form an in-place pair (R194). -/
def inPlace (d : Desc) (a b : Slot) : Bool :=
  !a.dest && b.dest && a.win == b.win && a.off == b.off && a.fmt == b.fmt &&
  d.ins.all (fun p => !(readsSlot p.1 && rSlot p.1 == a.num) ||
    (rOp p.1 == riLDS && bits p.1 32 31 == 0 && !bitAt p.1 29)) &&
  d.ins.all (fun p => !(writesSlot p.1 && rSlot p.1 == b.num) || rOp p.1 == riSTS)

/-- A destination slot whose row-scale plane its QNT reads (R206), which needs READ as well (R280). -/
def rowScaleRead (d : Desc) (x : Slot) : Bool :=
  x.dest && x.fmt.rowsc && d.ins.any (fun p => rOp p.1 == riQNT && rSlot p.1 == x.num)

/-! ## Running the body over a strip (R195 to R211) -/

/-- The strip and the registers of its elements (R195), one list of values for each register. -/
structure RunSt where
  st : Strip := {}
  regs : List (List Nat) := []
  red : Nat := 0
  deriving DecidableEq, Repr, Inhabited

/-- Value of a register (R195). -/
def regVal (v : Nat) : XVal := elemValue (fmtPair 64) false v
/-- f32 view of a register. -/
def regF32 (v : Nat) : F32 := toF32 (regVal v)
/-- A value rounded into FP32 or PAIR-FP32 with RNE and INFNAN 1. -/
def toReg (x : XVal) (pair : Bool) : Nat := if pair then (convert x (fmtPair 64) false true .rne 0).1 else toF32 x

def RunSt.reg (r : RunSt) (v k : Nat) : Nat := nth (nth r.regs v []) k 0
def RunSt.setReg (r : RunSt) (v : Nat) (l : List Nat) : RunSt := { r with regs := r.regs.set v l }

/-- `lds_index` of R199. -/
def ldsIndex (i d mode div md dop : Nat) (j : Option Nat) : Nat :=
  let row := i / d
  let k := i % d
  let x := match mode with
    | 0 => i
    | 1 => (if md = 0 then row / div else row / div % md) * dop + k
    | 2 => row
    | _ => k
  x + j.getD 0

/-- The stochastic byte of an instruction. -/
def recByteAt (d : Desc) (round : Bool) (draw i : Nat) : Nat :=
  if round then srByte d.seed d.stream (draw % 2 ^ 32) (d.posbase + i) else 0

/-- The tensor of a slot. -/
def slotT (s : State) (d : Desc) (n : Nat) : Tensor :=
  match slotOf d.slots n with
  | some x => { base := s.addrOf x.win x.off, f := x.fmt, n := slotReach d x }
  | none => {}

/-- Operands of the arithmetic instructions, with their magnitude and negation bits (R201). -/
def arithOp (v : Nat) (neg mag : Bool) : XVal :=
  let x := if mag then (regVal v).abs else regVal v
  if neg then x.neg else x

/-- CMP conditions (Table 10.5). -/
def cmpHolds (c : Nat) (a b : XVal) : Bool :=
  let nan := a.isNan || b.isNan
  match c with
  | 0 => a.eqv b
  | 1 => nan || !a.eqv b
  | 2 => a.lt b
  | 3 => a.lt b || a.eqv b
  | 4 => b.lt a
  | 5 => b.lt a || a.eqv b
  | _ => nan

/-- RNG (R208) for element `i`, loop counter `j`. -/
def rngVal (d : Desc) (w i j : Nat) : Nat :=
  let row := i / d.rD
  let p := if bitAt w 32 then i % d.rD else pos64 (d.posbase + i)
  let stream := if bitAt w 32 then d.stream + row else d.stream
  let draw := (bits w 31 24 + j) % 2 ^ 32
  let word := (mix d.seed stream (p / 4) draw).word (p % 4)
  match bits w 35 33 with
  | 0 => uniform word
  | 1 => if (mix d.seed stream (p / 8) draw).half (p % 8) < bits w 23 8 then f32One else 0
  | 2 => gauss word
  | _ => gumbel word

/-- The new register value of an element instruction that writes VD, for element `i` at strip place `k`. -/
def elemIns (s : State) (m0 : Mem) (r : RunSt) (w i k j stride : Nat) : Nat :=
  let d := r.st.d
  let o := rOp w
  let va := r.reg (rVA w) k
  let vb := r.reg (rVB w) k
  let vc := r.reg (rVC w) k
  let a := arithOp va (bitAt w 35) (bitAt w 32)
  let b := arithOp vb (bitAt w 34) (bitAt w 31)
  let c := arithOp vc (bitAt w 33) false
  let p := bitAt w 30
  if o = riLDS then
    if rTile? w then
      toReg (xvCode (accFmt (rAcc w)) false (tileRd r.st.live (rAcc w) (rTile w) (i / 32 % 32) (i % 32))) (bitAt w 28)
    else
      let t := slotT s d (rSlot w)
      let x := ldsIndex i d.rD (bits w 32 31) (bits w 27 18) (bits w 17 8) t.f.rowlen
        (if bitAt w 29 then some (j * stride) else none)
      toReg (t.value m0 x) (bitAt w 28)
  else if o = riIMM then bits w 31 0
  else if o = riADD then toReg (a.add b) p
  else if o = riMUL then toReg (a.mul b) p
  else if o = riFMA then toReg ((a.mul b).add c) p
  else if o = riDIV then (if p then (encPairQuo a b (fmtPair 64) true).1 else toReg (a.quo b) false)
  else if o = riCMP then (if cmpHolds (bits w 29 27) a b then f32One else 0)
  else if o = riSEL then (let x := regVal vc; if x.isZero || x.isNan then vb else va)
  else if o = riCVT then
    let f := fmtD (bits w 35 30)
    let ash := bitAt w 19
    let code := (convert (regVal va) f ash (bitAt w 28) (RMode.ofRound (bitAt w 29))
      (recByteAt d (bitAt w 29) (bits w 27 20 + j) i)).1
    toReg (elemValue f ash code) true
  else if o = riDQN then
    let t := slotT s d (rSlot w)
    let x := match bits w 32 31 with
      | 0 => t.value m0 i
      | 1 => t.coreValue m0 i
      | _ => if t.f.rowsc then xf (t.rowScale m0 (t.row i)) else .fin false 1 0 false
    toReg x (bitAt w 30)
  else rngVal d w i j

/-- The watch sees slot 1's output unless a WATCH instruction replaces it (R211). -/
def Desc.hasWatchIns (d : Desc) : Bool := d.ins.any (fun p => rOp p.1 == riWATCH)

/-- Elements written to a slot from index `lo`: the primary output where it is slot 1 (R213). -/
def slotEmit (s : State) (st : Strip) (slot lo : Nat) (l : List (Nat × Ev)) : Strip :=
  let t := slotT s st.d slot
  let d := st.d
  let d := if slot = 1 then
      (List.range l.length).foldl (fun d k =>
        let p := nth l k (0, Ev.none)
        if d.hasWatchIns then d.note (lo + k) { p.2 with nf := codeNonfinite t.f.fmt p.1 }
        else d.emit t.f.fmt (lo + k) p.1 p.2) d
    else d
  { st with mem := writeElems st.mem t lo (l.map (·.1)), d := d, outs := st.outs ++ [(t.w, l.length)] }

/-- STS (R200) over the strip. -/
def runSts (s : State) (r : RunSt) (w lo hi j : Nat) : RunSt :=
  let st := r.st
  let d := st.d
  if rTile? w then
    let live := (range2 lo hi).foldl (fun l i =>
      tileWr l (rAcc w) (rTile w) (i / 32 % 32) (i % 32)
        (convertOne (regVal (r.reg (rVA w) (i - lo))) (accFmt (rAcc w)) false true .rne 0).1) st.live
    { r with st := { st with live := live } }
  else
    let t := slotT s d (rSlot w)
    let out := (range2 lo hi).map (fun i =>
      convert (regVal (r.reg (rVA w) (i - lo))) t.f.fmt false (bitAt w 31) (RMode.ofRound (bitAt w 32))
        (recByteAt d (bitAt w 32) (bits w 30 23 + j) i))
    { r with st := slotEmit s st (rSlot w) lo out }

/-- The groups of `g` columns, within rows of D, of the elements `lo` to `hi - 1`, as (first, end). -/
def groupsOf (d g hi : Nat) : Nat → Nat → List (Nat × Nat)
  | 0, _ => []
  | fuel + 1, i =>
    if hi ≤ i then []
    else
      let e := min hi (min (i - i % d + d) (i + (g - i % d % g)))
      (i, e) :: groupsOf d g hi fuel e

/-- SCL (R204). -/
def runScl (r : RunSt) (w lo hi : Nat) : RunSt :=
  let b := if bitAt w 35 then 32 else 16
  let f : FmtW := { elem := bits w 33 28, scale := if bitAt w 34 then 0x21 else 0x20, ash := if bitAt w 35 then 2 else 1 }
  let l := ((groupsOf r.st.d.rD b hi (hi - lo) lo).map (fun g =>
    let u := (range2 g.1 g.2).map (fun i => regF32 (r.reg (rVA w) (i - lo)))
    let sv := scaleVal f (chooseScale f u (bitAt w 27) (bitAt w 25))
    (range2 g.1 g.2).map (fun i =>
      if bitAt w 26 then toReg ((regVal (r.reg (rVA w) (i - lo))).quo sv) false else toReg sv false))).flatten
  r.setReg (rVD w) l

/-- ROT (R205). -/
def runRot (r : RunSt) (w lo hi : Nat) : RunSt :=
  let d := r.st.d
  let v := (range2 lo hi).map (fun i => regF32 (r.reg (rVA w) (i - lo)))
  r.setReg (rVD w) (rotateRun d.seed (bits w 35 32) (d.posbase + lo) (bitAt w 31) v.length v)

/-- QNT (R206) on the elements of one row segment; the new VD values. -/
def qntSegment (s : State) (r : RunSt) (w lo a e : Nat) : RunSt × List Nat :=
  let st := r.st
  let d := st.d
  let t := slotT s d (rSlot w)
  let n := e - a
  let u := (range2 a e).map (fun i => regF32 (r.reg (rVA w) (i - lo)))
  let rs := t.rowScale st.mem (t.row a)
  let wv := if t.f.rowsc then u.map (fun v => fDiv v rs) else u
  let outs := quantRun t.f (bitAt w 32) (bitAt w 30) (RMode.ofRound (bitAt w 31))
    (fun k => recByteAt d (bitAt w 31) (bits w 29 22) (a + k)) n 0 wv
  let evs := (outs.map (·.evs)).flatten
  let vals := ((outs.map (·.vals)).flatten).map (fun v => if t.f.rowsc then v.mul (xf rs) else v)
  let prim := rSlot w == 1
  let d1 := if prim then (List.range n).foldl (fun d k => d.note (a + k) (nth evs k .none)) d else d
  let c := d.watchCfg
  let wt := if prim && c.active && !d.hasWatchIns then
      let w1 := (List.range n).foldl (fun w k => w.elem c (a + k) (workVal (nth vals k .nan))) d1.watch
      outs.foldl (fun w o => w.ashlar c t o.codes o.scale o.quoins) w1
    else d1.watch
  let vd := (List.range n).map (fun k =>
    let dv := nth vals k .nan
    let uv := xf (nth u k 0)
    let resid (f : Fmt) : Nat :=
      if uv.isFinite && dv.isFinite then toReg (elemValue f false (convert (uv.add dv.neg) f false false .rne 0).1) true else 0
    match bits w 21 20 with
    | 1 => toReg dv true
    | 2 => resid fmtBf16
    | _ => resid (fmtPair 32))
  ({ r with st := { st with mem := writeRun st.mem t (t.ashlar a) outs, d := { d1 with watch := wt }
                            outs := st.outs ++ [(t.w, n)] } }, vd)

/-- QNT over the strip, row by row. -/
def runQnt (s : State) (r : RunSt) (w lo hi : Nat) : RunSt :=
  let (r', vd) := (groupsOf r.st.d.rD r.st.d.rD hi (hi - lo) lo).foldl (fun (p : RunSt × List Nat) g =>
    let q := qntSegment s p.1 w lo g.1 g.2
    (q.1, p.2 ++ q.2)) (r, [])
  if bits w 21 20 = 0 then r' else r'.setReg (rVD w) vd

/-- RED (R209) over the strip, in column order. -/
def runRed (s : State) (r : RunSt) (w lo hi : Nat) : RunSt :=
  let func := bits w 32 29
  let k := funcElems func
  let r' := (range2 lo hi).foldl (fun (r : RunSt) i =>
    let d := r.st.d
    let col := i % d.rD
    let row := i / d.rD
    let r0 : RedSt := if col = 0 then {} else nth d.reds r.red {}
    let r1 := r0.step func (bitAt w 28) 0 col (regF32 (r.reg (rVA w) (i - lo)))
    let reds := (d.reds ++ List.replicate (r.red + 1 - d.reds.length) {})
    if col + 1 < d.rD then { r with st := { r.st with d := { d with reds := reds.set r.red r1 } } }
    else
      let (rs, long) := r1.result func (bitAt w 28) d.rD
      let t := slotT s d (rSlot w)
      let out : List (Nat × Ev) :=
        if func = fnARGMAX then [(r1.ext.col % 2 ^ 32, .none), (r1.ext.col / 2 ^ 32, .none)]
        else (List.range rs.length).map (fun j =>
          convert (nth rs j .nan) t.f.fmt false (bitAt w 26) (RMode.ofRound (bitAt w 27))
            (recByteAt d (bitAt w 27) (bits w 25 18) (k * row + j)))
      let st := { r.st with d := { d with reds := reds.set r.red {}, longsum := d.longsum || long } }
      { r with st := slotEmit s st (rSlot w) (k * row) out }) r
  { r' with red := r.red + 1 }

/-- MAC (R210) over the strip; its drain is asked for after the last product. -/
def runMac (r : RunSt) (w idx lo hi : Nat) : RunSt :=
  let st := r.st
  let d := st.d
  let n := bits w 25 20
  let live := if bitAt w 19 && lo = 0 then tileInit st.live (rAcc w) (rTile w) (d.rRows / n) n else st.live
  let (d, live) := (range2 lo hi).foldl (fun (p : Desc × List (Nat × Byte)) i =>
    let row := i / d.rD
    let x := (xf (regF32 (r.reg (rVA w) (i - lo)))).mul (xf (regF32 (r.reg (rVB w) (i - lo))))
    let o := accStep (tileRd p.2 (rAcc w) (rTile w) (row / n) (row % n)) x (rAcc w)
    (p.1.noteStep row o.so o.flush,
      tileWr p.2 (rAcc w) (rTile w) (row / n) (row % n) o.acc)) (d, live)
  let d := if rDrn w && hi = d.count then
      { d with drains := d.drains ++ [{ bf16 := rAcc w, tile := rTile w, m := d.rRows / n, n := n, out := true, mac := idx }] }
    else d
  { r with st := { st with d := d, live := live } }

/-- WATCH (R211). -/
def runWatch (r : RunSt) (w lo hi : Nat) : RunSt :=
  let st := r.st
  let c := st.d.watchCfg
  if !c.active then r
  else
    let f := fmtD (bits w 35 30)
    let wt := (range2 lo hi).foldl (fun (a : WatchSt) i =>
      let code := (convert (regVal (r.reg (rVA w) (i - lo))) f false true .rne 0).1
      (a.elem c i (workVal (elemValue f false code))).bitsIn c code f.w) st.d.watch
    { r with st := { st with d := { st.d with watch := wt } } }

/-- One instruction over the strip, at loop counter `j` of `n`. `m0` is memory as the strip issued: an in-place pair
reads every element before it writes it (R194). -/
def runIns (s : State) (m0 : Mem) (lo hi : Nat) (r : RunSt) (w idx j n stride : Nat) : RunSt :=
  let o := rOp w
  if o = riSTS then (if j + 1 = n then runSts s r w lo hi j else r)
  else if o = riSCL then runScl r w lo hi
  else if o = riROT then runRot r w lo hi
  else if o = riQNT then runQnt s r w lo hi
  else if o = riRED then runRed s r w lo hi
  else if o = riMAC then runMac r w idx lo hi
  else if o = riWATCH then runWatch r w lo hi
  else r.setReg (rVD w) ((range2 lo hi).map (fun i => elemIns s m0 r w i (i - lo) j stride))

/-- The body; `idx` is the place of the next word in it. -/
def runBody (s : State) (m0 : Mem) (lo hi : Nat) : Nat → Nat → List Nat → RunSt → RunSt
  | 0, _, _, r => r
  | fuel + 1, idx, l, r =>
    match l with
    | [] => r
    | w :: rest =>
      if rOp w = riLOOP then
        let b := rest.take (bits w 43 36)
        let n := bits w 55 44
        let r' := forN n r (fun r j =>
          (List.range b.length).foldl (fun r k => runIns s m0 lo hi r (nth b k 0) (idx + 1 + k) j n (bits w 35 0)) r)
        runBody s m0 lo hi fuel (idx + 1 + b.length) (rest.drop (bits w 43 36)) r'
      else runBody s m0 lo hi fuel (idx + 1) rest (runIns s m0 lo hi r w idx 0 1 0)

/-- The group that every strip boundary of a RECIPE respects (R216). -/
def Desc.rGroup (d : Desc) : Nat :=
  d.ins.foldl (fun g p =>
    let w := p.1
    if rOp w = riSCL then max g (if bitAt w 35 then 32 else 16)
    else if rOp w = riROT then max g (2 ^ bits w 35 32)
    else if rOp w = riQNT then max g ((slotOf d.slots (rSlot w)).map (fun x => x.fmt.b) |>.getD 1)
    else g) 1

/-- Elements of linear source slots read by a strip. -/
def recipeReads (d : Desc) (n : Nat) : List (Nat × Nat) :=
  (d.slots.filter (fun x => !x.dest)).map (fun x => (x.fmt.fmt.w, n))

/-- A strip of a RECIPE: elements `lo` to `hi - 1`. -/
def stripRecipe (s : State) (st : Strip) (lo hi : Nat) : Strip :=
  let r0 : RunSt := { st := st, regs := List.replicate 32 (List.replicate (hi - lo) 0) }
  let r := runBody s st.mem lo hi (st.d.body.length + 1) 0 st.d.body r0
  { r.st with ins := r.st.ins ++ recipeReads st.d (hi - lo) }

/-- The output stage of a MAC drain: `idx` is the place of the MAC in the body, and the byte is drawn at the
instruction's own draw index (R210, Table 10.4). -/
def macOut (s : State) (d : Desc) (idx : Nat) (q : DrainReq) : OutStage :=
  let w := nth d.body idx 0
  { bf16 := q.bf16, tile := q.tile, m := q.m, n := q.n, dst := slotT s d (rSlot w), infnan := bitAt w 13
    mode := RMode.ofRound (bitAt w 14), seed := d.seed, stream := d.stream, posbase := d.posbase, draw := bits w 12 5 }

end Sys2Proof.Machine
end

