-- ==== Sys2Proof/Machine/Checks.lean ====
section
/-! DEFINITION. The admission checks of R181 in the order of Table 9.8, and the operands of every opcode as ranges of
windows (R145, R187, R280). -/

namespace Sys2Proof.Machine

/-! ## Operands as window ranges -/

/-- A range of a window that a descriptor reads or writes: bytes `lo` to `hi - 1`; an empty range only names the window. -/
structure Acc where
  win : Nat := 0
  lo : Nat := 0
  hi : Nat := 0
  wr : Bool := false
  deriving DecidableEq, Repr, Inhabited

/-- Length in bytes of a tensor operand (R46). -/
def tensorBytes (f : FmtW) (n : Nat) : Nat := (Tensor.planes { f := f, n := n }).total

/-- The range of a tensor operand. -/
def tensorAcc (win off : Nat) (f : FmtW) (n : Nat) (wr : Bool) : Acc :=
  { win := win, lo := off, hi := off + tensorBytes f n, wr := wr }

namespace Desc

/-- The range of D or E of a FOLD or DRAIN (R369). -/
def outRange (d : Desc) (win off : Nat) (f : FmtW) (wr : Bool) : Acc :=
  let a := d.drow0 * d.dfmt.rowlen + d.dcol0
  let b := (d.drow0 + d.fm - 1) * d.dfmt.rowlen + d.dcol0 + d.fn
  { win := win, lo := off + a * f.fmt.w / 8, hi := off + ceilDiv (b * f.fmt.w) 8, wr := wr }

/-- The operands of a descriptor, sources first, in the order of R148: header, parameter block; a group of `n` members of
which this is rank `self` gives the operands of a COLLECTIVE. -/
def operands (d : Desc) (n self : Nat) : List Acc :=
  let src := tensorAcc d.swin d.soff d.sfmt d.count false
  let dst := tensorAcc d.dwin d.doff d.dfmt d.count true
  let fold := (if d.usesE then [d.outRange d.ewin d.eoff d.efmt false] else []) ++
    (if d.fout then [d.outRange d.dwin d.doff d.dfmt true] else [])
  let o := d.op
  if o = opCONVERT || o = opDEQUANTISE || o = opROTATE then [src, dst]
  else if o = opQUANTISE then
    [src] ++ (if d.pb then [tensorAcc d.resWin d.resOff d.resFmt d.count false] else []) ++
      (if d.dfmt.rowsc then [{ dst with wr := false }] else []) ++ [dst] ++
      (if d.pb then [tensorAcc d.resWin d.resOff d.resFmt d.count true] else [])
  else if o = opFOLD then
    [tensorAcc d.swin d.soff d.sfmt (d.arows * d.fk) false, tensorAcc d.bwin d.boff d.bfmt (d.brows * d.fk) false] ++ fold
  else if o = opDRAIN then fold
  else if o = opREDUCE then [src, tensorAcc d.dwin d.doff d.dfmt (d.redRows * funcElems d.func) true]
  else if o = opSTATS then [src, { win := d.dwin, lo := d.doff, hi := d.doff + 256, wr := true }]
  else if o = opSAMPLE then
    [{ win := d.swin }, { win := d.rowWin, lo := d.rowOff, hi := d.rowOff + 32 * d.count }, { win := d.banWin },
      { win := d.dwin, lo := d.doff, hi := d.doff + 16 * d.count, wr := true }]
  else if o = opFILL then [dst]
  else if o = opRECIPE then
    (d.slots.filter (rowScaleRead d)).map (fun x => { win := x.win, lo := x.off, hi := x.off + slotBytes d x }) ++
      d.slots.map (fun x => { win := x.win, lo := x.off, hi := x.off + slotBytes d x, wr := x.dest })
  else if o = opCOLLECTIVE then
    if d.kind = 5 then
      let da := a2aData d.soff n
      let db := a2aData d.doff n
      [{ win := d.swin, lo := d.soff, hi := da + ceilDiv (d.count * d.sfmt.fmt.w) 8 },
        { win := d.dwin, lo := d.doff, hi := db + ceilDiv (n * d.cap * d.sfmt.fmt.w) 8, wr := true },
        { win := d.bmWin, lo := d.bmOff, hi := d.bmOff + ceilDiv d.count 8, wr := true }]
    else
      (if d.kind = 3 && self ≠ d.root then [] else [tensorAcc d.swin d.soff d.sfmt (d.collSrcN n) false]) ++
        [tensorAcc d.dwin d.doff d.dfmt (d.collDstN n) true]
  else if o = opREBOND then
    let rows := d.srcBond.size / max 1 (nth d.srcBond.dims 0 1)
    [tensorAcc d.swin d.soff d.sfmt d.srcBond.shard false,
      { win := d.rsWin, lo := d.rsOff, hi := d.rsOff + 4 * rows },
      tensorAcc d.dwin d.doff d.dfmt d.dstBond.shard true]
  else if o = opSIGNATURE then
    (if bitAt d.sub 0 then [{ win := d.swin, lo := d.soff, hi := d.soff + 512 }] else []) ++
      [{ win := d.dwin, lo := d.doff, hi := d.doff + 512, wr := true }]
  else if o = opSAVE then [{ win := d.dwin, lo := d.doff, hi := d.doff, wr := true }]
  else if o = opRESTORE then [{ win := d.swin, lo := d.soff, hi := d.soff }]
  else []

end Desc

/-! ## Order 1 (BAD_DESCRIPTOR) -/

/-- A context is the target of a SAVE_CONTEXT or RESTORE_CONTEXT that has passed its checks and has not completed (R288). -/
def State.targeted (s : State) (t : Nat) : Bool :=
  s.ctxs.any (fun p => p.2.descs.any (fun e => e.admitted && !e.early &&
    ((e.op == opSAVE && bits e.soff 11 0 == t) || (e.op == opRESTORE && bits e.doff 11 0 == t))))

namespace Desc

/-- The reserved bits of the fields that every descriptor has: FLAGS, WATCH, and PARAM without PB (R4, R118, R178). -/
def commonOk (d : Desc) : Bool :=
  bits (d.w 0) 15 14 == 0 && bits d.watchField 15 14 == 0 && !bitAt d.watchField 3 && (d.pb || d.param == 0)

/-- Header fields that a row of Table 9.4 marks as reserved. -/
def zSrc (d : Desc) : Bool := d.swin == 0 && d.soff == 0
def zDst (d : Desc) : Bool := d.dwin == 0 && d.doff == 0
def zFmt (d : Desc) : Bool := d.sfmtW == 0 && d.dfmtW == 0
def zRnd (d : Desc) : Bool := d.seed == 0 && d.stream == 0 && d.posbase == 0
def zSub (d : Desc) : Bool := d.sub == 0 && !d.opf

/-- The command reads STREAM, and it is in the reserved range (R128): with ROUND 1 it counts as read, in a FOLD or DRAIN
with OUT 0 too, which draws no byte (DEDUCED, log 80). -/
def streamBad (d : Desc) : Bool :=
  (d.op == opRECIPE || d.op == opFILL ||
    (d.round && [opCONVERT, opQUANTISE, opDEQUANTISE, opROTATE, opFOLD, opDRAIN, opREDUCE, opCOLLECTIVE, opREBOND].contains d.op)) &&
  decide (0xFFFFFF00 ≤ d.stream)

/-- An offset is aligned for a format (R29). -/
def aligned (off : Nat) (f : FmtW) : Bool := off % max 1 f.align == 0

/-- The fold block's field ranges and reserved bits (R86, R179), for a context with `slots` tile slots. -/
def foldOk (d : Desc) (slots : Nat) : Bool :=
  bits (d.p 1) 63 40 == 0 && bits (d.p 6) 63 56 == 0 && bits (d.p 7) 63 38 == 0 && !bitAt (d.p 7) 35 &&
  bits (d.p 7) 31 25 == 0 && bits (d.p 7) 15 14 == 0 && bits (d.p 7) 7 6 == 0 &&
  1 ≤ d.fm && d.fm ≤ 32 && 1 ≤ d.fn && d.fn ≤ 32 && d.count == d.fm * d.fn && tileOk d.facc d.ftile slots &&
  (!d.fout || (d.dcol0 + d.fn ≤ d.dfmt.rowlen && d.dfmt.rsv == 0 && aligned d.doff d.dfmt)) &&
  (!d.usesE || (d.efmt.rsv == 0 && aligned d.eoff d.efmt)) &&
  (if d.op = opFOLD then
    d.sfmt.rsv == 0 && d.bfmt.rsv == 0 && aligned d.soff d.sfmt && aligned d.boff d.bfmt &&
    d.arow0 + d.fm ≤ d.arows && d.brow0 + d.fn ≤ d.brows
  else bits (d.p 0) 51 0 == 0 && d.p 2 == 0 && d.p 4 == 0 && d.p 5 == 0 && !d.finit)

/-- The rules of REBOND at order 1 (R266, R268), for a group of `n`. -/
def rebondOk (s : State) (d : Desc) (n : Nat) : Bool :=
  let a := d.srcBond
  let b := d.dstBond
  !a.rsv && !b.rsv && bits (d.p 8) 47 19 == 0 && d.p 5 == 0 && d.p 6 == 0 && d.p 7 == 0 && bits (d.p 13) 63 40 == 0 &&
  bits (d.p 14) 63 40 == 0 && bits (d.p 15) 51 40 == 0 && !a.bad && !b.bad && a.ranks == n && b.ranks == n &&
  a.dims == b.dims && d.bp != 0 && d.npiece != 0 && ceilDiv d.npiece d.bp ≤ 65536 &&
  d.piece0 + d.npiece ≤ pieceCount a b && d.bucket < ceilDiv d.npiece d.bp &&
  !(s.win d.swin).flagged && !(s.win d.dwin).flagged && !(s.win d.rsWin).flagged

/-- The rules of COLLECTIVE at order 1 (R180, R221, R235), for a group of `n`. -/
def collOk (d : Desc) (n : Nat) : Bool :=
  bits (d.p 1) 31 0 == 0 && bits (d.p 2) 51 40 == 0 && bits (d.p 3) 63 40 == 0 && d.p 4 == 0 && d.p 5 == 0 &&
  d.p 6 == 0 && d.p 7 == 0 && d.kind ≤ 5 && bits d.sub 7 4 == 0 && (d.kind == 3 || d.count % max 1 n == 0) &&
  (d.kind != 3 || d.root < n) &&
  (d.kind != 5 || d.count == 0 || (1 ≤ d.cap && d.cap ≤ d.shardLen n))

/-- The rules of R288 at order 1: the target of a SAVE_CONTEXT or RESTORE_CONTEXT. -/
def targetOk (s : State) (d : Desc) (c : Nat) : Bool :=
  let t := if d.op = opSAVE then bits d.soff 11 0 else bits d.doff 11 0
  let x := s.ctx t
  t != c && !s.targeted t && x.resident && (if d.op = opSAVE then d.doff else d.soff) % 64 == 0 &&
    (d.op == opSAVE || !x.rang)

/-- The conditions of order 1 that belong to one opcode (Table 9.4, R176); `g` is the group of a COLLECTIVE or REBOND. -/
def opOk (s : State) (d : Desc) (c : Nat) (g : Group) : Bool :=
  let slots := (s.ctx c).use.tileSlots
  let pe := isPe (s.engOf c)
  let job := d.job == 0
  let fm := d.sfmt.rsv == 0 && d.dfmt.rsv == 0
  let al := aligned d.soff d.sfmt && aligned d.doff d.dfmt
  let o := d.op
  if o = opCONVERT then d.zSub && !d.pb && job && fm && al
  else if o = opQUANTISE then
    bits d.sub 7 1 == 0 && job && fm && al &&
    (!d.pb || (bits (d.p 0) 51 40 == 0 && (range2 1 8).all (fun k => d.p k == 0) && aligned d.resOff d.resFmt))
  else if o = opDEQUANTISE then d.zSub && !d.pb && job && fm && al
  else if o = opROTATE then bits d.sub 7 4 == 0 && 4 ≤ d.func && d.func ≤ 8 && !d.pb && job && fm && al
  else if o = opFOLD then d.zSub && d.pb && job && d.foldOk slots
  else if o = opREDUCE then
    bits d.sub 7 4 == 0 && d.func ≤ 7 && (!d.opf || d.func ≤ 1) && !d.pb && job && fm && al
  else if o = opSTATS then
    d.zSub && !d.pb && job && d.zRnd && d.sfmt.rsv == 0 && bits d.dfmtW 63 10 == 0 && aligned d.soff d.sfmt && d.doff % 64 == 0
  else if o = opSAMPLE then
    d.zSub && !d.pb && job && d.soff == 0 && d.stream == 0 && d.posbase == 0 && d.sfmt.rsv == 0 && 1 ≤ d.count &&
    d.count ≤ 2 ^ 24 && d.rowOff % 32 == 0 && d.doff % 16 == 0
  else if o = opFILL then
    d.swin == 0 && bits d.soff 39 16 == 0 && bits d.sub 7 4 == 0 && d.func ≤ 3 && !d.opf && !d.pb && job &&
    d.dfmt.rsv == 0 && aligned d.doff d.dfmt
  else if o = opRECIPE then
    d.pb && job && d.zSub && !d.round && !d.infnan && recipeOk1 s d slots &&
    (d.use0 || (d.zSrc && d.sfmtW == 0)) && (d.use1 || (d.zDst && d.dfmtW == 0)) &&
    d.slots.all (fun x => x.fmt.rsv == 0 && aligned x.off x.fmt)
  else if o = opCOLLECTIVE then
    pe && d.pb && fm && s.dom.member && g.ok s.dom.deviceId && d.collOk g.n && (s.ctx c).lastTicket ≤ d.ticket &&
    ((d.kind == 3 && g.self != d.root) || aligned d.soff d.sfmt) && aligned d.doff d.dfmt
  else if o = opREBOND then
    pe && d.pb && d.count == 0 && d.zSub && fm && al && s.dom.member && g.ok s.dom.deviceId && d.rebondOk s g.n &&
    (s.ctx c).lastTicket ≤ d.ticket && d.rsOff % 4 == 0
  else if o = opLEASE then
    pe && d.zSrc && d.zDst && d.count == 0 && d.zFmt && d.zRnd && d.zSub && !d.pb && job && d.watchField == 0 && s.dom.member
  else if o = opSIGNATURE then
    pe && d.count == 0 && d.zFmt && d.zRnd && bits d.sub 7 1 == 0 && !d.opf && !d.pb && (bitAt d.sub 0 || d.zSrc)
  else if o = opFENCE || o = opNOP then
    d.zSrc && d.zDst && d.count == 0 && d.zFmt && d.zRnd && d.zSub && !d.pb && job && d.watchField == 0
  else if o = opRIBBON then
    d.zSrc && d.zDst && d.count == 0 && d.zFmt && d.zRnd && !d.opf && !d.pb && job && d.watchField == 0
  else if o = opSAVE then
    d.swin == 0 && bits d.soff 39 12 == 0 && d.count == 0 && d.zFmt && d.zRnd && d.zSub && !d.pb && job &&
    d.watchField == 0 && d.targetOk s c
  else if o = opRESTORE then
    d.dwin == 0 && bits d.doff 39 12 == 0 && d.count == 0 && d.zFmt && d.zRnd && d.zSub && !d.pb && job &&
    d.watchField == 0 && d.targetOk s c
  else if o = opDRAIN then d.zSub && d.pb && job && d.zSrc && d.sfmtW == 0 && d.foldOk slots
  else false

/-- Order 1 of Table 9.8 for the descriptor in slot `q`. -/
def ok1 (s : State) (d : Desc) (c q : Nat) (g : Group) : Bool :=
  d.seqField == q && knownOp d.op && d.commonOk && !(d.watchCfg.active && (s.ctx c).use.watchSlots == 0) && !d.streamBad &&
    d.opOk s c g

/-! ## Order 2 (BAD_FORMAT) -/

/-- ROUND 1 with a pair destination (R54). -/
def pairRound (d : Desc) : Bool := d.round && d.dfmt.isPair

/-- The format rules of a FOLD or DRAIN (R86). -/
def foldFmt (d : Desc) : Bool :=
  let wide (f : FmtW) : Nat := if f.isPair then f.fmt.w / 2 else f.fmt.w
  (d.op == opDRAIN || (d.sfmt.ok (d.arows * d.fk) && d.bfmt.ok (d.brows * d.fk) && d.fk != 0 && d.bfmt.rowlen == d.fk &&
    d.sfmt.rotk == 0 && d.bfmt.rotk == 0 && (!d.facc || (wide d.sfmt ≤ 8 && wide d.bfmt ≤ 8)))) &&
  (!d.fout || (d.fuse != 3 && d.dfmt.okStatic && d.dfmt.unpacked && !d.pairRound)) &&
  (!d.usesE || (d.efmt.okStatic && d.efmt.unpacked && !d.efmt.isPair && d.efmt.rowlen == d.dfmt.rowlen))

/-- The format rules of a COLLECTIVE (Table 11.2, R222), for a group of `n`. -/
def collFmt (d : Desc) (n : Nat) : Bool :=
  let packedOk (f : FmtW) : Bool :=
    f.ash == 0 || ((f.rowlen == 0 || f.rowlen % f.group == 0) && d.shardLen n % f.group == 0)
  let run := d.kind == 0 || d.kind == 2
  let payload := (d.sfmt.unpacked && [0x00, 0x01, 0x02, 0x03, 0x04].contains d.sfmt.elem) ||
    (d.sfmt.ash != 0 && d.sfmt.quoins == 0)
  d.sfmt.ok (d.collSrcN n) && d.dfmt.ok (if d.kind = 5 then n * d.cap else d.collDstN n) && !d.sfmt.rowsc && !d.dfmt.rowsc && packedOk d.sfmt &&
  packedOk d.dfmt && !d.pairRound &&
  (if run then (if d.opf then d.dfmt.unpacked else payload && (d.dfmt.unpacked || d.dfmt == d.sfmt))
   else if d.kind = 4 then d.sfmt.unpacked
   else d.dfmt == d.sfmt && (d.kind != 5 || d.sfmt.unpacked))

/-- The format rules of a REBOND (R268). -/
def rebondFmt (d : Desc) : Bool :=
  let a := d.srcBond
  let b := d.dstBond
  let g (f : FmtW) : Nat := max 8 f.group
  d.sfmt.ok a.shard && d.dfmt.ok b.shard && d.sfmt.rowlen == a.e 0 && d.dfmt.rowlen == b.e 0 &&
  a.e 0 % g d.sfmt == 0 && a.e 0 % g d.dfmt == 0 && b.e 0 % g d.sfmt == 0 && b.e 0 % g d.dfmt == 0 && !d.pairRound

/-- Order 2 of Table 9.8 (Table 9.5, R44, R54, R69, R86). -/
def ok2 (d : Desc) (n : Nat) : Bool :=
  let o := d.op
  let rows := d.sfmt.rowlen == d.dfmt.rowlen
  if o = opCONVERT then d.sfmt.ok d.count && d.dfmt.ok d.count && d.sfmt.unpacked && d.dfmt.unpacked && !d.pairRound
  else if o = opQUANTISE then
    d.sfmt.ok d.count && d.dfmt.ok d.count && d.sfmt.unpacked && [0x00, 0x01, 0x02, 0x03, 0x04, 0x10, 0x19].contains d.sfmt.elem &&
    d.dfmt.ash != 0 && rows && !d.pairRound
  else if o = opDEQUANTISE then
    d.sfmt.ok d.count && d.dfmt.ok d.count && d.sfmt.ash != 0 && d.dfmt.unpacked && rows && !d.pairRound
  else if o = opROTATE then
    d.sfmt.ok d.count && d.dfmt.ok d.count && d.sfmt.unpacked && d.dfmt.unpacked &&
    [0x00, 0x01, 0x02, 0x03, 0x04].contains d.sfmt.elem && rows && d.sfmt.d d.count % 2 ^ d.func == 0 && !d.pairRound
  else if o = opFOLD || o = opDRAIN then d.foldFmt
  else if o = opREDUCE then
    d.sfmt.ok d.count && d.dfmt.unpacked && d.dfmt.ok (d.redRows * funcElems d.func) &&
    (d.func != fnARGMAX || d.dfmt.elem == 0x18) && !d.pairRound
  else if o = opSTATS then d.sfmt.ok d.count
  else if o = opSAMPLE then
    [0x00, 0x01, 0x02].contains d.sfmt.elem && d.sfmtW == d.sfmt.elem * 2 ^ 58
  else if o = opFILL then
    d.dfmt.unpacked && d.dfmt.ok d.count && !d.pairRound &&
    (d.func != 0 || [0x18, 0x19, 0x10, 0x11, 0x12, 0x13, 0x14, 0x15].contains d.dfmt.elem)
  else if o = opRECIPE then recipeOk2 d
  else if o = opCOLLECTIVE then d.collFmt n
  else if o = opREBOND then d.rebondFmt
  else true

/-! ## Orders 3 and 4 -/

/-- Two ranges share a byte: of one window by their offsets, of two windows that are both VALID by device address. -/
def rangesMeet (s : State) (w1 lo1 hi1 w2 lo2 hi2 : Nat) : Bool :=
  lo1 < hi1 && lo2 < hi2 &&
  (if w1 = w2 then lo1 < hi2 && lo2 < hi1
   else (s.win w1).valid && (s.win w2).valid &&
     s.addrOf w1 lo1 < s.addrOf w2 lo2 + (hi2 - lo2) && s.addrOf w2 lo2 < s.addrOf w1 lo1 + (hi1 - lo1))

/-- The residual of a QUANTISE shares a byte with its source or a plane of its destination (R72). -/
def residualMeets (s : State) (d : Desc) : Bool :=
  let r := d.resOff + tensorBytes d.resFmt d.count
  let planes (f : FmtW) : List (Nat × Nat) := planeRanges d.count (f.d d.count) f.b f.fmt.w f.bound f.quoins f.rowsc
  rangesMeet s d.resWin d.resOff r d.swin d.soff (d.soff + tensorBytes d.sfmt d.count) ||
    (planes d.dfmt).any (fun p => rangesMeet s d.resWin d.resOff r d.dwin (d.doff + p.1) (d.doff + p.2))

/-- The overlap rules of R194: the range of a destination slot meets the range of no other slot but its in-place pair's. -/
def slotsApart (s : State) (d : Desc) : Bool :=
  d.slots.all (fun b => !b.dest || d.slots.all (fun a => a.num == b.num || inPlace d a b ||
    !rangesMeet s a.win a.off (a.off + slotBytes d a) b.win b.off (b.off + slotBytes d b)))

/-- The payload bytes of a bucket (R221). -/
def bucketBytes (d : Desc) : Nat :=
  ceilDiv (d.count * d.sfmt.fmt.w) 8 + (if d.sfmt.ash = 0 then 0 else ceilDiv d.count (max 1 d.sfmt.b))

/-- Order 3 of Table 9.8: conditions that need valid format words. -/
def ok3 (s : State) (d : Desc) : Bool :=
  if d.op = opQUANTISE && d.pb then !d.residualMeets s
  else if d.op = opRECIPE then d.slotsApart s
  else if d.op = opCOLLECTIVE then d.bucketBytes ≤ 64 * 2 ^ 20
  else true

/-- The rights of R280 on every operand, as the tables stand. -/
def rightsOk (s : State) (d : Desc) (c n self : Nat) : Bool :=
  (d.operands n self).all (fun a => s.mayAccess (s.ctx c).use.pd a.win (!a.wr) a.wr)

/-- Order 4 of Table 9.8: windows, rights, ranges, and the rights of R219, R287 and R288. -/
def ok4 (s : State) (d : Desc) (c : Nat) (g : Group) : Bool :=
  let pd := (s.ctx c).use.pd
  let t := if d.op = opSAVE then bits d.soff 11 0 else bits d.doff 11 0
  d.rightsOk s c g.n g.self &&
  (d.operands g.n g.self).all (fun a => a.hi ≤ a.lo || a.hi ≤ (s.win a.win).bytes) &&
  (!d.isColl || g.pd == pd) && (d.op != opRIBBON || ((s.pdt pd).valid && (s.pdt pd).ribbon)) &&
  (!(d.op == opSAVE || d.op == opRESTORE) || (s.ctx t).use.pd == pd || ((s.pdt pd).valid && (s.pdt pd).ctxAdm))

/-- The status of the first check that fails (R181). -/
def check (s : State) (d : Desc) (c q : Nat) (g : Group) : Option Nat :=
  if !d.ok1 s c q g then some stBADDESC
  else if !d.ok2 g.n then some stBADFMT
  else if !d.ok3 s then some stBADDESC
  else if !d.ok4 s c g then some stPROTECTION
  else none

end Desc

end Sys2Proof.Machine
end

