-- ==== Sys2Proof/Machine/Access.lean ====
section
/-! DEFINITION. Accesses to window chunks: the ranges that work on some elements touches, the scoreboard (R186, R187), the
re-evaluation of rights at a chunk boundary (R283), claims in order (R148), and the write requests that DONE waits for
(R150). -/

namespace Sys2Proof.Machine

/-! ## Ranges -/

/-- The ranges of the planes of a tensor operand that hold elements `lo` to `hi - 1`, scales, quoins and row scales
included. -/
def tensorSpan (win off : Nat) (f : FmtW) (n lo hi : Nat) (wr : Bool) : List Acc :=
  if hi ≤ lo then []
  else
    let t : Tensor := { f := f, n := n }
    let at' (a b : Nat) : Acc := { win := win, lo := off + a, hi := off + b, wr := wr }
    (if f.b = 0 then [at' (lo * t.w / 8) (ceilDiv (hi * t.w) 8)]
    else
      let g0 := t.ashlar lo
      let g1 := t.ashlar (hi - 1)
      let ab := if f.bound then t.ab + 1 else t.ab
      [at' (g0 * ab) ((g1 + 1) * ab)] ++
        (if f.bound then [] else [at' (t.scaleOff g0) (t.scaleOff g1 + 1)]) ++
        (if f.quoins = 0 then [] else [at' (t.quoinOff g0 0) (t.quoinOff (g1 + 1) 0)])) ++
    (if f.rowsc then [at' (t.planes.rowscale + 4 * t.row lo) (t.planes.rowscale + 4 * t.row (hi - 1) + 4)] else [])

/-- The chunks of its window that a range touches. -/
def accChunks (s : State) (a : Acc) : List Nat :=
  if a.hi ≤ a.lo then [] else range2 (a.lo / (s.win a.win).chunkBytes) ((a.hi - 1) / (s.win a.win).chunkBytes + 1)

/-- A range touches a chunk. -/
def accTouches (s : State) (a : Acc) (w k : Nat) : Bool :=
  a.win == w && decide (a.lo < a.hi) && decide (a.lo / (s.win w).chunkBytes ≤ k) &&
    decide (k ≤ (a.hi - 1) / (s.win w).chunkBytes)

/-! ## The scoreboard (R186, R187) -/

/-- Opcodes whose footprint is every chunk of every window they name. -/
def wholeWindows (o : Nat) : Bool :=
  [opSAMPLE, opRECIPE, opCOLLECTIVE, opREBOND, opSIGNATURE, opSAVE, opRESTORE].contains o

/-- The operands of a descriptor with the group of its own instance. -/
def Desc.accs (d : Desc) : List Acc := d.operands d.coll.members.length d.coll.self

/-- The footprint names a chunk, as written (true) or only read. -/
def namesChunk (s : State) (d : Desc) (w k : Nat) : Option Bool :=
  let l := d.accs.filter (fun a => a.win == w && (wholeWindows d.op || accTouches s a w k))
  if l.isEmpty then none else some (l.any (·.wr))

/-- The fetched descriptors of a context before slot `q`. -/
def earlier (s : State) (c q : Nat) : List Desc := (s.ctx c).descs.takeWhile (fun d => d.seq != q)

/-- An earlier descriptor conflicts at a chunk that it has not finished. -/
def conflict (s : State) (c : Nat) (d : Desc) (w k : Nat) : Bool :=
  let own := (namesChunk s d w k).getD true
  (earlier s c d.seq).any (fun e => !e.isDone w k &&
    (match namesChunk s e w k with
      | some wr => own || wr
      | none => false))

/-! ## Chunk boundaries (R283) -/

/-- The rights of a descriptor whose tag is below its engine's epoch are evaluated again; it is retagged, or ends with
REVOKED. -/
def reEvaluate (s : State) (c q : Nat) : State :=
  let d := s.desc c q
  let ep := (s.eng (s.engOf c)).epoch
  if before32 d.tag ep then
    if d.rightsOk s c d.coll.members.length d.coll.self then s.modDesc c q (fun d => { d with tag := ep })
    else endDesc s c q stREVOKED
  else s

/-! ## Claims (R148) -/

/-- The first access to a chunk: the scoreboard, the rights, then the claim. The answer says whether the chunk may be
touched now. -/
def enterChunk (s : State) (c q w k : Nat) : State × Bool :=
  if conflict s c (s.desc c q) w k then (s, false)
  else
    let s := reEvaluate s c q
    if (s.desc c q).over then (s, false)
    else if (s.win w).flagged then (beginClaim s c q w k, false)
    else (s.modDesc c q (fun d => (d.setPhase w k phCLAIMED).touch w k), true)

/-- The first access to a chunk that is held: the rights once more, where an epoch came while it was claimed (R283). -/
def touchChunk (s : State) (c q w k : Nat) : State × Bool :=
  if (s.desc c q).touched w k then (s, true)
  else
    let s := reEvaluate s c q
    if (s.desc c q).over then (s, false) else (s.modDesc c q (·.touch w k), true)

/-- A chunk is about to be touched. A chunk that a SAMPLE has finished is claimed afresh where a later row names it. -/
def gateChunk (s : State) (c q w k : Nat) : State × Bool :=
  let d := s.desc c q
  if d.over then (s, false)
  else
    match d.phaseOf w k with
    | some ph =>
      if ph == phTRACKER || (ph == phDONE && (s.win w).flagged && d.op == opSAMPLE) then enterChunk s c q w k
      else if ph == phCLAIMED then touchChunk s c q w k
      else (s, ph == phDONE && !(s.win w).flagged)
    | none => enterChunk s c q w k

/-- The chunks of some ranges, in their order: the first that may not be touched stops the claims (R148, point 2). -/
def gate (s : State) (c q : Nat) (l : List Acc) : State × Bool :=
  l.foldl (fun p a => (accChunks p.1 a).foldl (fun p k => if p.2 then gateChunk p.1 c q a.win k else p) p) (s, true)

/-! ## Writes (R150, R348, R349) -/

/-- The part of a range that lies in chunk `k` of its window, as device address and length. -/
def accPart (s : State) (a : Acc) (k : Nat) : Nat × Nat :=
  let n := (s.win a.win).chunkBytes
  let lo := max a.lo (k * n)
  ((s.win a.win).addr + lo, min a.hi ((k + 1) * n) - lo)

/-- The requests that carry the bytes now in written ranges, chunk by chunk (R12). -/
def postWrites (s : State) (c q : Nat) (l : List Acc) : State :=
  s.sendReqs (s.engOf c) (((l.filter (·.wr)).map (fun a => ((accChunks s a).map (fun k =>
    let p := accPart s a k
    writeReqs s (s.engOf c) p.1 (Mem.bytes s.mem p.1 p.2)
      { kind := 0, ctx := c, seq := q, win := a.win, chunk := k })).flatten)).flatten)

/-- The requests for the bytes of ranges that are read (R12). -/
def postReads (s : State) (c : Nat) (l : List Acc) : State :=
  (l.filter (fun a => !a.wr)).foldl (fun s a =>
    (accChunks s a).foldl (fun s k => readMem s (s.engOf c) (accPart s a k).1 (accPart s a k).2) s) s

/-- A write to a chunk is not acknowledged yet. -/
def writePending (s : State) (c q w k : Nat) : Bool :=
  (s.eng (s.engOf c)).reqs.any (fun r => r.kind == 0 && r.ctx == c && r.seq == q && r.win == w && r.chunk == k)

/-! ## The chunks of a command's work -/

/-- The row of SAMPLE that the next scan works on. -/
def Desc.nextRow (d : Desc) : RowSt := match d.rows with | r :: _ => r | [] => { row := d.cursor }

/-- The chunk to which the work on element `i` belongs: the source chunk of REDUCE and STATS, else the destination chunk. -/
def workChunk (s : State) (d : Desc) (i : Nat) : List Nat :=
  if d.op = opREDUCE || d.op = opSTATS then
    [d.swin, (d.soff + ({ f := d.sfmt, n := d.count : Tensor }).bitOff i / 8) / (s.win d.swin).chunkBytes]
  else match s.destChunk d i with
    | some (w, k) => [w, k]
    | none => []

/-- The key of a SAMPLE at column `col` of a row: the chunks of its score and of its result. -/
def sampleKey (s : State) (d : Desc) (row : RowSt) : List Nat :=
  let rr := rowRec s s.mem d row.row
  [row.row * 16 / (s.win d.dwin).chunkBytes, (rr.scores + row.col * d.sfmt.fmt.w / 8) / (s.win d.swin).chunkBytes]

/-! ## The ranges of a strip, and what a descriptor has still to touch -/

namespace Desc

/-- The last-written rows of REDUCE for source elements `lo` to `hi - 1`. -/
def redOutSpan (d : Desc) (lo hi : Nat) : List Acc :=
  let k := funcElems d.func
  tensorSpan d.dwin d.doff d.dfmt (d.redRows * k) (lo / max 1 d.redD * k) (hi / max 1 d.redD * k) true

/-- The span of a recipe slot for elements `lo` to `hi - 1`. -/
def slotSpan (d : Desc) (x : Slot) (lo hi : Nat) : List Acc :=
  let n := slotReach d x
  let whole : List Acc := [{ win := x.win, lo := x.off, hi := x.off + slotBytes d x, wr := x.dest }]
  let uses := d.ins.filter (fun p => (readsSlot p.1 || writesSlot p.1) && rSlot p.1 == x.num)
  if uses.isEmpty then []
  else if x.dest then
    match uses.head? with
    | some (w, _) =>
      if rOp w = riRED then
        let k := funcElems (bits w 32 29)
        tensorSpan x.win x.off x.fmt n (lo / max 1 d.rD * k) (hi / max 1 d.rD * k) true
      else if rOp w = riMAC then []
      else tensorSpan x.win x.off x.fmt n lo hi true
    | none => []
  else if uses.all (fun p => rOp p.1 == riDQN || (bits p.1 32 31 == 0 && !bitAt p.1 29)) then
    tensorSpan x.win x.off x.fmt n lo hi false
  else whole

/-- The slots in ascending number. -/
def slotsUp (d : Desc) : List Slot := (List.range 8).filterMap (fun k => slotOf d.slots k)

/-- The spans of A and B of a FOLD from column `lo`: to column `hi` of the last row, and to the end of the rows before it,
whose chunks an operand claims first, in ascending element order (R148, point 2). -/
def foldSpan (d : Desc) (lo hi : Nat) : List Acc :=
  ((List.range d.fm).map (fun r =>
    tensorSpan d.swin d.soff d.sfmt (d.arows * d.fk) ((d.arow0 + r) * d.fk + lo)
      ((d.arow0 + r) * d.fk + (if r + 1 = d.fm then hi else d.fk)) false)).flatten ++
  ((List.range d.fn).map (fun r =>
    tensorSpan d.bwin d.boff d.bfmt (d.brows * d.fk) ((d.brow0 + r) * d.fk + lo)
      ((d.brow0 + r) * d.fk + (if r + 1 = d.fn then hi else d.fk)) false)).flatten

/-- E and D of the output stage of a FOLD or DRAIN. -/
def outSpan (d : Desc) : List Acc :=
  (if d.usesE then [d.outRange d.ewin d.eoff d.efmt false] else []) ++
    (if d.fout then [d.outRange d.dwin d.doff d.dfmt true] else [])

/-- What a strip over iteration elements `lo` to `hi - 1` touches, in the order of R148. -/
def stripSpan (d : Desc) (lo hi : Nat) : List Acc :=
  let src := tensorSpan d.swin d.soff d.sfmt d.count lo hi false
  let dst := tensorSpan d.dwin d.doff d.dfmt d.count lo hi true
  let o := d.op
  if o = opCONVERT || o = opDEQUANTISE || o = opROTATE then src ++ dst
  else if o = opQUANTISE then
    src ++ (if d.pb then tensorSpan d.resWin d.resOff d.resFmt d.count lo hi true else []) ++ dst
  else if o = opFILL then dst
  else if o = opREDUCE then src ++ d.redOutSpan lo hi
  else if o = opSTATS then src ++ [{ win := d.dwin, lo := d.doff, hi := d.doff + 256, wr := true }]
  else if o = opFOLD then d.foldSpan lo hi
  else if o = opRECIPE then (d.slotsUp.map (fun x => d.slotSpan x lo hi)).flatten
  else d.accs

/-- The work stands in the chunk that its checkpoint began: a redo would return to the checkpoint. -/
def inChunk (s : State) (d : Desc) : Bool :=
  d.ckpt.on && decide (d.cursor < d.count) &&
    d.ckpt.key == (if d.op = opSAMPLE then sampleKey s d d.nextRow else workChunk s d d.cursor)

/-- The cursor to which a redo of the open chunk returns. -/
def back (s : State) (d : Desc) : Nat := if inChunk s d then min d.ckpt.cursor d.cursor else d.cursor

/-- What row `r` of a SAMPLE has still to touch, from column `col`. -/
def rowSpans (s : State) (d : Desc) (r col : Nat) : List Acc :=
  let rr := rowRec s s.mem d r
  [{ win := d.rowWin, lo := d.rowOff + 32 * r, hi := d.rowOff + 32 * r + 32 },
    { win := d.dwin, lo := d.doff + 16 * r, hi := d.doff + 16 * r + 16, wr := true }] ++
  (if rowBad s d rr then []
   else tensorSpan d.swin rr.scores { elem := d.sfmt.elem } rr.len col rr.len false ++
    (if rr.ban then [{ win := d.banWin, lo := 64 * rr.banoff + col / 8, hi := 64 * rr.banoff + ceilDiv rr.len 8 }] else []))

/-- The first row that a SAMPLE, or a redo of it, works on, and its column. -/
def firstRow (s : State) (d : Desc) : Nat × Nat :=
  let at' (rows : List RowSt) (cur : Nat) : Nat × Nat := match rows with | r :: _ => (r.row, r.col) | [] => (cur, 0)
  if inChunk s d then at' d.ckpt.rows d.ckpt.cursor else at' d.rows d.cursor

/-- What a streaming descriptor has still to touch, a redo of its open chunk included (R149, R305): a SAMPLE what the records
of its rows name as they stand. -/
def remain (s : State) (d : Desc) : List Acc :=
  let o := d.op
  if d.finished then []
  else if o = opREDUCE then
    let lo := if d.func = fnLSE && (d.pass == 0 || (inChunk s d && d.ckpt.pass == 0)) then (d.back s) - (d.back s) % max 1 d.redD else d.back s
    tensorSpan d.swin d.soff d.sfmt d.count lo d.count false ++ d.redOutSpan (d.back s) d.count
  else if o = opFOLD then
    (if d.drains.isEmpty then
      let lo := if d.pass + 1 < d.passes then 0 else d.cursor
      d.foldSpan lo d.fk ++ d.outSpan
    else d.outSpan)
  else if o = opDRAIN then d.outSpan
  else if o = opSAMPLE then
    let r := d.firstRow s
    (range2 r.1 d.count).flatMap (fun k => d.rowSpans s k (if k = r.1 then r.2 else 0))
  else if o = opRECIPE then
    (d.slotsUp.map (fun x =>
      if x.dest && d.ins.any (fun p => rOp p.1 == riMAC && rDrn p.1 && rSlot p.1 == x.num) then
        [{ win := x.win, lo := x.off, hi := x.off + slotBytes d x, wr := true : Acc }]
      else if d.count ≤ (d.back s) then []
      else d.slotSpan x (d.back s) d.count)).flatten
  else if wholeWindows o || o = opSTATS then
    (if o = opSTATS then tensorSpan d.swin d.soff d.sfmt d.count (d.back s) d.count false ++
      [{ win := d.dwin, lo := d.doff, hi := d.doff + 256, wr := true }] else d.accs)
  else d.stripSpan (d.back s) d.count

end Desc

end Sys2Proof.Machine
end

