-- ==== Sys2Proof/Machine/Collective.lean ====
section
/-! DEFINITION. What a collective chunk is and how it is worked on (11_collective_operations.md, 13): chains, the bytes of a
chunk on the wire, courses with their raises, results, conversions at the sender of a REBOND. -/

namespace Sys2Proof.Machine

/-! ## Chunks on the wire (R247) -/

/-- A run of elements as it is stored or sent: codes, a scale or mortar entry for each ashlar, quoin words. -/
structure WChunk where
  codes : List Nat := []
  scales : List Nat := []
  quoins : List Nat := []
  deriving DecidableEq, Repr, Inhabited

/-- Codes of `w` bits as one little-endian bit stream (R27). -/
def packCodes (w : Nat) (l : List Nat) : Nat := l.foldr (fun c a => c % 2 ^ w + a * 2 ^ w) 0

/-- `n` codes of `w` bits. -/
def unpackCodes (w : Nat) : Nat → Nat → List Nat
  | 0, _ => []
  | n + 1, v => v % 2 ^ w :: unpackCodes w n (v / 2 ^ w)

/-- `n` little-endian fields of `k` bytes. -/
def unpackFields (k : Nat) : Nat → List Byte → List Nat
  | 0, _ => []
  | n + 1, l => leNat (l.take k) :: unpackFields k n (l.drop k)

/-- The payload of a chunk: element bytes, mortar of `mb` bytes an entry, quoin words. -/
def WChunk.bytes (c : WChunk) (w mb : Nat) : List Byte :=
  leBytes (ceilDiv (c.codes.length * w) 8) (packCodes w c.codes) ++ (c.scales.map (leBytes mb)).flatten ++
    (c.quoins.map (leBytes 4)).flatten

/-- The chunk of a payload of `n` elements, `na` mortar entries and `nq` quoin words. -/
def WChunk.ofBytes (w mb n na nq : Nat) (l : List Byte) : WChunk :=
  let eb := ceilDiv (n * w) 8
  { codes := unpackCodes w n (leNat (l.take eb)), scales := unpackFields mb na (l.drop eb)
    quoins := unpackFields 4 nq (l.drop (eb + na * mb)) }

/-- Ashlars of a run of `n` elements. -/
def ashlarsOf (f : FmtW) (n : Nat) : Nat := if f.b = 0 then 0 else ceilDiv n f.b

/-! ## Stored runs -/

/-- Elements `lo` to `lo + n - 1` of a tensor as stored; a packed run starts an ashlar. -/
def readRaw (m : Mem) (t : Tensor) (lo n : Nat) : WChunk :=
  let g := if t.f.b = 0 then 0 else t.ashlar lo
  { codes := (range2 lo (lo + n)).map (fun i => t.code m i)
    scales := (List.range (ashlarsOf t.f n)).map (fun k => t.scaleCode m (g + k))
    quoins := (List.range (ashlarsOf t.f n * t.f.quoins)).map (fun k =>
      t.quoinEntry m (g + k / max 1 t.f.quoins) (k % max 1 t.f.quoins)) }

/-- A run written as it is. -/
def writeRaw (m : Mem) (t : Tensor) (lo : Nat) (c : WChunk) : Mem :=
  if t.f.b = 0 then writeElems m t lo c.codes
  else
    let g := t.ashlar lo
    (List.range c.scales.length).foldl (fun m k =>
      t.wrAshlar m (g + k) ((c.codes.drop (k * t.f.b)).take t.f.b) (nth c.scales k 0)
        ((c.quoins.drop (k * t.f.quoins)).take t.f.quoins)) m

/-- The value of element `j` of a run, without a row scale (R42, R49). -/
def WChunk.value (f : FmtW) (c : WChunk) (j : Nat) : XVal :=
  let code := nth c.codes j 0
  if f.b = 0 then elemValue f.fmt false code
  else
    let k := j / f.b
    let sc := xvCode f.sfmt false (nth c.scales k 0 % 256)
    let own := (c.quoins.drop (k * f.quoins)).take f.quoins
    match own.find? (fun e => bitAt e 31 && bits e 20 16 == j % f.b) with
    | some e => if sc.isNan then .nan else xvCode fmtBf16 false (bits e 15 0)
    | none => (xvCode f.fmt true code).mul sc

/-- Element `j` of a run is NaN or infinite (R64). -/
def WChunk.nonfinite (f : FmtW) (c : WChunk) (j : Nat) : Bool :=
  if f.b = 0 then codeNonfinite f.fmt (nth c.codes j 0) else !(c.value f j).isFinite

/-! ## Courses (R225 to R228) -/

/-- `raised` of R227. -/
def raisedCode (s : Nat) (e8 : Bool) : Nat :=
  if e8 then (if s < 0xFE then s + 1 else 0xFF)
  else if s = 0 || 0xF7 ≤ s then 0xFF
  else if s < 8 then 2 * s else s + 8

/-- An ashlar in a course: its codes, scale and raises, and what the course did. -/
structure CourseOut where
  codes : List Nat := []
  scale : Nat := 0
  h : Nat := 0
  evs : List Ev := []
  raises : Nat := 0
  deriving DecidableEq, Repr, Inhabited

/-- Values carried at a scale plus the member's own. -/
def courseSums (f : FmtW) (cin : List Nat) (s : Nat) (loc : List XVal) : List XVal :=
  List.zipWith (fun c x => ((xvCode f.fmt true c).mul (scaleVal f s)).add x) cin loc

/-- The raises of `course_ashlar`: carried codes are halved while a sum saturates. -/
def courseRaise (f : FmtW) (loc : List XVal) : Nat → List Nat → Nat → Nat → Nat → List Nat × Nat × Nat × Nat
  | 0, cin, s, h, n => (cin, s, h, n)
  | fuel + 1, cin, s, h, n =>
    let s2 := raisedCode s f.e8
    let sat := (courseSums f cin s loc).any (fun t => (convert (t.quo (scaleVal f s)) f.fmt true false .rne 0).2.sat)
    if h = 4 || s2 = 0xFF || !sat then (cin, s, h, n)
    else
      let half := cin.map (fun c =>
        (convert (((xvCode f.fmt true c).mul (scaleVal f s)).quo (scaleVal f s2)) f.fmt true false .rne 0).1)
      courseRaise f loc fuel half s2 (h + 1) (n + 1)

/-- `course_ashlar` of R227. -/
def courseAshlar (f : FmtW) (cin : List Nat) (s h : Nat) (loc : List XVal) (lnan : Bool) (mode : RMode) (rb : List Nat) :
    CourseOut :=
  if s = 0xFF || lnan then
    { codes := cin.map (fun _ => 0), scale := 0xFF, h := h, evs := cin.map (fun _ => Ev.none) }
  else
    let (cin, s, h, n) := courseRaise f loc 5 cin s h 0
    let out := (List.range cin.length).map (fun j =>
      convert ((nth (courseSums f cin s loc) j .nan).quo (scaleVal f s)) f.fmt true false mode (nth rb j 0))
    { codes := out.map (·.1), scale := s, h := h, evs := out.map (·.2), raises := n }

/-! ## Chains (R223, R224) -/

namespace Desc

/-- Elements of a chain's shard: S, or COUNT for broadcast. -/
def chainTotal (d : Desc) (n : Nat) : Nat := if d.kind = 3 then d.count else d.shardLen n
/-- Collective chunks of a shard. -/
def chainChunks (d : Desc) (n : Nat) : Nat := ceilDiv (d.chainTotal n) 2048
/-- The chain numbers of the bucket. -/
def chains (d : Desc) (n : Nat) : List Nat :=
  if d.kind = 3 then (List.range (d.chainChunks n)).map (fun j => j * n + d.root)
  else List.range (d.chainChunks n * n)
/-- First bucket index and length of the chunk of chain `c`. -/
def chainRange (d : Desc) (n c : Nat) : Nat × Nat :=
  let j := c / max 1 n
  ((if d.kind = 3 then 0 else c % max 1 n * d.chainTotal n) + j * 2048, min 2048 (d.chainTotal n - j * 2048))
/-- Format on the wire: running pairs, else SFMT in the reduce phase and DFMT in distribution (Table 12.3). -/
def wireFmt (d : Desc) (dist : Bool) : FmtW :=
  if d.pairSum then { elem := 0x0A } else if dist || d.kind ≠ 0 && d.kind ≠ 2 then d.dfmt else d.sfmt
/-- Frames of a chunk (R223). -/
def frames (d : Desc) (dist : Bool) : Nat := if (d.wireFmt dist).fmt.w = 64 then 2 else 1
/-- The part of a chunk of `len` elements that frame `h` carries, as (first, length). -/
def halfRange (d : Desc) (dist : Bool) (len h : Nat) : Nat × Nat :=
  if d.frames dist = 2 then (1024 * h, min len (1024 * h + 1024) - 1024 * h) else (0, len)
/-- Bytes of a mortar entry on the wire (R227, R247). -/
def mortarBytes (d : Desc) (dist : Bool) : Nat := if !dist && (d.kind == 0 || d.kind == 2) then 2 else 1
/-- A payload as a run of `len` elements. -/
def parsePayload (d : Desc) (dist : Bool) (len : Nat) (l : List Byte) : WChunk :=
  let f := d.wireFmt dist
  WChunk.ofBytes f.fmt.w (d.mortarBytes dist) len (ashlarsOf f len) (ashlarsOf f len * f.quoins) l
/-- Payload length of a run of `len` elements. -/
def payloadLen (d : Desc) (dist : Bool) (len : Nat) : Nat :=
  let f := d.wireFmt dist
  ceilDiv (len * f.fmt.w) 8 + ashlarsOf f len * (d.mortarBytes dist + 4 * f.quoins)

/-- The local operands of a COLLECTIVE, of a group of `n`. -/
def collSrc (d : Desc) (s : State) (n : Nat) : Tensor :=
  { base := s.addrOf d.swin d.soff, f := d.sfmt, n := d.collSrcN n }
def collDst (d : Desc) (s : State) (n : Nat) : Tensor :=
  { base := s.addrOf d.dwin d.doff, f := d.dfmt, n := d.collDstN n }
/-- Index in the local source, or destination, of bucket index `i` at rank `r`. -/
def srcIx (d : Desc) (n r i : Nat) : Nat := if d.kind = 1 || d.kind = 4 then i - r * d.shardLen n else i
def dstIx (d : Desc) (n r i : Nat) : Nat := if d.kind = 0 then i - r * d.shardLen n else i

end Desc

/-- What working on a run gives: the run to send, events by bucket index, and the raises of its ashlars, each with the
offset of the ashlar in the run. -/
structure RunOut where
  run : WChunk := {}
  evs : List Ev := []
  raises : List (Nat × Nat) := []
  deriving DecidableEq, Repr, Inhabited

/-- Course 0: the member's own run `i` to `i + len - 1` in running-sum form (R225 to R227). -/
def courseFirst (s : State) (d : Desc) (n r i len : Nat) : WChunk :=
  let t := d.collSrc s n
  let lo := d.srcIx n r i
  if d.pairSum then
    { codes := (range2 lo (lo + len)).map (fun k => (convert (t.value s.mem k) (fmtPair 64) false true .rne 0).1) }
  else readRaw s.mem t lo len

/-- Course `q` of at least 1: the member's contribution added to the arriving run. -/
def courseNext (s : State) (d : Desc) (n r q i : Nat) (run : WChunk) : RunOut :=
  let t := d.collSrc s n
  let lo := d.srcIx n r i
  let len := run.codes.length
  if d.pairSum then
    let out := (List.range len).map (fun j =>
      (convert ((elemValue (fmtPair 64) false (nth run.codes j 0)).add (t.value s.mem (lo + j))) (fmtPair 64) false true
        .rne 0).1)
    { run := { codes := out } }
  else if d.sfmt.b = 0 then
    let out := (List.range len).map (fun j =>
      convert ((elemValue t.f.fmt false (nth run.codes j 0)).add (t.value s.mem (lo + j))) t.f.fmt false d.infnan d.mode
        (d.rbyte q (i + j)))
    { run := { codes := out.map (·.1) }, evs := out.map (·.2) }
  else
    let b := d.sfmt.b
    let outs := (List.range run.scales.length).map (fun k =>
      let e := nth run.scales k 0
      let cs := (run.codes.drop (k * b)).take b
      courseAshlar d.sfmt cs (e % 256) (bits e 10 8) ((List.range cs.length).map (fun j => t.value s.mem (lo + k * b + j)))
        (t.scaleCode s.mem (t.ashlar (lo + k * b)) == 0xFF) d.mode
        ((List.range cs.length).map (fun j => d.rbyte q (i + k * b + j))))
    { run := { codes := (outs.map (·.codes)).flatten, scales := outs.map (fun o => o.scale + 256 * o.h) }
      evs := (outs.map (·.evs)).flatten
      raises := ((List.range outs.length).map (fun k => (k * b, (nth outs k {}).raises))).filter (fun p => p.2 != 0) }

/-- The run as the result format holds it (R229), and the run that distribution carries. -/
def courseResult (d : Desc) (n i : Nat) (run : WChunk) : RunOut × WChunk :=
  let conv (f : FmtW) : List (Nat × Ev) := (List.range run.codes.length).map (fun j =>
    convert (run.value f j) d.dfmt.fmt false d.infnan d.mode (d.rbyte n (i + j)))
  if d.pairSum then
    let out := conv { elem := 0x0A }
    ({ run := { codes := out.map (·.1) }, evs := out.map (·.2) }, run)
  else if d.dfmt == d.sfmt then
    let r := { run with scales := run.scales.map (· % 256) }
    ({ run := r }, r)
  else
    let out := conv d.sfmt
    let r : WChunk := { codes := out.map (·.1) }
    ({ run := r, evs := out.map (·.2) }, r)

/-! ## Origins of a distribution (R224, R232) -/

/-- The origin's run of chain kinds 1, 3 and 4: copied, or converted once for a push. A copy moves the stored codes and
quoin words as they are, those that R34, R38 and R49 never write included (DEDUCED, log 81). -/
def originRun (s : State) (d : Desc) (n r i len : Nat) : RunOut :=
  let t := d.collSrc s n
  let lo := d.srcIx n r i
  if d.kind ≠ 4 then { run := readRaw s.mem t lo len }
  else if d.dfmt.b = 0 then
    let out := (List.range len).map (fun j =>
      convert (t.value s.mem (lo + j)) d.dfmt.fmt false d.infnan d.mode (d.rbyte 0 (i + j)))
    { run := { codes := out.map (·.1) }, evs := out.map (·.2) }
  else
    let a := (range2 lo (lo + len)).map (fun k => toF32 (t.value s.mem k))
    let outs := quantRun d.dfmt false d.infnan d.mode (fun k => d.rbyte 0 (i + k)) len 0
      (rotateIf d.dfmt d.seed (d.posbase + i) false a)
    { run := { codes := (outs.map (·.codes)).flatten, scales := outs.map (·.scale), quoins := (outs.map (·.quoins)).flatten }
      evs := (outs.map (·.evs)).flatten }

/-! ## REBOND at the sender (R272) -/

namespace Desc

/-- The source and destination shards of a REBOND. -/
def rebSrc (d : Desc) (s : State) : Tensor := { base := s.addrOf d.swin d.soff, f := d.sfmt, n := d.srcBond.shard }
def rebDst (d : Desc) (s : State) : Tensor := { base := s.addrOf d.dwin d.doff, f := d.dfmt, n := d.dstBond.shard }
/-- Sent unchanged: both packed and alike, without row scales. -/
def rebCopies (d : Desc) : Bool :=
  d.sfmt.ash != 0 && !d.sfmt.rowsc && { d.sfmt with rowlen := 0, rsv := 0 } == { d.dfmt with rowlen := 0, rsv := 0 }
/-- The ranks that receive piece `k`, and the rank that sends it to rank `r`. -/
def pieceTo (d : Desc) (k : Nat) : List Nat := d.dstBond.holders (piece d.srcBond d.dstBond k).1
def pieceFrom (d : Desc) (k r : Nat) : Nat := pieceSender d.srcBond (piece d.srcBond d.dstBond k).1 r
/-- The ranks to which rank `r` sends piece `k`, itself included. -/
def pieceServes (d : Desc) (k r : Nat) : List Nat := (d.pieceTo k).filter (fun x => d.pieceFrom k x == r)
/-- The other ranks from which rank `r` receives in the bucket, and to which it sends. -/
def rebFrom (d : Desc) (r : Nat) : List Nat :=
  (((d.bucketPieces.filter (fun k => (d.pieceTo k).contains r)).map (fun k => d.pieceFrom k r)).filter (· ≠ r)).eraseDups
def rebTo (d : Desc) (r : Nat) : List Nat :=
  ((d.bucketPieces.map (fun k => d.pieceServes k r)).flatten.filter (· ≠ r)).eraseDups

end Desc

/-- The row scale of global row `g / DIM0` (R267). -/
def rebScaleAt (s : State) (d : Desc) (g : Nat) : F32 :=
  Mem.rd s.mem (s.addrOf d.rsWin (d.rsOff + 4 * (g / max 1 (nth d.srcBond.dims 0 1)))) 4

/-- A piece's run as the sender forms it. An unpacked destination with ROWSC 1 is converted after the division by the row
scale (DEDUCED, log 84). -/
def pieceRun (s : State) (d : Desc) (k : Nat) : RunOut :=
  let (g, len) := piece d.srcBond d.dstBond k
  let t := d.rebSrc s
  let lo := d.srcBond.localIx g
  if d.rebCopies then { run := readRaw s.mem t lo len }
  else
    let v := if t.f.ash = 0 then (range2 lo (lo + len)).map (fun i => t.value s.mem i)
      else dequantRun s.mem t d.seed (d.posbase + g) lo (lo + len)
    if d.dfmt.b = 0 then
      let x (j : Nat) : XVal :=
        if d.dfmt.rowsc then xf (fDiv (toF32 (nth v j .nan)) (rebScaleAt s d g)) else nth v j .nan
      let out := (List.range len).map (fun j => convert (x j) d.dfmt.fmt false d.infnan d.mode (d.rbyte 0 (g + j)))
      { run := { codes := out.map (·.1) }, evs := out.map (·.2) }
    else
      let a := rotateIf d.dfmt d.seed (d.posbase + g) false (v.map toF32)
      let w := if d.dfmt.rowsc then a.map (fun x => fDiv x (rebScaleAt s d g)) else a
      let outs := quantRun d.dfmt false d.infnan d.mode (fun j => d.rbyte 0 (g + j)) len 0 w
      { run := { codes := (outs.map (·.codes)).flatten, scales := outs.map (·.scale), quoins := (outs.map (·.quoins)).flatten }
        evs := (outs.map (·.evs)).flatten }

end Sys2Proof.Machine
end

