-- ==== Sys2Proof/Machine/Link.lean ====
section
/-! DEFINITION. Instances at a PE (R236, R237) and the streams of its link (R238, R251 to R256): credit, acknowledgement,
retransmission, signatures (R242). -/

namespace Sys2Proof.Machine

/-! ## Instances -/

namespace Link

/-- The present instance (job, ticket). -/
def inst? (l : Link) (job ticket : Nat) : Option Inst := l.insts.find? (fun i => i.job == job && i.ticket == ticket)
/-- A change of a present instance. -/
def modInst (l : Link) (job ticket : Nat) (f : Inst → Inst) : Link :=
  { l with insts := l.insts.map (fun i => if i.job = job && i.ticket = ticket then f i else i) }
/-- A send stream; `dst` is the receiving device. -/
def txOf (l : Link) (job ticket dst : Nat) : TxStream :=
  (l.tx.find? (fun t => t.job == job && t.ticket == ticket && t.dst == dst)).getD { job := job, ticket := ticket, dst := dst }
/-- The link with a send stream replaced. -/
def setTx (l : Link) (v : TxStream) : Link :=
  if l.tx.any (fun t => t.job == v.job && t.ticket == v.ticket && t.dst == v.dst) then
    { l with tx := l.tx.map (fun t => if t.job = v.job && t.ticket = v.ticket && t.dst = v.dst then v else t) }
  else { l with tx := l.tx ++ [v] }
/-- A receive stream; `src` is the sending device. -/
def rx? (l : Link) (job ticket src : Nat) : Option RxStream :=
  l.rx.find? (fun t => t.job == job && t.ticket == ticket && t.src == src)
/-- The link with a receive stream replaced. -/
def setRx (l : Link) (v : RxStream) : Link :=
  if (l.rx? v.job v.ticket v.src).isSome then
    { l with rx := l.rx.map (fun t => if t.job = v.job && t.ticket = v.ticket && t.src = v.src then v else t) }
  else { l with rx := l.rx ++ [v] }

end Link

/-- The lowest bucket of an instance that is not COMPLETE (R237). -/
def lowBucket (done : List Nat) : Nat → Nat → Nat
  | 0, b => b
  | fuel + 1, b => if done.contains b then lowBucket done fuel (b + 1) else b
def Inst.low (i : Inst) : Nat := lowBucket i.complete i.complete.length 0

/-- The admitted, uncompleted descriptors of instances at PE `p`, as (context, descriptor). -/
def State.collsAt (s : State) (p : Nat) : List (Nat × Desc) :=
  ((s.residents (peEng p)).map (fun c =>
    ((s.ctx c).descs.filter (fun d => d.isColl && d.admitted && !d.coll.members.isEmpty)).map (fun d => (c, d)))).flatten

/-- The descriptors of one instance at PE `p`. -/
def State.instDescs (s : State) (p job ticket : Nat) : List (Nat × Desc) :=
  (s.collsAt p).filter (fun x => x.2.job == job && x.2.ticket == ticket)

/-- The descriptor of one bucket. -/
def State.bucketDesc (s : State) (p job ticket bucket : Nat) : Option (Nat × Desc) :=
  (s.instDescs p job ticket).find? (fun x => x.2.bucket == bucket)

/-! ## Signatures (R242) -/

/-- The role of a frame's chunk. -/
def frameRole (h : FrameHdr) : Nat := if h.kind = 5 then 2 else if h.kind = 6 then 3 else if bitAt h.flags 1 then 1 else 0

/-- A frame's part of a signature: the new partial CRCs, and the digest when the frame ends its chunk. -/
def sigStep (part : List (Nat × Nat × Nat)) (dev rank : Nat) (f : Frame) : List (Nat × Nat × Nat) × Nat :=
  let h := f.hdr
  let key := h.bucket * 2 ^ 40 + frameRole h * 2 ^ 32 + h.chunk
  let mine (x : Nat × Nat × Nat) : Bool := x.1 == key && x.2.1 == dev
  let old := ((part.find? mine).map (·.2.2)).getD 0
  let crc := f.payload.foldl (fun c b => crc64Byte c b.toNat) old
  if (fmtD h.pfmt).w = 64 && !bitAt h.flags 0 then (part.filter (fun x => !mine x) ++ [(key, dev, crc)], 0)
  else (part.filter (fun x => !mine x), chunkDigest crc h.bucket (frameRole h) h.chunk rank)

/-! ## Sending DATA frames (R238, R252, R253) -/

/-- Credits of a stream that a frame of `bucket` may use. -/
def TxStream.room (t : TxStream) (bucket : Nat) : Nat :=
  let lim := match t.lres with
    | some b => if b = bucket then t.limit else (t.limit + mod16 - 4) % mod16
    | none => t.limit
  if before16 lim t.next then 0 else sub16 lim t.next

/-- The engine of a PE may send DATA frames and work on chunks. -/
def peWorks (s : State) (p : Nat) : Bool :=
  linkLive s p && !(s.eng (peEng p)).fenced && !(s.eng (peEng p)).testing && !(s.eng (peEng p)).holding

/-- The frames of a stream that credit lets go, in order, each as it waits and as it is sent; a frame of the reserved bucket may
pass others. At most 36 are outstanding (R251). -/
def TxStream.sendable : Nat → TxStream → List (Frame × Frame)
  | 0, _ => []
  | fuel + 1, t =>
    match t.waiting.find? (fun f => decide (0 < t.room f.hdr.bucket)) with
    | none => []
    | some f =>
      if 36 ≤ t.unacked.length then []
      else
        let g := { f with hdr := { f.hdr with seq := t.next } }
        (f, g) :: sendable fuel { t with
          next := (t.next + 1) % mod16, waiting := t.waiting.erase f, unacked := t.unacked ++ [g] }

/-- The frames that a job of a PE's link may send: of its PERMITTED instances in ascending ticket order. -/
def jobFrames (s : State) (p job : Nat) : List (Frame × Frame) :=
  ((sortBy Inst.ticket ((s.link p).insts.filter (fun i => i.job == job && (s.link p).permitted i.ticket))).map (fun i =>
    (((s.link p).tx.filter (fun t => t.job == i.job && t.ticket == i.ticket)).map (fun t =>
      t.sendable (t.waiting.length + 1))).flatten)).flatten

/-- Bytes of a frame with its FCS (Table 12.1). -/
def frameLen (cfg : Nat) (f : Frame) : Nat := (if lcEncap cfg then 66 else 18) + 32 + f.payload.length + 4

/-- One frame of a stream is sent under its sequence number. -/
def sendOne (s : State) (p : Nat) (x : Frame × Frame) : State :=
  let h := x.1.hdr
  let s := s.modLink p (fun l =>
    let t := l.txOf h.job h.ticket h.dst
    l.setTx { t with next := (t.next + 1) % mod16, waiting := t.waiting.erase x.1, unacked := t.unacked ++ [x.2] })
  sendFrame s p x.2

/-- DATA frames can pass to the MAC: the link is up and their class not paused (R250, R260). -/
def dataGoes (s : State) (p : Nat) : Bool :=
  (s.eng (peEng p)).linkUp && !(s.link p).paused.contains (lcPrioData (s.eng (peEng p)).linkCfg)

/-- The link's arbiter (R24): jobs with frames eligible to send, in ascending job ID, each of weight 1, by quanta of
9,216 B. -/
def linkChildren (s : State) (p : Nat) (jobs : List (Nat × List (Frame × Frame))) : List ArbChild :=
  jobs.map (fun j =>
    { weight := 1, deficit := SMap.get (s.link p).deficit 0 j.1
      sizes := j.2.map (fun x => frameLen (s.eng (peEng p)).linkCfg x.2) })

/-- The frames of several children in the order of their grants. -/
def grantOrder (l : List (List (Frame × Frame))) : List Nat → List (Frame × Frame)
  | [] => []
  | i :: r =>
    match nth l i [] with
    | x :: q => x :: grantOrder (l.set i q) r
    | [] => grantOrder l r

/-- Every eligible frame of the PERMITTED instances is sent, as the link's arbiter grants. -/
def pumpTx (s : State) (p : Nat) : State :=
  if peWorks s p && dataGoes s p then
    let ids := sortBy id (((s.link p).insts.map (·.job)).eraseDups)
    let jobs := ids.map (fun j => (j, jobFrames s p j))
    let l := linkChildren s p jobs
    let r := arbiterRounds 9216 (roundsFor 9216 l) ((jobs.map (fun j => j.2.length)).sum) l
    let s := (grantOrder (jobs.map (·.2)) r.1).foldl (fun s x => sendOne s p x) s
    s.modLink p (fun k => { k with
      deficit := (List.range ids.length).foldl (fun m i => SMap.set m 0 (nth ids i 0) (nth r.2 i {}).deficit) [] })
  else s

/-- Frames handed to the stream to device `dst`. -/
def queueFrames (s : State) (p job ticket dst : Nat) (l : List Frame) : State :=
  s.modLink p (fun k =>
    let t := k.txOf job ticket dst
    k.setTx { t with waiting := t.waiting ++ l })

/-- The stream to `dst` has room for `n` more frames of a bucket than those that wait. -/
def hasRoom (s : State) (p job ticket dst bucket n : Nat) : Bool :=
  let t := (s.link p).txOf job ticket dst
  decide (t.waiting.length + n ≤ t.room bucket) && decide (t.waiting.length + t.unacked.length + n ≤ 36)

/-- Frames of a bucket that are not acknowledged, or wait to be sent. -/
def bucketFrames (s : State) (p job ticket bucket : Nat) : List Frame :=
  (((s.link p).tx.filter (fun t => t.job == job && t.ticket == ticket)).map (fun t => t.waiting ++ t.unacked)).flatten.filter
    (fun f => f.hdr.bucket == bucket)

/-! ## Receive buffers and credit (R238, R252, R253) -/

/-- Frames that an open descriptor expects from device `src` and has not worked on. -/
def missingFrom (d : Desc) (src : Nat) : Bool :=
  let r := rankOf d.coll.members src
  let got := (d.coll.received.filter (fun x => x.2.2.2.1 == r)).length
  if d.coll.phase ≠ 1 then false
  else if d.kind = 5 then decide (got < ceilDiv d.cap 2048 * d.frames true)
  else if d.kind = 6 then
    decide (got < (d.bucketPieces.filter (fun k => (d.pieceTo k).contains d.coll.self && d.pieceFrom k d.coll.self == r)).length *
      d.frames true)
  else true

/-- Buffers that each stream of an instance may hold, of the 16 that the instance has: an equal share while it is at least 4,
room for two chunks (R238); with more streams, 4 each for the streams that the lowest open bucket waits on, then for those
that another waits on (log 15). -/
def streamShare (s : State) (p : Nat) (i : Inst) (src : Nat) : Nat :=
  let all := (s.link p).rx.filter (fun r => r.job == i.job && r.ticket == i.ticket)
  if all.length ≤ 4 then 16 / max 1 all.length
  else
    let low (x : Nat) : Bool := (s.instDescs p i.job i.ticket).any (fun y => y.2.bucket == i.low && missingFrom y.2 x)
    let any (x : Nat) : Bool := (s.instDescs p i.job i.ticket).any (fun y => missingFrom y.2 x)
    let srcs := all.map (·.src)
    let want := srcs.filter low ++ srcs.filter (fun x => !low x && any x)
    if (want.take 4).contains src then 4 else 0

/-- A CREDIT frame with the stream's limit. With LRES its four highest credits are for bucket L; a stream whose share is no
more than 4 has no such restriction, since a sender ignores a CREDIT that would name the next bucket at the same limit
(R252, R253, log 16). -/
def sendCredit (s : State) (p : Nat) (r : RxStream) : State :=
  let i := (s.link p).inst? r.job r.ticket
  let low := (i.map Inst.low).getD 0
  let wide := (i.map (fun i => decide (4 < streamShare s p i r.src))).getD true
  let s := s.modLink p (fun l => l.setRx { r with sent := r.limit })
  sendCtrl s p { ownHdr s 3 r.src with
    job := r.job, ticket := r.ticket, seq := r.limit, flags := if wide then flLres else 0, bucket := if wide then low else 0 }

/-- Receive buffers that a stream holds: granted and not used, and occupied. -/
def RxStream.buffers (r : RxStream) : Nat :=
  (if before16 r.expect r.limit then sub16 r.limit r.expect else 0) + r.buf.length + r.kept.length

/-- Receive buffers of the store of 128 that are held, by an instance or by all (R238). -/
def heldBuffers (l : Link) (pick : RxStream → Bool) : Nat := ((l.rx.filter pick).map RxStream.buffers).sum
def storeBuffers : Nat := 128

/-- Buffers that an instance may still take: those free, less what the lowest ticket has not yet of its 16. -/
def freeBuffers (l : Link) (i : Inst) : Nat :=
  let kept := match (sortBy Inst.ticket l.insts).head? with
    | some j =>
      if j.job = i.job && j.ticket = i.ticket then 0
      else 16 - heldBuffers l (fun r => r.job == j.job && r.ticket == j.ticket)
    | none => 0
  storeBuffers - heldBuffers l (fun _ => true) - kept

/-- The limit of a stream rises with the buffers that are free; a rise of 4 is sent. -/
def grantStream (s : State) (p : Nat) (i : Inst) (src : Nat) : State :=
  match (s.link p).rx? i.job i.ticket src with
  | none => s
  | some r =>
    let rise := min (streamShare s p i src - r.buffers) (freeBuffers (s.link p) i)
    let r := { r with limit := (r.limit + rise) % mod16 }
    let s := s.modLink p (fun l => l.setRx r)
    if 4 ≤ sub16 r.limit r.sent then sendCredit s p r else s

/-- Credit of every PERMITTED instance, in ascending ticket order (R238). -/
def grantAll (s : State) (p : Nat) : State :=
  if linkLive s p then
    (sortBy Inst.ticket (s.link p).insts).foldl (fun s i =>
      if (s.link p).permitted i.ticket then
        ((s.link p).rx.filter (fun r => r.job == i.job && r.ticket == i.ticket)).foldl (fun s r => grantStream s p i r.src) s
      else s) s
  else s

/-- The half of a two-frame chunk that a frame carries. -/
def frameHalf (h : FrameHdr) : Nat := bit (bitAt h.flags 0)

/-- A built frame is acknowledged: what is left of a kept buffer. -/
def Kept.acked (k : Kept) (h : FrameHdr) : Kept :=
  if k.bucket = h.bucket && k.chunk = h.chunk && k.dist = bitAt h.flags 1 then { k with halves := k.halves.erase (frameHalf h) }
  else k

/-- The buffer kept for the frame that is acknowledged is released once every frame built from it is (R256). -/
def releaseKept (s : State) (p : Nat) (h : FrameHdr) : State :=
  s.modLink p (fun l => { l with rx := l.rx.map (fun r =>
    if r.job = h.job && r.ticket = h.ticket then
      { r with kept := (r.kept.map (·.acked h)).filter (fun k => !k.halves.isEmpty) }
    else r) })

/-! ## Rows of the link's streams -/

/-- ACK: frames before SEQ are released and enter the sent signature (R242, R254). -/
def takeAck (s : State) (p : Nat) (h : FrameHdr) : State :=
  let t := (s.link p).txOf h.job h.ticket h.src
  let gone := t.unacked.filter (fun f => before16 f.hdr.seq h.seq)
  if gone.isEmpty then s
  else
    let s := s.modLink p (fun l => { l.setTx { t with unacked := t.unacked.filter (fun f => !before16 f.hdr.seq h.seq) } with
      txq := l.txq.filter (fun f => !(f.hdr.ftype == 0 && f.hdr.job == h.job && f.hdr.ticket == h.ticket &&
        f.hdr.dst == h.src && bitAt f.hdr.flags 3 && before16 f.hdr.seq h.seq)) })
    gone.foldl (fun s f =>
      let s := releaseKept s p f.hdr
      match (s.link p).inst? h.job h.ticket with
      | none => s
      | some i =>
        s.modLink p (fun l =>
          let j := l.job h.job
          let (part, dg) := sigStep j.sentPart h.src i.self f
          l.setJob h.job { j with sentPart := part, sentSig := j.sentSig ^^^ dg })) s

/-- Unacknowledged frames from sequence `e` onward are sent again with RETX (R255); a WAITING instance sends none (R236). -/
def resend (s : State) (p : Nat) (t : TxStream) (e : Nat) : State :=
  let l := if (s.link p).permitted t.ticket then t.unacked.filter (fun f => !before16 f.hdr.seq e) else []
  l.foldl (fun s f =>
    sendFrame s p { f with hdr := { f.hdr with flags := f.hdr.flags ||| flRetx } }) s

def execNak (pe : Nat) (f : RxFrame) (s : State) : Host.Outcome State Fault Refusal :=
  .next (receive s pe 2 f true (fun s h =>
    let s := seeTicket s h.ticket
    let s := s.modLink pe (fun l => { l with cnt := { l.cnt with nakRx := satInc32 l.cnt.nakRx 1 } })
    let t := (s.link pe).txOf h.job h.ticket h.src
    if t.unacked.any (fun f => f.hdr.seq == h.seq) then resend s pe t h.seq else s))

def execRetransmitTimeout (pe job ticket dst : Nat) (s : State) : Host.Outcome State Fault Refusal :=
  .next (
    let t := (s.link pe).txOf job ticket dst
    match t.unacked with
    | f :: _ => if linkLive s pe && !(s.eng (peEng pe)).holding then resend s pe t f.hdr.seq else s
    | [] => s)

/-- ACK(e) of a stream. -/
def sendAck (s : State) (p : Nat) (r : RxStream) : State :=
  let s := s.modLink p (fun l => l.setRx { r with unackedRx := 0 })
  sendCtrl s p { ownHdr s 1 r.src with job := r.job, ticket := r.ticket, seq := r.expect }

/-- A stream's timer runs: its instance is present and the PE is not in a hold (R333). -/
def timerRuns (s : State) (p : Nat) : Bool := linkLive s p && !(s.eng (peEng p)).holding

def execAckTimer (pe job ticket src : Nat) (s : State) : Host.Outcome State Fault Refusal :=
  .next (match (s.link pe).rx? job ticket src with
    | some r => if timerRuns s pe && decide (0 < r.unackedRx) then sendAck s pe r else s
    | none => s)

/-- The instance of a stream is present and PERMITTED. -/
def streamPermitted (s : State) (p : Nat) (r : RxStream) : Bool :=
  ((s.link p).inst? r.job r.ticket).isSome && (s.link p).permitted r.ticket

def execCreditDelay (pe job ticket src : Nat) (s : State) : Host.Outcome State Fault Refusal :=
  .next (match (s.link pe).rx? job ticket src with
    | some r => if timerRuns s pe && streamPermitted s pe r && r.limit != r.sent then sendCredit s pe r else s
    | none => s)

def execCreditRepeat (pe job ticket src : Nat) (s : State) : Host.Outcome State Fault Refusal :=
  .next (match (s.link pe).rx? job ticket src with
    | some r => if timerRuns s pe && streamPermitted s pe r && before16 r.expect r.limit then sendCredit s pe r else s
    | none => s)

/-- A job's ticket is at most its most recently completed one (R257). -/
def isStale (s : State) (p job ticket : Nat) : Bool :=
  match ((s.link p).job job).lastDone with
  | some t => decide (ticket ≤ t)
  | none => false

/-- CREDIT: a higher limit is taken, with its reserved bucket; any other is ignored (R252, R253). -/
def takeCredit (s : State) (p : Nat) (h : FrameHdr) : State :=
  if ((s.link p).inst? h.job h.ticket).isNone && isStale s p h.job h.ticket then s
  else
    let t := (s.link p).txOf h.job h.ticket h.src
    let lres := if bitAt h.flags 5 then some h.bucket else none
    if before16 t.limit h.seq then s.modLink p (fun l => l.setTx { t with limit := h.seq, lres := lres })
    else s

end Sys2Proof.Machine
end

