-- ==== Sys2Proof/Machine/Course.lean ====
section
/-! DEFINITION. The work of a COLLECTIVE or REBOND at one PE: starting chains, courses and hops of arriving frames, the
bucket states of R237 (R224 to R234, R238, R269 to R275). -/

namespace Sys2Proof.Machine

/-! ## Units of a bucket -/

namespace Desc

/-- Members and own rank of the instance. -/
def cn (d : Desc) : Nat := d.coll.members.length
def cr (d : Desc) : Nat := d.coll.self

/-- Collective chunks of an all-to-all segment. -/
def a2aChunks (d : Desc) : Nat := ceilDiv d.cap 2048

/-- The chains that the member starts: as head, as origin, its segments, or the pieces it serves. -/
def starts (d : Desc) : List Nat :=
  let n := d.cn
  let r := d.cr
  if d.kind = 6 then (List.range d.bucketPieces.length).filter (fun x => !(d.pieceServes (nth d.bucketPieces x 0) r).isEmpty)
  else if d.kind = 5 then (if d.count = 0 then [] else List.range (n * d.a2aChunks))
  else if d.kind = 0 || d.kind = 2 then (d.chains n).filter (fun c => (c + 1) % max 1 n == r)
  else (d.chains n).filter (fun c => c % max 1 n == r)

/-- The frames that the member receives, as (role, chunk, half, sender's rank). -/
def expects (d : Desc) : List (Nat × Nat × Nat × Nat) :=
  let n := d.cn
  let r := d.cr
  let up := (r + n - 1) % max 1 n
  let hs (dist : Bool) := List.range (d.frames dist)
  let red := ((d.chains n).filter (fun c => (c + 1) % max 1 n != r)).map (fun c => (hs false).map (fun h => (0, c, h, up)))
  let dis := ((d.chains n).filter (fun c => c % max 1 n != r)).map (fun c => (hs true).map (fun h => (1, c, h, up)))
  if d.count = 0 && d.kind ≠ 6 then []
  else if d.kind = 6 then
    ((List.range d.bucketPieces.length).map (fun x =>
      let k := nth d.bucketPieces x 0
      if (d.pieceTo k).contains r && d.pieceFrom k r != r then (hs true).map (fun h => (3, x, h, d.pieceFrom k r)) else [])).flatten
  else if d.kind = 5 then
    (((List.range n).filter (· ≠ r)).map (fun p =>
      ((List.range d.a2aChunks).map (fun x => (hs true).map (fun h => (2, x, h, p)))).flatten)).flatten
  else if d.kind = 0 then red.flatten
  else if d.kind = 2 then red.flatten ++ dis.flatten
  else dis.flatten

/-- A frame has been worked on. -/
def got (d : Desc) (u : Nat × Nat × Nat × Nat) : Bool :=
  d.coll.received.any (fun x => x.1 == u.1 && x.2.1 == u.2.1 && x.2.2.1 == u.2.2.1 && x.2.2.2.1 == u.2.2.2)

/-- Every read, write and send of the member is made. -/
def collDone (d : Desc) : Bool := d.starts.all (fun c => d.coll.started.contains c) && d.expects.all d.got

/-- The segment range of element run `x` (a chunk of a segment of `total` elements from `base`). -/
def segRange (base total x : Nat) : Nat × Nat := (base + x * 2048, min 2048 (total - x * 2048))

/-- The data of an all-to-all as tensors. -/
def a2aSrc (d : Desc) (s : State) : Tensor := { base := s.addrOf d.swin (a2aData d.soff d.cn), f := d.sfmt, n := d.count }
def a2aDst (d : Desc) (s : State) : Tensor := { base := s.addrOf d.dwin (a2aData d.doff d.cn), f := d.sfmt, n := d.cn * d.cap }

/-- Source and destination ranges of a run of elements, and the count of rank `p` in an all-to-all. -/
def srcRun (d : Desc) (lo len : Nat) : List Acc :=
  if d.kind = 5 then tensorSpan d.swin (a2aData d.soff d.cn) d.sfmt d.count lo (lo + len) false
  else if d.kind = 6 then tensorSpan d.swin d.soff d.sfmt d.srcBond.shard lo (lo + len) false
  else tensorSpan d.swin d.soff d.sfmt (d.collSrcN d.cn) lo (lo + len) false
def dstRun (d : Desc) (lo len : Nat) : List Acc :=
  if d.kind = 5 then tensorSpan d.dwin (a2aData d.doff d.cn) d.sfmt (d.cn * d.cap) lo (lo + len) true
  else if d.kind = 6 then tensorSpan d.dwin d.doff d.dfmt d.dstBond.shard lo (lo + len) true
  else tensorSpan d.dwin d.doff d.dfmt (d.collDstN d.cn) lo (lo + len) true
def countAcc (d : Desc) (p : Nat) : Acc := { win := d.dwin, lo := d.doff + 4 * p, hi := d.doff + 4 * p + 4, wr := true }
def countsSrc (d : Desc) : Acc := { win := d.swin, lo := d.soff, hi := d.soff + 4 * d.cn }
def bitmapAcc (d : Desc) : Acc := { win := d.bmWin, lo := d.bmOff, hi := d.bmOff + ceilDiv d.count 8, wr := true }
def rowScaleAcc (d : Desc) (g : Nat) : List Acc :=
  if d.dfmt.rowsc then
    let o := d.rsOff + 4 * (g / max 1 (nth d.srcBond.dims 0 1))
    [{ win := d.rsWin, lo := o, hi := o + 4 }]
  else []

end Desc

/-! ## Writing results -/

/-- A run of output elements from index `idx` is noted: events, nonfinite elements, and the bytes for the watch, with the
row scale `rs` of its row. -/
def Desc.noteRun (d : Desc) (f : FmtW) (idx : Nat) (run : WChunk) (evs : List Ev) (rs : Option Nat) : Desc :=
  let d := (List.range run.codes.length).foldl (fun d j =>
    d.note (idx + j) { nth evs j Ev.none with nf := run.nonfinite f j }) d
  if d.watchCfg.active then
    { d with coll := { d.coll with wrote := d.coll.wrote ++
      [{ lo := idx, codes := run.codes, scales := run.scales, quoins := run.quoins, rs := rs }] } }
  else d

/-- Events of a rounding whose element this member does not write here. -/
def Desc.noteEvents (d : Desc) (idx : Nat) (evs : List Ev) : Desc :=
  (List.range evs.length).foldl (fun d j => d.note (idx + j) { nth evs j Ev.none with nf := false }) d

/-- A run written to the destination from local index `lo`, in a row of scale `rs`. -/
def writeRunAt (s : State) (c : Nat) (d : Desc) (t : Tensor) (lo : Nat) (run : WChunk) (evs : List Ev) (rs : Option Nat) : State :=
  let s := s.setMem (writeRaw s.mem t lo run)
  let s := s.modDesc c d.seq (·.noteRun t.f lo run evs rs)
  let s := countOut s (s.engOf c) (some (c, d.seq)) t.w run.codes.length
  postWrites s c d.seq (d.dstRun lo run.codes.length)

/-- Raises of a course at output index `idx`: AUX, the job's counter, the engine's counter (R230). -/
def countRaises (s : State) (p c : Nat) (d : Desc) (idx : Nat) (l : List (Nat × Nat)) : State :=
  let n := (l.map (·.2)).sum
  if n = 0 then s
  else
    let s := s.modDesc c d.seq (fun d => l.foldl (fun d x => d.noteAux (idx + x.1) x.2) d)
    let s := s.modLink p (fun l => l.setJob d.job { l.job d.job with rescales := (l.job d.job).rescales + n })
    s.modEng (peEng p) (fun x => { x with cnt := { x.cnt with rescales := (x.cnt.rescales + n) % 2 ^ 32 } })

/-! ## Frames -/

/-- The part of a run that one frame carries. -/
def WChunk.part (c : WChunk) (lo len : Nat) : WChunk := { c with codes := (c.codes.drop lo).take len }

/-- A DATA frame of a chunk (R246, R247): `h` is the half, `run` its elements. -/
def dataFrame (s : State) (d : Desc) (dst : Nat) (dist : Bool) (chunk course h : Nat) (rescale : Bool) (run : WChunk) : Frame :=
  let f := d.wireFmt dist
  let mb := d.mortarBytes dist
  let pay := run.bytes f.fmt.w mb
  { hdr := { ownHdr s 0 dst with
      job := d.job, ticket := d.ticket, bucket := d.bucket, chunk := chunk, course := course, pfmt := f.elem
      plen := pay.length, mlen := mb * run.scales.length, qlen := 4 * run.quoins.length, kind := d.kind
      flags := h * flFhalf + (if dist && d.kind ≤ 4 then flDist else 0) + (if rescale then flRescale else 0) +
        (if d.pairSum then flPairsum else 0) }
    payload := pay }

/-- The frames of a whole chunk of `len` elements. -/
def chunkFrames (s : State) (d : Desc) (dst : Nat) (dist : Bool) (chunk course : Nat) (rescale : Bool) (run : WChunk) : List Frame :=
  (List.range (d.frames dist)).map (fun h =>
    let r := d.halfRange dist run.codes.length h
    dataFrame s d dst dist chunk course h rescale (run.part r.1 r.2))

/-- Frames of a descriptor go to the stream of a rank. -/
def sendRun (s : State) (p c : Nat) (d : Desc) (rank : Nat) (l : List Frame) : State :=
  let s := queueFrames s p d.job d.ticket (nth d.coll.members rank 0) l
  countOut s (peEng p) (some (c, d.seq)) ((l.head?.map (fun f => (fmtD f.hdr.pfmt).w)).getD 8)
    (l.foldl (fun a f => a + 8 * (f.hdr.plen - f.hdr.mlen - f.hdr.qlen) / max 1 (fmtD f.hdr.pfmt).w) 0)

/-- A rank has announced the bucket to this PE. -/
def announced (s : State) (p : Nat) (d : Desc) (rank : Nat) : Bool :=
  (s.link p).ann.any (fun a => a.job == d.job && a.ticket == d.ticket && a.bucket == d.bucket &&
    a.src == nth d.coll.members rank 0)

/-- A rank has announced the bucket (R237), and has granted room for `n` frames (R238): two chunks to start a chain, the frames
of one to forward it. -/
def mayForward (s : State) (p : Nat) (d : Desc) (rank n : Nat) : Bool :=
  announced s p d rank && hasRoom s p d.job d.ticket (nth d.coll.members rank 0) d.bucket n
def mayStart (s : State) (p : Nat) (d : Desc) (rank : Nat) (dist : Bool) : Bool := mayForward s p d rank (2 * d.frames dist)

/-- A chunk that carried RESCALE was written or forwarded (R230). -/
def markRescale (s : State) (c q : Nat) (b : Bool) : State :=
  if b then s.modDesc c q (fun d => { d with rescale := true }) else s

/-- A unit of work is done. -/
def markStarted (s : State) (c q chain : Nat) : State :=
  s.modDesc c q (fun d => { d with coll := { d.coll with started := d.coll.started ++ [chain] } })
def markGot (s : State) (c q : Nat) (u : Nat × Nat × Nat × Nat × Nat) : State :=
  s.modDesc c q (fun d => { d with coll := { d.coll with received := d.coll.received ++ [u] } })

/-- Work of a descriptor on ranges that it reads issues: it is started by the first (R314, R318). -/
def issueWork (s : State) (c : Nat) (d : Desc) (l : List Acc) : State :=
  countIssue (startDesc (postReads s c l) c (s.desc c d.seq)) c d.seq

/-! ## Starting chains (R224, R238) -/

/-- Chain `k` of a chain kind is started by its head or origin. -/
def startChain (s : State) (p c : Nat) (d : Desc) (k : Nat) : State :=
  let n := d.cn
  let r := d.cr
  let nx := (r + 1) % max 1 n
  let (i, len) := d.chainRange n k
  let red := d.kind = 0 || d.kind = 2
  if n ≠ 1 && !mayStart s p d nx (!red) then s
  else
    let own := d.srcRun (d.srcIx n r i) len ++ (if n = 1 || !red then d.dstRun (d.dstIx n r i) len else [])
    let (s, ok) := gate s c d.seq own
    if !ok then s
    else
      let s := markStarted (issueWork s c d own) c d.seq k
      let s := countIn s (peEng p) (some (c, d.seq)) d.sfmt.fmt.w len
      let t := d.collDst s n
      if red then
        let run := courseFirst s d n r i len
        if n = 1 then
          let (o, _) := courseResult d n i run
          writeRunAt s c d t (d.dstIx n r i) o.run o.evs none
        else sendRun s p c d nx (chunkFrames s d (nth d.coll.members nx 0) false k 0 false run)
      else
        let o := originRun s d n r i len
        let s := writeRunAt s c d t (d.dstIx n r i) o.run o.evs none
        if n = 1 then s else sendRun s p c d nx (chunkFrames s d (nth d.coll.members nx 0) true k 1 false o.run)

/-- Valid elements of segment `x` of an all-to-all (R234). -/
def a2aCount (s : State) (d : Desc) (x : Nat) : Nat := min (Mem.rd s.mem (s.addrOf d.swin (d.soff + 4 * x)) 4) (d.shardLen d.cn)

/-- The dropped-position bitmap, and the elements dropped (R234). -/
def a2aBitmap (s : State) (c : Nat) (d : Desc) : State :=
  let sl := d.shardLen d.cn
  let drop (i : Nat) : Bool := decide (d.cap ≤ i % max 1 sl) && decide (i % max 1 sl < a2aCount s d (i / max 1 sl))
  let bytes := (List.range (ceilDiv d.count 8)).map (fun b =>
    BitVec.ofNat 8 ((List.range 8).foldl (fun a j => a + (if 8 * b + j < d.count && drop (8 * b + j) then 2 ^ j else 0)) 0))
  let lost := (List.range d.count).filter drop
  let s := s.setMem (Mem.wrBytes s.mem (s.addrOf d.bmWin d.bmOff) bytes)
  let s := s.modDesc c d.seq (fun d => lost.foldl (fun d i => d.noteAux i 1) { d with dropped := !lost.isEmpty })
  postWrites s c d.seq [d.bitmapAcc]

/-- Segment chunk `k` of an all-to-all: sent to its rank, or copied. -/
def startSegment (s : State) (p c : Nat) (d : Desc) (k : Nat) : State :=
  let n := d.cn
  let r := d.cr
  let dest := k / max 1 d.a2aChunks
  let x := k % max 1 d.a2aChunks
  let (off, len) := Desc.segRange 0 d.cap x
  if dest ≠ r && !mayStart s p d dest true then s
  else
    let (s, ok) := gate s c d.seq [d.countsSrc]
    if !ok then s
    else
      let valid := min len (min (a2aCount s d dest) d.cap - off)
      let (s, ok) := gate s c d.seq (d.srcRun (dest * d.shardLen n + off) valid ++
        (if dest = r then d.dstRun (r * d.cap + off) len ++ [d.countAcc r] ++ (if x = 0 then [d.bitmapAcc] else []) else []))
      if !ok then s
      else
        let s := markStarted (issueWork s c d (d.countsSrc :: d.srcRun (dest * d.shardLen n + off) valid)) c d.seq k
        let s := countIn s (peEng p) (some (c, d.seq)) d.sfmt.fmt.w valid
        let raw := readRaw s.mem (d.a2aSrc s) (dest * d.shardLen n + off) valid
        let run : WChunk := { codes := raw.codes ++ List.replicate (len - valid) 0 }
        if dest = r then
          let s := if x = 0 then
              let s := a2aBitmap s c d
              let s := s.setMem (Mem.wr s.mem (s.addrOf d.dwin (d.doff + 4 * r)) 4 (min (a2aCount s d r) d.cap))
              postWrites s c d.seq [d.countAcc r]
            else s
          writeRunAt s c d (d.a2aDst s) (r * d.cap + off) run [] none
        else sendRun s p c d dest (chunkFrames s d (nth d.coll.members dest 0) true x valid false run)

/-- A piece's row scale goes to the destination where the piece starts a local row (R275). -/
def writeRowScale (s : State) (d : Desc) (g : Nat) : State :=
  let t := d.rebDst s
  let lo := d.dstBond.localIx g
  if d.dfmt.rowsc && lo % max 1 t.d = 0 then
    s.setMem (Mem.wr s.mem (t.base + t.planes.rowscale + 4 * t.row lo) 4 (rebScaleAt s d g))
  else s

/-- The row scale by which the elements of a piece stand for their values (R42, R53). -/
def rebRow (s : State) (d : Desc) (g : Nat) : Option Nat := if d.dfmt.rowsc then some (rebScaleAt s d g) else none

/-- Piece `x` of the bucket of a REBOND is converted once, written, and sent to every rank it serves (R270). -/
def startPiece (s : State) (p c : Nat) (d : Desc) (x : Nat) : State :=
  let r := d.cr
  let k := nth d.bucketPieces x 0
  let (g, len) := piece d.srcBond d.dstBond k
  let dest := d.pieceServes k r
  let away := dest.filter (· ≠ r)
  if !away.all (fun y => mayStart s p d y true) then s
  else
    let lo := d.dstBond.localIx g
    let (s, ok) := gate s c d.seq (d.srcRun (d.srcBond.localIx g) len ++ d.rowScaleAcc g ++
      (if dest.contains r then d.dstRun lo len else []))
    if !ok then s
    else
      let s := markStarted (issueWork s c d (d.srcRun (d.srcBond.localIx g) len ++ d.rowScaleAcc g)) c d.seq x
      let s := countIn s (peEng p) (some (c, d.seq)) d.sfmt.fmt.w len
      let o := pieceRun s d k
      let s := if dest.contains r then writeRunAt (writeRowScale s d g) c d (d.rebDst s) lo o.run o.evs (rebRow s d g)
        else s.modDesc c d.seq (·.noteEvents (2 ^ 40) o.evs)
      away.foldl (fun s y => sendRun s p c d y (chunkFrames s d (nth d.coll.members y 0) true x 0 false o.run)) s

/-- An active watch waits for the watch unit (R346). -/
def watchReady (s : State) (c : Nat) (d : Desc) : Bool := !d.watchCfg.active || (s.eng (s.engOf c)).watchFn == .on

/-- The work of an OPEN bucket may go on at this PE. -/
def bucketWorks (s : State) (p c : Nat) (d : Desc) : Bool :=
  peWorks s p && d.coll.phase == 1 && !d.over && ((s.link p).inst? d.job d.ticket).isSome &&
    (s.link p).permitted d.ticket && watchReady s c d

/-- A chain that the member starts and has not started. -/
def startUnit (s : State) (p c : Nat) (d : Desc) (k : Nat) : State :=
  if bucketWorks s p c d && d.starts.contains k && !d.coll.started.contains k then
    (if d.kind = 6 then startPiece s p c d k else if d.kind = 5 then startSegment s p c d k else startChain s p c d k)
  else s

/-! ## Arriving frames -/

/-- Role, DIST as the formats see it, half, and the elements of a frame's chunk: first bucket index and length. -/
def frameDist (d : Desc) (h : FrameHdr) : Bool := d.kind = 5 || d.kind = 6 || bitAt h.flags 1
def frameRange (d : Desc) (h : FrameHdr) : Nat × Nat :=
  let whole := if d.kind = 6 then piece d.srcBond d.dstBond (nth d.bucketPieces h.chunk 0)
    else if d.kind = 5 then Desc.segRange (rankOf d.coll.members h.src * d.cap) d.cap h.chunk
    else d.chainRange d.cn h.chunk
  let r := d.halfRange (frameDist d h) whole.2 (frameHalf h)
  (whole.1 + r.1, r.2)

/-- A frame agrees with the descriptor of its bucket (R241, R257). -/
def frameFits (d : Desc) (f : Frame) : Bool :=
  let h := f.hdr
  let dist := frameDist d h
  h.kind == d.kind && bitAt h.flags 4 == d.pairSum && h.pfmt == (d.wireFmt dist).elem &&
    d.expects.contains (frameRole h, h.chunk, frameHalf h, rankOf d.coll.members h.src) &&
    f.payload.length == d.payloadLen dist (frameRange d h).2

/-- The receive buffer of a frame is kept until the frames built from it are acknowledged (R256). -/
def keepBuffer (s : State) (p : Nat) (h : FrameHdr) (built : List Frame) : State :=
  s.modLink p (fun l => match l.rx? h.job h.ticket h.src, built with
    | some r, f :: _ => l.setRx { r with kept := r.kept ++
        [{ bucket := f.hdr.bucket, chunk := f.hdr.chunk, dist := bitAt f.hdr.flags 1, halves := built.map (fun g => frameHalf g.hdr) }] }
    | _, _ => l)

/-- Frames built from an arriving frame, whose buffer is kept, go on to a rank (R238, R256). -/
def forwardRun (s : State) (p c : Nat) (d : Desc) (h : FrameHdr) (rank : Nat) (l : List Frame) : State :=
  sendRun (keepBuffer s p h l) p c d rank l

/-- A reduce-phase frame: the course, and at the tail the result (R224 to R229). -/
def workCourse (s : State) (p c : Nat) (d : Desc) (f : Frame) : State × Bool :=
  let h := f.hdr
  let n := d.cn
  let r := d.cr
  let nx := (r + 1) % max 1 n
  let (i, len) := frameRange d h
  let tail := h.chunk % max 1 n = r
  let same := decide (d.frames false = d.frames true)
  let sends := if !tail then 1 else if d.kind = 2 then (if same then 1 else d.frames true) else 0
  let (s, ok) := gate s c d.seq (d.srcRun (d.srcIx n r i) len ++ (if tail then d.dstRun (d.dstIx n r i) len else []))
  if !ok || (sends ≠ 0 && !mayForward s p d nx sends) then (s, false)
  else
    let s := issueWork s c d (d.srcRun (d.srcIx n r i) len)
    let s := countIn (countIn s (peEng p) (some (c, d.seq)) (d.wireFmt false).fmt.w len) (peEng p) (some (c, d.seq)) d.sfmt.fmt.w len
    let o := courseNext s d n r (h.course + 1) i (d.parsePayload false len f.payload)
    let resc := bitAt h.flags 2 || !o.raises.isEmpty
    let at' := if d.kind = 2 || tail then d.dstIx n r i else 2 ^ 40
    let s := s.modDesc c d.seq (·.noteEvents at' o.evs)
    let s := markRescale (countRaises s p c d at' o.raises) c d.seq resc
    let s := markGot s c d.seq (0, h.chunk, frameHalf h, rankOf d.coll.members h.src, h.course)
    if !tail then
      (forwardRun s p c d h nx
        [dataFrame s d (nth d.coll.members nx 0) false h.chunk (h.course + 1) (frameHalf h) resc o.run], true)
    else
      let (res, carry) := courseResult d n i o.run
      let s := writeRunAt s c d (d.collDst s n) (d.dstIx n r i) res.run res.evs none
      if d.kind = 2 then
        let dest := nth d.coll.members nx 0
        (forwardRun s p c d h nx (if same then
            [dataFrame s d dest true h.chunk 1 (frameHalf h) resc carry]
          else chunkFrames s d dest true h.chunk 1 resc carry), true)
      else (s, true)

/-- A distribution frame: written, and forwarded unless this is the last hop. -/
def workHop (s : State) (p c : Nat) (d : Desc) (f : Frame) : State × Bool :=
  let h := f.hdr
  let n := d.cn
  let r := d.cr
  let nx := (r + 1) % max 1 n
  let (i, len) := frameRange d h
  let last := nx = h.chunk % max 1 n
  let (s, ok) := gate s c d.seq (d.dstRun (d.dstIx n r i) len)
  if !ok || (!last && !mayForward s p d nx 1) then (s, false)
  else
    let s := issueWork s c d []
    let s := countIn s (peEng p) (some (c, d.seq)) (d.wireFmt true).fmt.w len
    let run := d.parsePayload true len f.payload
    let o : RunOut := if d.pairSum then (courseResult d n i run).1 else { run := run }
    let s := writeRunAt s c d (d.collDst s n) (d.dstIx n r i) o.run o.evs none
    let s := markRescale s c d.seq (bitAt h.flags 2)
    let s := markGot s c d.seq (1, h.chunk, frameHalf h, rankOf d.coll.members h.src, h.course)
    if last then (s, true)
    else
      (forwardRun s p c d h nx
        [dataFrame s d (nth d.coll.members nx 0) true h.chunk (h.course + 1) (frameHalf h) (bitAt h.flags 2) run], true)

/-- A segment chunk of an all-to-all, with the count that its segment has so far (R234, R247). -/
def workSegment (s : State) (p c : Nat) (d : Desc) (f : Frame) : State × Bool :=
  let h := f.hdr
  let (i, len) := frameRange d h
  let from' := rankOf d.coll.members h.src
  let (s, ok) := gate s c d.seq (d.dstRun i len ++ [d.countAcc from'])
  if !ok then (s, false)
  else
    let s := issueWork s c d []
    let s := countIn s (peEng p) (some (c, d.seq)) d.sfmt.fmt.w len
    let s := writeRunAt s c d (d.a2aDst s) i (d.parsePayload true len f.payload) [] none
    let s := markGot s c d.seq (2, h.chunk, frameHalf h, from', h.course)
    let sum := ((s.desc c d.seq).coll.received.filter (fun x => x.1 == 2 && x.2.2.1 == 0 && x.2.2.2.1 == from')).foldl
      (fun a x => a + x.2.2.2.2) 0
    let s := s.setMem (Mem.wr s.mem (s.addrOf d.dwin (d.doff + 4 * from')) 4 sum)
    (postWrites s c d.seq [d.countAcc from'], true)

/-- A piece of a REBOND (R275). -/
def workPiece (s : State) (p c : Nat) (d : Desc) (f : Frame) : State × Bool :=
  let h := f.hdr
  let (g, len) := frameRange d h
  let lo := d.dstBond.localIx g
  let (s, ok) := gate s c d.seq (d.rowScaleAcc g ++ d.dstRun lo len)
  if !ok then (s, false)
  else
    let s := issueWork s c d (d.rowScaleAcc g)
    let s := countIn s (peEng p) (some (c, d.seq)) d.dfmt.fmt.w len
    let s := writeRunAt (writeRowScale s d g) c d (d.rebDst s) lo (d.parsePayload true len f.payload) [] (rebRow s d g)
    (markGot s c d.seq (3, h.chunk, frameHalf h, rankOf d.coll.members h.src, h.course), true)

/-- Work on an accepted frame. The answer says whether its buffer is free again or kept for the frame built from it: the
frame of a descriptor that has ended is given up. -/
def workFrame (s : State) (p : Nat) (f : Frame) : State × Bool :=
  let h := f.hdr
  match s.bucketDesc p h.job h.ticket h.bucket with
  | none => (s, true)
  | some (c, d) =>
    if d.over then (s, true)
    else if !bucketWorks s p c d then (s, false)
    else if d.kind = 6 then workPiece s p c d f
    else if d.kind = 5 then workSegment s p c d f
    else if bitAt h.flags 1 then workHop s p c d f
    else workCourse s p c d f

/-- Work on the frames that wait in the buffers of a stream. -/
def workStream (s : State) (p : Nat) (r : RxStream) : State :=
  r.buf.foldl (fun s f =>
    let (s, done) := workFrame s p f
    if done then
      s.modLink p (fun l => match l.rx? r.job r.ticket r.src with
        | some x => l.setRx { x with buf := x.buf.erase f }
        | none => l)
    else s) s

/-! ## Bucket states (R237, Table 11.6) -/

/-- OPEN to SETTLING when the member's work is done and sent; then, with every frame acknowledged, the descriptor has done
all its work. -/
def settleOne (s : State) (p c q : Nat) : State :=
  let d := s.desc c q
  if d.over then s
  else
    let l := bucketFrames s p d.job d.ticket d.bucket
    let unsent := ((s.link p).tx.filter (fun t => t.job == d.job && t.ticket == d.ticket)).any (fun t =>
      t.waiting.any (fun f => f.hdr.bucket == d.bucket))
    let s := if d.coll.phase = 1 && d.collDone && !unsent then
        s.modDesc c q (fun d => { d with coll := { d.coll with phase := 2 } })
      else s
    if (s.desc c q).coll.phase = 2 && l.isEmpty then
      (startDesc s c (s.desc c q)).modDesc c q (fun d => { d with finished := true })
    else s

def settle (s : State) (p : Nat) : State := (s.collsAt p).foldl (fun s x => settleOne s p x.1 x.2.seq) s

/-- Everything that a PE's link can do now: pass frames on, work on buffered frames, grant credit, send, settle buckets. -/
def workLink (s : State) (p : Nat) : State :=
  if peWorks s p then
    let s := (sortBy Inst.ticket (s.link p).insts).foldl (fun s i =>
      ((s.link p).rx.filter (fun r => r.job == i.job && r.ticket == i.ticket)).foldl (fun s r => workStream s p r) s) s
    settle (pumpTx (grantAll (pump s p) p) p) p
  else s

/-! ## What has still to be touched, for DONE (R240) -/

/-- A frame of chunk `k` with bytes that this member read from its source is not acknowledged: its course frames, and those of
the distribution that it began (R240, R256); to rank `dest` where one is named. -/
def srcFrameOut (s : State) (p : Nat) (d : Desc) (k : Nat) (dest : Option Nat) : Bool :=
  (bucketFrames s p d.job d.ticket d.bucket).any (fun f =>
    f.hdr.chunk == k && (4 < d.kind || !bitAt f.hdr.flags 1 || k % max 1 d.cn == d.cr) &&
      (dest.isNone || some f.hdr.dst == dest.map (fun y => nth d.coll.members y 0)))

/-- Every frame of the chunk that arrives in a role, from one rank where it is named, has been worked on. -/
def Desc.gotAll (d : Desc) (role k : Nat) (src : Option Nat) : Bool :=
  d.expects.all (fun u => !(u.1 == role && u.2.1 == k && (src.isNone || some u.2.2.2 == src)) || d.got u)

/-- What an all-to-all has still to touch: counts, the segments of its source, the segments and counts of its destination and
the bitmap. -/
def segmentsRemain (s : State) (p : Nat) (d : Desc) : List Acc :=
  let n := d.cn
  let r := d.cr
  let xs := List.range d.a2aChunks
  let has (y x : Nat) : Bool := d.coll.started.contains (y * d.a2aChunks + x)
  let wrote (y x : Nat) : Bool := if y = r then has r x else d.gotAll 2 x (some y)
  ((List.range n).map (fun y =>
    (xs.map (fun x =>
      let g := Desc.segRange 0 d.cap x
      (if has y x && !(y != r && srcFrameOut s p d x (some y)) then []
        else d.srcRun (y * d.shardLen n + g.1) (min g.2 (d.shardLen n - g.1))) ++
        (if wrote y x then [] else d.dstRun (y * d.cap + g.1) g.2))).flatten ++
      (if xs.all (wrote y) then [] else [d.countAcc y]))).flatten ++
    (if (List.range n).all (fun y => xs.all (has y)) then [] else [d.countsSrc]) ++
    (if has r 0 then [] else [d.bitmapAcc])

/-- What a REBOND has still to touch: the pieces that it serves and those that it takes. -/
def piecesRemain (s : State) (p : Nat) (d : Desc) : List Acc :=
  let r := d.cr
  ((List.range d.bucketPieces.length).map (fun x =>
    let k := nth d.bucketPieces x 0
    let (g, len) := piece d.srcBond d.dstBond k
    let reads := !(d.pieceServes k r).isEmpty && !(d.coll.started.contains x && !srcFrameOut s p d x none)
    let writes := (d.pieceTo k).contains r &&
      !(if d.pieceFrom k r = r then d.coll.started.contains x else d.gotAll 3 x none)
    (if reads then d.srcRun (d.srcBond.localIx g) len else []) ++
      (if reads || writes then d.rowScaleAcc g else []) ++
      (if writes then d.dstRun (d.dstBond.localIx g) len else []))).flatten

/-- The ranges that a COLLECTIVE or REBOND has still to read, hold for its unacknowledged frames, or write. -/
def collRemain (s : State) (p : Nat) (d : Desc) : List Acc :=
  let n := d.cn
  let r := d.cr
  if d.finished || (d.count = 0 && d.kind ≠ 6) then []
  else if d.kind = 6 then piecesRemain s p d
  else if d.kind = 5 then segmentsRemain s p d
  else
    let red := d.kind = 0 || d.kind = 2
    ((d.chains n).map (fun k =>
      let (i, len) := d.chainRange n k
      let mine := if red then (k + 1) % max 1 n = r else k % max 1 n = r
      let reads := red || mine
      let readDone := (if mine then d.coll.started.contains k else d.gotAll 0 k none) && !srcFrameOut s p d k none
      let writes := d.kind ≠ 0 || k % max 1 n = r
      let wrDone :=
        if red && k % max 1 n = r then (if n = 1 then d.coll.started.contains k else d.gotAll 0 k none)
        else if !red && mine then d.coll.started.contains k
        else d.gotAll 1 k none
      (if reads && !readDone then d.srcRun (d.srcIx n r i) len else []) ++
        (if writes && !wrDone then d.dstRun (d.dstIx n r i) len else []))).flatten

end Sys2Proof.Machine
end

