-- ==== Sys2Proof/Machine/Data.lean ====
section
/-! DEFINITION. The rows that carry a bucket: DATA, ACK, CREDIT, ANNOUNCE and ABORT frames arriving, a bucket issuing, and
a chain starting (R236, R237, R241, R254 to R257). -/

namespace Sys2Proof.Machine

/-! ## Announcements and aborts -/

/-- A bucket's descriptor ends with TICKET_ABORT, and the abort goes to the group (R241). -/
def abortBucket (s : State) (p c : Nat) (d : Desc) : State :=
  let s := if d.coll.aborted then s
    else
      let s := s.modDesc c d.seq (fun x => { x with coll := { x.coll with aborted := true } })
      sendAbort s p d.coll.members d.job d.ticket d.bucket
  endDesc s c d.seq stTICKETABORT

/-- PFMT of an announcement: the first phase of the kind on the wire (Table 12.3). -/
def Desc.annFmt (d : Desc) : Nat := (d.wireFmt (!(d.kind == 0 || d.kind == 2))).elem

/-- An announcement agrees with the descriptor of its bucket (R257). Members of a REBOND may differ in ROWLEN (R271). -/
def annAgrees (d : Desc) (a : Ann) : Bool :=
  a.kind == d.kind && a.pairsum == d.pairSum && a.count == d.count && a.pfmt == d.annFmt &&
    (if d.kind = 6 then { FmtW.ofNat a.sfmt with rowlen := 0 } == { d.sfmt with rowlen := 0 } else a.sfmt == d.sfmtW)

/-- The announcement of a bucket, kept until its instance is complete. -/
def Link.putAnn (l : Link) (a : Ann) : Link :=
  { l with ann := l.ann.filter (fun x => !(x.job == a.job && x.ticket == a.ticket && x.bucket == a.bucket && x.src == a.src)) ++
      [a] }

/-- An ANNOUNCE frame as it is kept (Table 12.4). -/
def annOf (f : Frame) : Ann :=
  let h := f.hdr
  { job := h.job, ticket := h.ticket, bucket := h.bucket, src := h.src, kind := h.kind, pfmt := h.pfmt
    pairsum := bitAt h.flags 4, count := leNat (f.payload.take 8) % 2 ^ 40, sfmt := leNat ((f.payload.drop 8).take 8) }

def takeAnnounce (s : State) (p : Nat) (f : Frame) : State :=
  let h := f.hdr
  if ((s.link p).inst? h.job h.ticket).isNone && isStale s p h.job h.ticket then s
  else
    let a := annOf f
    let s := s.modLink p (·.putAnn a)
    match s.bucketDesc p h.job h.ticket h.bucket with
    | some (c, d) => if !d.over && !annAgrees d a then abortBucket s p c d else s
    | none => s

def execAnnounce (pe : Nat) (f : RxFrame) (s : State) : Host.Outcome State Fault Refusal :=
  .next (receive s pe 4 f true (fun s h => workLink (takeAnnounce (seeTicket s h.ticket) pe f.frame) pe))

/-- ABORT ends the descriptor of its bucket, unless it has completed (R241). -/
def execAbort (pe : Nat) (f : RxFrame) (s : State) : Host.Outcome State Fault Refusal :=
  .next (receive s pe 5 f true (fun s h =>
    let s := seeTicket s h.ticket
    match s.bucketDesc pe h.job h.ticket h.bucket with
    | some (c, d) => workLink (endDesc s c d.seq stTICKETABORT) pe
    | none => s))

/-! ## DATA frames -/

/-- What a DATA frame meets (R254 to R257). -/
inductive DataFate where
  | stale | proto | abort | accept | dup | gap | full
  deriving DecidableEq, Repr, Inhabited

/-- An open bucket of the frame's job under another ticket (R241). -/
def otherTicket (s : State) (p : Nat) (h : FrameHdr) : Option (Nat × Desc) :=
  (s.collsAt p).find? (fun x => x.2.job == h.job && x.2.bucket == h.bucket && x.2.ticket != h.ticket &&
    decide (1 ≤ x.2.coll.phase) && !x.2.over)

/-- The bucket is announced at this PE: OPEN, SETTLING or COMPLETE. -/
def bucketKnown (i : Inst) (o : Option (Nat × Desc)) (b : Nat) : Bool :=
  i.complete.contains b || (match o with | some x => decide (1 ≤ x.2.coll.phase) | none => false)

def dataFate (s : State) (p : Nat) (f : Frame) : DataFate :=
  let h := f.hdr
  let o := s.bucketDesc p h.job h.ticket h.bucket
  match (s.link p).inst? h.job h.ticket with
  | none => if isStale s p h.job h.ticket then .stale else if (otherTicket s p h).isSome then .abort else .proto
  | some i =>
    match (s.link p).rx? h.job h.ticket h.src with
    | none => if bucketKnown i o h.bucket then .abort else .proto
    | some r =>
      if before16 h.seq r.expect then .dup
      else if !bucketKnown i o h.bucket then .proto
      else if (match o with | some x => !x.2.over && !frameFits x.2 f | none => false) then .abort
      else if h.seq ≠ r.expect then .gap
      else if before16 h.seq r.limit then .accept
      else .full

/-- An accepted frame: the stream, the counters, the received signature, and the acknowledgement after every 8 (R242,
R254). -/
def acceptData (s : State) (p : Nat) (f : Frame) (r : RxStream) : State :=
  let h := f.hdr
  let s := s.modLink p (fun l =>
    let l := l.setRx { r with
      expect := (r.expect + 1) % mod16, unackedRx := r.unackedRx + 1, nak := 0, buf := r.buf ++ [f] }
    let j := l.job h.job
    let rank := rankOf (((l.inst? h.job h.ticket).map Inst.members).getD []) h.src
    let (part, dg) := sigStep j.recvPart h.src rank f
    let l := l.setJob h.job { j with recvPart := part, recvSig := j.recvSig ^^^ dg, rx := j.rx + 1 }
    { l with cnt := { l.cnt with rxFrames := l.cnt.rxFrames + 1, rxBytes := l.cnt.rxBytes + f.payload.length } })
  match (s.link p).rx? h.job h.ticket h.src with
  | some r => if 8 ≤ r.unackedRx then sendAck s p r else s
  | none => s

/-- NAK(e), unless one is outstanding for less than 8 µs (R255). -/
def sendNak (s : State) (p : Nat) (r : RxStream) : State :=
  if r.nak ≠ 0 && s.time + 1 < r.nak + 8000 then s
  else
    let s := s.modLink p (fun l => l.setRx { r with nak := s.time + 1 })
    sendCtrl s p { ownHdr s 2 r.src with job := r.job, ticket := r.ticket, seq := r.expect }

/-- One of the counters of matching raised (Table 16.6). -/
def countStale (l : Link) : Link := { l with cnt := { l.cnt with stale := satInc32 l.cnt.stale 1 } }
def countProto (l : Link) : Link := { l with cnt := { l.cnt with proto := satInc32 l.cnt.proto 1 } }
def countDup (l : Link) : Link := { l with cnt := { l.cnt with dup := satInc32 l.cnt.dup 1 } }

def takeData (s : State) (p : Nat) (f : Frame) : State :=
  let h := f.hdr
  let fate := dataFate s p f
  let s := traceFrame s (peEng p) h true (fate == .accept)
  let rx := (s.link p).rx? h.job h.ticket h.src
  match fate with
  | .stale => s.modLink p countStale
  | .proto => s.modLink p countProto
  | .abort =>
    (match (if ((s.link p).inst? h.job h.ticket).isSome then s.bucketDesc p h.job h.ticket h.bucket else otherTicket s p h) with
      | some (c, d) => abortBucket s p c d
      | none => s)
  | .accept => (match rx with | some r => workLink (acceptData s p f r) p | none => s)
  | .dup => (match rx with | some r => sendAck (s.modLink p countDup) p r | none => s)
  | .gap => (match rx with | some r => sendNak s p r | none => s)
  | .full => s

def execData (pe : Nat) (f : RxFrame) (s : State) : Host.Outcome State Fault Refusal :=
  .next (receive s pe 0 f false (fun s h => takeData (seeTicket s h.ticket) pe f.frame))

def execAck (pe : Nat) (f : RxFrame) (s : State) : Host.Outcome State Fault Refusal :=
  .next (receive s pe 1 f true (fun s h => workLink (takeAck (seeTicket s h.ticket) pe h) pe))

def execCredit (pe : Nat) (f : RxFrame) (s : State) : Host.Outcome State Fault Refusal :=
  .next (receive s pe 3 f true (fun s h => workLink (takeCredit (seeTicket s h.ticket) pe h) pe))

/-! ## A bucket issues (R236, R237) -/

/-- The descriptor may issue: its instance is PERMITTED, no instance of its job with a lower ticket is present, its slot is
FREE, and its number is within 64 of the lowest bucket that is not COMPLETE. -/
def bucketMayIssue (s : State) (p c : Nat) (d : Desc) : Bool :=
  match (s.link p).inst? d.job d.ticket with
  | none => false
  | some i =>
    d.isColl && d.admitted && !d.over && d.coll.phase == 0 && peWorks s p && (s.link p).permitted d.ticket &&
      !(s.link p).insts.any (fun x => x.job == d.job && decide (x.ticket < d.ticket)) &&
      !(s.collsAt p).any (fun x => x.2.job == d.job && decide (1 ≤ x.2.coll.phase) && x.2.bucket % 64 == d.bucket % 64) &&
      decide (sub16 d.bucket i.low < 64) && watchReady s c d

/-- The ranks that send frames of the bucket to the member, which it announces to (R237, R274). -/
def Desc.upstream (d : Desc) : List Nat :=
  let n := d.cn
  let r := d.cr
  if d.kind = 6 then d.rebFrom r
  else if d.count = 0 || n ≤ 1 then []
  else if d.kind = 5 then (List.range n).filter (· ≠ r)
  else [(r + n - 1) % n]

/-- The ANNOUNCE of a descriptor to a device (Table 12.4). -/
def announceFrame (s : State) (d : Desc) (dst : Nat) : Frame :=
  let fl := if d.pairSum then flPairsum else 0
  let h : FrameHdr := { ownHdr s 4 dst with
    job := d.job, ticket := d.ticket, bucket := d.bucket, kind := d.kind, pfmt := d.annFmt, flags := fl, plen := 16 }
  { hdr := h, payload := leBytes 8 d.count ++ leBytes 8 d.sfmtW }

/-- An all-to-all of no elements leaves N counts of zero, and claims no chunk (R234, R365). -/
def zeroCounts (s : State) (c : Nat) (d : Desc) : State :=
  if d.kind = 5 && d.count = 0 then
    let a : Acc := { win := d.dwin, lo := d.doff, hi := d.doff + 4 * d.cn, wr := true }
    let s := s.setMem (Mem.wrBytes s.mem (s.addrOf d.dwin d.doff) (List.replicate (4 * d.cn) 0))
    postWrites s c d.seq [a]
  else s

/-- OPEN: receive streams from the upstream devices, announcements to them, and credit. -/
def openBucket (s : State) (p c q : Nat) : State :=
  let s := s.modDesc c q (fun d => { d with coll := { d.coll with phase := 1 } })
  let d := s.desc c q
  let up := d.upstream.map (fun k => nth d.coll.members k 0)
  let s := s.modLink p (fun l => up.foldl (fun l u =>
    if (l.rx? d.job d.ticket u).isSome then l else l.setRx { job := d.job, ticket := d.ticket, src := u }) l)
  let s := up.foldl (fun s u => sendFrame s p (announceFrame s d u)) s
  workLink s p

def execBucketIssue (c seq : Nat) (s : State) : Host.Outcome State Fault Refusal :=
  .next (match s.desc? c seq with
    | none => s
    | some d =>
      let p := s.engOf c - 96
      if isPe (s.engOf c) && bucketMayIssue s p c d then openBucket (zeroCounts s c d) p c seq else s)

/-- A chain, a segment chunk or a piece that the member starts (R224, R238). -/
def execChainStart (c seq chain : Nat) (s : State) : Host.Outcome State Fault Refusal :=
  .next (match s.desc? c seq with
    | none => s
    | some d =>
      if isPe (s.engOf c) then
        let p := s.engOf c - 96
        workLink (startUnit s p c d chain) p
      else s)

end Sys2Proof.Machine
end

