-- ==== Sys2Proof/Machine/ContextImage.lean ====
section
/-! DEFINITION. Context images (R288 to R296): the image of a saved context, the checks of a restore, and taking up a
restored descriptor. -/

namespace Sys2Proof.Machine

/-- The little-endian number in `n` bytes of an image from `off`. -/
def leAt (l : List Byte) (off n : Nat) : Nat := leNat ((l.drop off).take n)

/-- Bytes padded with zeros to `n`. -/
def padTo (n : Nat) (l : List Byte) : List Byte := l ++ List.replicate (n - l.length) 0

/-! ## State blocks (Tables 14.6 and 14.7) -/

inductive BlockKind where
  | parts | welford | exact | extreme | row
  deriving DecidableEq, Repr, Inhabited

def blockLen : BlockKind → Nat
  | .parts => 2048
  | .welford => 4096
  | .exact => 48
  | .extreme => 16
  | .row => 4160

def partsBytes (l : List (Nat × Nat)) : List Byte :=
  ((List.range 256).map (fun j => match Keyed.get? l j with
    | some v => leBytes 8 (v + 2 ^ 32)
    | none => leBytes 8 0)).flatten
def partsOfBytes (l : List Byte) : List (Nat × Nat) :=
  (List.range 256).filterMap (fun j => let v := leAt l (8 * j) 8; if bitAt v 32 then some (j, v % 2 ^ 32) else none)

def welBytes (l : List (Nat × Wst)) : List Byte :=
  ((List.range 256).map (fun j =>
    let w := (Keyed.get? l j).getD {}
    leBytes 8 w.n ++ leBytes 4 w.mean ++ leBytes 4 w.m2)).flatten
def welOfBytes (l : List Byte) : List (Nat × Wst) :=
  (List.range 256).filterMap (fun j =>
    let w : Wst := { n := leAt l (16 * j) 8 % 2 ^ 40, mean := leAt l (16 * j + 8) 4, m2 := leAt l (16 * j + 12) 4 }
    if w.n = 0 then none else some (j, w))

def exactBytes (a : Xacc) : List Byte :=
  let v : Int := a.sum % (2 ^ 320 : Nat)
  padTo 48 (leBytes 40 v.toNat ++
    leBytes 1 (bit a.nan + 2 * bit a.posInf + 4 * bit a.negInf + 8 * bit a.allNegZero + 16 * bit a.used))
def exactOfBytes (l : List Byte) : Xacc :=
  let v := leAt l 0 40
  let c := leAt l 40 1
  { sum := if 2 ^ 319 ≤ v then (v : Int) - (2 ^ 320 : Nat) else v, nan := bitAt c 0, posInf := bitAt c 1, negInf := bitAt c 2
    allNegZero := bitAt c 3, used := bitAt c 4 }

def extremeBytes (v col : Nat) : List Byte := leBytes 4 v ++ leBytes 4 0 ++ leBytes 8 col
def extremeOfBytes (l : List Byte) : Extreme := { used := true, value := leAt l 0 4, col := leAt l 8 8 % 2 ^ 40 }

/-- A sampler row, with top-k where `topk` is not 0. The best s and column of a top-k row, and of a row without a candidate yet,
are recorded as 0 (DESIGN CHOICE, log 89). -/
def rowBytes (r : RowSt) (topk : Bool) : List Byte :=
  padTo 64 (leBytes 4 r.row ++ leBytes 4 r.col ++ leBytes 4 r.best ++ leBytes 4 r.bestCol ++
    leBytes 4 (bit r.nonfin + 2 * bit topk) ++ leBytes 4 r.kept.length) ++
  padTo 4096 (if topk then (r.kept.map (fun k => leBytes 4 k.col ++ leBytes 4 k.z ++ leBytes 4 k.s ++ leBytes 4 0)).flatten
    else ((List.range 256).map (fun j =>
      let p := (Keyed.get? r.parts j).getD {}
      leBytes 4 (bit p.used) ++ leBytes 4 p.m ++ leBytes 4 p.s ++ leBytes 4 p.w)).flatten)
def rowOfBytes (l : List Byte) : RowSt :=
  let fl := leAt l 16 4
  let n := leAt l 20 4
  let b := l.drop 64
  let kept := (List.range n).map (fun k => { col := leAt b (16 * k) 4, z := leAt b (16 * k + 4) 4, s := leAt b (16 * k + 8) 4 : KEntry })
  let parts := (List.range 256).filterMap (fun j =>
    if leAt b (16 * j) 4 = 0 then none
    else some (j, { used := true, m := leAt b (16 * j + 4) 4, s := leAt b (16 * j + 8) 4, w := leAt b (16 * j + 12) 4 : Sst }))
  { row := leAt l 0 4, col := leAt l 4 4, best := leAt l 8 4, bestCol := leAt l 12 4, nonfin := bitAt fl 0
    kept := if bitAt fl 1 then kept else [], parts := if bitAt fl 1 then [] else parts
    any := if bitAt fl 1 then n != 0 else !parts.isEmpty }

/-- The blocks of one reduction whose row has taken `col` columns, in LSE pass `pass`. -/
def redPlan (func : Nat) (exact : Bool) (pass col : Nat) : List BlockKind :=
  if func = fnSUM || func = fnSUMSQ then
    if exact then [.exact] ++ (if longCols < col then [.extreme, .parts] else []) else [.parts]
  else if func = fnMEANVAR then [.welford]
  else if func = fnLSE then [.extreme] ++ (if pass = 1 then [.parts] else [])
  else if func = fnSOFTSTATS then [.row]
  else [.extreme]

/-- The bytes of those blocks. -/
def redBytes (r : RedSt) (func : Nat) (exact : Bool) (pass row col : Nat) : List Byte :=
  ((redPlan func exact pass col).map (fun k => match k with
    | .parts => partsBytes r.parts
    | .welford => welBytes r.wels
    | .exact => exactBytes r.acc
    | .extreme => if func = fnSUM || func = fnSUMSQ then extremeBytes r.s0 0 else extremeBytes r.ext.value r.ext.col
    | .row => rowBytes { row := row, col := col, parts := r.ssts } false)).flatten

/-- The reduction that those bytes hold. -/
def redOfBytes (func : Nat) (exact : Bool) (pass col : Nat) (l : List Byte) : RedSt :=
  ((redPlan func exact pass col).foldl (fun (a : RedSt × List Byte) k =>
    let b := a.2.take (blockLen k)
    let r := match k with
      | .parts => { a.1 with parts := partsOfBytes b }
      | .welford => { a.1 with wels := welOfBytes b }
      | .exact => { a.1 with acc := exactOfBytes b }
      | .extreme => if func = fnSUM || func = fnSUMSQ then { a.1 with s0 := leAt b 0 4 } else { a.1 with ext := extremeOfBytes b }
      | .row => { a.1 with ssts := (rowOfBytes b).parts }
    (r, a.2.drop (blockLen k))) ({}, l)).1

def planLen (l : List BlockKind) : Nat := l.foldl (fun a k => a + blockLen k) 0

namespace Desc

/-- The REDs of a recipe in program order, as (FUNC, PAIRACC). -/
def redList (d : Desc) : List (Nat × Bool) :=
  (d.ins.filter (fun p => rOp p.1 == riRED)).map (fun p => (bits p.1 32 29, bitAt p.1 28))

/-- The reductions in a row that the cursor has entered, as (FUNC, PAIRACC, pass, row, columns taken). -/
def liveReds (d : Desc) : List (Nat × Bool × Nat × Nat × Nat) :=
  if d.op = opREDUCE then
    let col := d.cursor % max 1 d.redD
    if col = 0 && d.pass = 0 then [] else [(d.func, d.opf, d.pass, d.cursor / max 1 d.redD, col)]
  else if d.op = opRECIPE then
    let col := d.cursor % max 1 d.rD
    if col = 0 then [] else d.redList.map (fun f => (f.1, f.2, 0, d.cursor / max 1 d.rD, col))
  else []

/-- The watch has a Welford block: an active STAT, or STATS. -/
def watchBlock (d : Desc) : Bool := d.op == opSTATS || d.watchCfg.stat

/-- The top-k of a row in a slot says which entries its block holds. -/
def rowTopk (s : State) (d : Desc) (r : RowSt) : Bool := (rowRec s s.mem d r.row).topk != 0

/-- The state blocks of a stopped descriptor, in the order of Table 14.6. -/
def blocks (s : State) (d : Desc) : List Byte :=
  let lr := d.liveReds
  ((List.range lr.length).map (fun k =>
    let x := nth lr k (0, false, 0, 0, 0)
    redBytes (nth d.reds k {}) x.1 x.2.1 x.2.2.1 x.2.2.2.1 x.2.2.2.2)).flatten ++
  (d.rows.map (fun r => rowBytes r (d.rowTopk s r))).flatten ++
  (if d.watchBlock then welBytes d.watch.wels else [])

/-- The claims that the image names: chunks of flagged windows held CLAIMED (Example 14.1). -/
def imageClaims (s : State) (d : Desc) : List Claim :=
  d.claims.filter (fun k => k.phase == phCLAIMED && (s.win k.win).flagged)

/-- The state section of a descriptor. -/
def sectBytes (s : State) (d : Desc) : List Byte :=
  if d.admitted then
    ((d.imageClaims s).map (fun k => leBytes 8 (place k.win 12 52 + place k.chunk 40 0))).flatten ++ d.blocks s
  else []

/-- The opcode draws per element, so that NEXTPOS is kept (R292). -/
def drawsPerElement (d : Desc) : Bool :=
  [opCONVERT, opQUANTISE, opDEQUANTISE, opROTATE, opFILL, opRECIPE].contains d.op

/-- The 512-byte record of a descriptor whose section lies at `off` (Table 14.5). -/
def record (s : State) (d : Desc) (off : Nat) : List Byte :=
  let sec := d.sectBytes s
  let w := d.watch
  padTo 512 (((d.words.map (leBytes 8)).flatten) ++ leBytes 1 (bit d.admitted) ++ leBytes 7 0 ++
    leBytes 8 (place d.cursor 40 0 + place d.pass 2 40) ++
    leBytes 8 (if d.drawsPerElement && d.admitted then pos64 (d.posbase + d.cursor) else 0) ++
    leBytes 8 (place d.sat 40 0) ++ leBytes 8 (place d.flush 40 0) ++ leBytes 8 (place d.firstNf 40 0) ++
    leBytes 8 (place d.aux 40 0) ++ leBytes 4 (bit d.nonfin + 2 * bit d.longsum + 4 * bit (d.admitted && d.watchCfg.active)) ++
    leBytes 4 (if d.admitted then (d.imageClaims s).length else 0) ++
    leBytes 4 (if sec.isEmpty then 0 else off) ++ leBytes 4 sec.length ++
    leBytes 8 w.count ++ leBytes 8 w.fin ++ leBytes 8 w.nanc ++ leBytes 8 w.infc ++
    leBytes 4 (w.min.getD f32NaN) ++ leBytes 4 (w.max.getD f32NaN) ++ leBytes 4 w.absmax ++ leBytes 4 0 ++
    leBytes 8 w.crc ++ ((List.range 16).map (fun i => leBytes 8 (SMap.get w.hist 0 i))).flatten)

end Desc

/-- The records and sections of descriptors from image offset `off`. -/
def imageDescs (s : State) : Nat → List Desc → List Byte × List Byte
  | _, [] => ([], [])
  | off, d :: r =>
    let sec := d.sectBytes s
    let start := align64 off
    let rest := imageDescs s (if sec.isEmpty then off else start + sec.length) r
    (d.record s start ++ rest.1, (if sec.isEmpty then [] else padTo (start - off) [] ++ sec) ++ rest.2)

/-- The image of a stopped context (R291, Table 14.4). -/
def contextImage (s : State) (t : Nat) : List Byte :=
  let x := s.ctx t
  let e := x.use.engine
  let tiles := (List.range (x.use.tileSlots * 4096)).map (fun k => SMap.get x.live 0 k)
  let ds := imageDescs s (0x4000 + tiles.length) x.descs
  let body := leBytes 2 t ++ leBytes 1 x.use.pd ++ leBytes 1 e ++ leBytes 2 x.use.tileSlots ++ leBytes 1 x.use.sqLog2 ++
    leBytes 1 x.use.cqLog2 ++ leBytes 2 x.sqTail ++ leBytes 2 x.sqHead ++ leBytes 2 x.cqTail ++ leBytes 2 x.cqHead ++
    leBytes 1 (bit x.phase) ++ leBytes 1 x.descs.length ++ leBytes 2 (lanes e) ++ leBytes 4 0 ++ leBytes 8 (s.eng e).epoch
  let all := padTo (0x3000 - 0x18) (padTo (0x1000 - 0x18) body ++ ds.1) ++ List.replicate 0x1000 0 ++ tiles ++ ds.2
  leBytes 8 0x31474D4954565244 ++ leBytes 4 1 ++ leBytes 4 (all.length + 0x18) ++ leBytes 8 (crc64 all) ++ all

/-! ## Saving (R289) -/

/-- A descriptor of the target has stopped at a preemption point: it has no request outstanding, no drain under way, and it
is not one that runs to completion or that has ended (Table 14.3). -/
def stoppedDesc (s : State) (t : Nat) (d : Desc) : Bool :=
  !d.over && d.drains.isEmpty && !s.hasReq t d.seq &&
    !(d.admitted && [opDRAIN, opFENCE, opNOP, opRIBBON, opSIGNATURE, opSAVE, opRESTORE].contains d.op)

/-- A SAVE_CONTEXT ends and its target goes on as though it had not been stopped. -/
def giveUpSave (s : State) (c q t : Nat) (st : Nat) : State :=
  endDesc (s.modCtx t (fun x => { x with saving := false })) c q st

/-! ## Restoring (R294, R295) -/

/-- The tensor whose bytes a descriptor's watch observes in element order, and the elements observed so far. -/
def Desc.watchTensor (s : State) (d : Desc) : Option (Tensor × Nat) :=
  let o := d.op
  if o = opCONVERT || o = opDEQUANTISE || o = opROTATE || o = opFILL || o = opQUANTISE then some (d.dst s, d.cursor)
  else if o = opREDUCE then some (d.redDst s, d.cursor / max 1 d.redD * funcElems d.func)
  else if o = opSTATS then some (d.src s, d.cursor)
  else if o = opRECIPE && !d.hasWatchIns then some (slotT s d 1, d.watch.count)
  else none

/-- The parts of a signature that a record does not hold: the bits of a byte that is not complete and the mortar and quoin
bytes already observed are read back from memory. -/
def restoreSig (s : State) (d : Desc) (c : WatchCfg) : WatchSt :=
  let w := d.watch
  match d.watchTensor s with
  | none => w
  | some (t, n) =>
    if !c.sig then w
    else if t.f.b = 0 then
      let r := n * t.w % 8
      { w with bitLen := r, bitBuf := if r = 0 then 0 else Mem.rdBits s.mem t.base (n * t.w - r) r }
    else
      let g := if n = 0 then 0 else t.ashlar (n - 1) + 1
      let k := t.pos n * t.w
      let r := k % 8
      let w := { w with bitLen := r, bitBuf := if r = 0 then 0 else Mem.rdBits s.mem t.base (t.ashOff (t.ashlar n) * 8 + k - r) r }
      let w := (List.range g).foldl (fun w j => if t.f.bound then w else w.mortarIn c 1 (t.scaleCode s.mem j)) w
      (List.range (g * t.f.quoins)).foldl (fun w j => w.quoinIn c (t.quoinEntry s.mem (j / t.f.quoins) (j % t.f.quoins))) w

/-- A recorded descriptor, with its parameter block read again; `img` is the whole image, `off` its record. -/
def descOfImage (s : State) (t : Nat) (img : List Byte) (off : Nat) : Desc :=
  let at' (o n : Nat) : Nat := leAt img (off + o) n
  let words := (List.range 8).map (fun k => at' (8 * k) 8)
  let d : Desc := { words := words }
  let d := { d with seq := d.seqField }
  if at' 0x40 1 = 0 then d
  else
    let x := s.ctx t
    let a := x.use.paramBase * 64 + 64 * d.param
    let n := if d.op = opRECIPE then 8 * max 1 (ceilDiv (bits (Mem.rd s.mem a 8) 32 24) 8) else if d.op = opREBOND then 16 else 8
    let par := if d.pb then (List.range n).map (fun k => Mem.rd s.mem (a + 8 * k) 8) else []
    let fl := at' 0x78 4
    let fin := at' 0x90 8
    { d with
      par := par, admitted := true, tag := ((s.eng x.use.engine).epoch + 2 ^ 32 - 1) % 2 ^ 32
      cursor := at' 0x48 8 % 2 ^ 40, pos := at' 0x48 8 % 2 ^ 40, pass := at' 0x48 8 / 2 ^ 40 % 4, sat := at' 0x58 8 % 2 ^ 40
      prior := { cursor := at' 0x48 8 % 2 ^ 40, sat := at' 0x58 8 % 2 ^ 40, flush := at' 0x60 8 % 2 ^ 40, aux := at' 0x70 8 % 2 ^ 40
                 nonfin := bitAt fl 0, firstNf := at' 0x68 8 % 2 ^ 40 }
      flush := at' 0x60 8 % 2 ^ 40, firstNf := at' 0x68 8 % 2 ^ 40, aux := at' 0x70 8 % 2 ^ 40
      nonfin := bitAt fl 0, longsum := bitAt fl 1
      watch := {
        count := at' 0x88 8, fin := fin, nanc := at' 0x98 8, infc := at' 0xA0 8
        min := if fin = 0 then none else some (at' 0xA8 4), max := if fin = 0 then none else some (at' 0xAC 4)
        absmax := at' 0xB0 4, crc := at' 0xB8 8
        hist := (List.range 16).foldl (fun h i => SMap.set h 0 i (at' (0xC0 + 8 * i) 8)) [] } }

/-- Bytes of sampler rows in a section whose claims and watch block are left out. -/
def rowsLen (len claims : Nat) (d : Desc) : Nat := len - 8 * claims - (if d.watchBlock then 4096 else 0)

/-- The zero fields of a state block hold zero, and its counts lie in their ranges (R294, Table 14.7). -/
def blockOk (k : BlockKind) (l : List Byte) : Bool :=
  match k with
  | .parts => (List.range 256).all (fun j => leAt l (8 * j) 8 < 2 ^ 33)
  | .welford => (List.range 256).all (fun j => leAt l (16 * j) 8 < 2 ^ 40)
  | .exact => decide (leAt l 40 1 < 32) && leAt l 41 7 == 0
  | .extreme => leAt l 4 4 == 0 && decide (leAt l 8 8 < 2 ^ 40)
  | .row =>
    let fl := leAt l 16 4
    let n := leAt l 20 4
    decide (fl < 4) && decide (n ≤ 256) && leAt l 24 40 == 0 &&
      (if bitAt fl 1 then
        (List.range 256).all (fun j => if j < n then leAt l (64 + 16 * j + 12) 4 == 0 else leAt l (64 + 16 * j) 16 == 0)
      else n == 0 && (List.range 256).all (fun j => leAt l (64 + 16 * j) 4 < 2))

/-- The blocks of a plan, one after the other. -/
def blocksOk : List BlockKind → List Byte → Bool
  | [], _ => true
  | k :: r, l => blockOk k (l.take (blockLen k)) && blocksOk r (l.drop (blockLen k))

/-- The claim entries and the state blocks of a section are well formed (R294). -/
def contentOk (img : List Byte) (off : Nat) (d : Desc) : Bool :=
  let n := leAt img (off + 0x7C) 4
  let sec := (img.drop (leAt img (off + 0x80) 4)).take (leAt img (off + 0x84) 4)
  let plan := (d.liveReds.map (fun x => redPlan x.1 x.2.1 x.2.2.1 x.2.2.2.2)).flatten
  let rows := if d.op = opSAMPLE then (sec.length - 8 * n - planLen plan - (if d.watchBlock then 4096 else 0)) / 4160 else 0
  !d.admitted ||
    ((List.range n).all (fun k => bits (leAt sec (8 * k) 8) 51 40 == 0) &&
      blocksOk (plan ++ List.replicate rows .row ++ (if d.watchBlock then [.welford] else [])) (sec.drop (8 * n)))

/-- A section has the length that its descriptor's blocks ask for. -/
def sectionOk (img : List Byte) (off : Nat) (d : Desc) : Bool :=
  let n := leAt img (off + 0x7C) 4
  let so := leAt img (off + 0x80) 4
  let sl := leAt img (off + 0x84) 4
  let plan := (d.liveReds.map (fun x => planLen (redPlan x.1 x.2.1 x.2.2.1 x.2.2.2.2))).foldl (· + ·) 0
  let rest := 8 * n + plan + (if d.watchBlock then 4096 else 0)
  if !d.admitted then sl == 0
  else
    (sl == 0 || (so % 64 == 0 && 0x4000 ≤ so)) && so + sl ≤ img.length && (sl != 0 || so == 0) &&
      (if d.op = opSAMPLE then decide (rest ≤ sl) && (sl - rest) % 4160 == 0 else sl == rest)

/-- The claims, reductions, sampler rows and watch of a section taken into a descriptor. -/
def takeSection (s : State) (img : List Byte) (off : Nat) (d : Desc) : Desc :=
  if !d.admitted then d
  else
    let n := leAt img (off + 0x7C) 4
    let sec := (img.drop (leAt img (off + 0x80) 4)).take (leAt img (off + 0x84) 4)
    let held := (List.range n).map (fun k =>
      { win := leAt sec (8 * k) 8 / 2 ^ 52, chunk := leAt sec (8 * k) 8 % 2 ^ 40, phase := phCLAIMED : Claim })
    let body := sec.drop (8 * n)
    let lr := d.liveReds
    let reds := lr.foldl (fun (a : List RedSt × List Byte) x =>
      let len := planLen (redPlan x.1 x.2.1 x.2.2.1 x.2.2.2.2)
      (a.1 ++ [redOfBytes x.1 x.2.1 x.2.2.1 x.2.2.2.2 (a.2.take len)], a.2.drop len)) ([], body)
    let nr := if d.op = opSAMPLE then rowsLen sec.length n d / 4160 else 0
    let rows := (List.range nr).map (fun k =>
      let r := rowOfBytes ((reds.2.drop (4160 * k)).take 4160)
      let rr := rowRec s s.mem d r.row
      let t : Tensor := { base := s.addrOf d.swin rr.scores, f := { elem := d.sfmt.elem }, n := rr.len }
      { r with bestZ := if r.any && rr.topk = 0 then fDiv (toF32 (t.value s.mem r.bestCol)) rr.temp else 0 })
    let d := { d with claims := held, reds := reds.1, rows := rows }
    let d := if d.watchBlock then
        { d with watch := { d.watch with wels := welOfBytes (reds.2.drop (4160 * nr)) } }
      else d
    { d with watch := restoreSig s d (if d.op = opSTATS then d.statsCfg else d.watchCfg) }

/-- The chunks that a restored descriptor has behind it count as finished for the scoreboard (R186). -/
def markPassed (s : State) (d : Desc) : Desc :=
  if d.admitted && !wholeWindows d.op then
    let left := d.remain s
    (d.accs.map (fun a => (accChunks s a).map (fun k => (a.win, k)))).flatten.foldl (fun d p =>
      if (d.phaseOf p.1 p.2).isSome || left.any (fun a => accTouches s a p.1 p.2) then d else d.setPhase p.1 p.2 phDONE) d
  else d

/-- The status of the first check of R294 that fails; `room` is the space from the image's start to its window's end. -/
def imageCheck (s : State) (t room : Nat) (img : List Byte) : Option Nat :=
  let x := s.ctx t
  let len := leAt img 0x0C 4
  let nd := leAt img 0x29 1
  let slots := leAt img 0x1C 2
  let ds := (List.range nd).map (fun k => 0x1000 + 512 * k)
  if leAt img 0 8 ≠ 0x31474D4954565244 || leAt img 8 4 ≠ 1 || room < len || len < 0x4000 + 4096 * slots then some stBADFMT
  else if leAt img 0x1E 1 ≠ x.use.sqLog2 || leAt img 0x1F 1 ≠ x.use.cqLog2 || x.use.tileSlots < slots || 16 < nd then some stBADFMT
  else if ds.any (fun o => 1 < leAt img (o + 0x40) 1 || !sectionOk img o (descOfImage s t img o) ||
      !contentOk img o (descOfImage s t img o)) then some stBADFMT
  else if leAt img 0x10 8 ≠ crc64 (img.drop 0x18) then some stDIGEST
  else if leAt img 0x1A 1 ≠ x.use.pd then some stPROTECTION
  else none

/-- An active watch asks for the watch unit (R346). -/
def wantWatch (s : State) (e : Nat) (d : Desc) : State :=
  if d.watchCfg.active then
    s.modEng e (fun x => { x with watchFn := if x.watchFn == .off then .starting else x.watchFn })
  else s

/-- A RESTORE_CONTEXT has completed: fetching of its target goes on, and the doorbells held for it are applied (R295). -/
def endRestore (s : State) (t : Nat) : State := releaseDoorbells (s.modCtx t (fun x => { x with restoring := false })) t

/-- The target takes up the image. -/
def loadImage (s : State) (t : Nat) (img : List Byte) : State :=
  let nd := leAt img 0x29 1
  let slots := leAt img 0x1C 2
  let tiles := (List.range (slots * 4096)).foldl (fun l k => SMap.set l 0 k (nth img (0x4000 + k) 0)) []
  let ds := (List.range nd).map (fun k =>
    let o := 0x1000 + 512 * k
    markPassed s (takeSection s img o (descOfImage s t img o)))
  let s := (ds.filter (·.admitted)).foldl (fun s d => wantWatch s (s.engOf t) d) s
  s.modCtx t (fun x => { x with
    live := tiles, sqTail := leAt img 0x20 2, sqHead := leAt img 0x22 2, cqTail := leAt img 0x24 2, cqHead := leAt img 0x26 2
    phase := bitAt (leAt img 0x28 1) 0, descs := ds })

/-- The work of a RESTORE_CONTEXT: its source chunks are claimed, the image is checked, and the target takes it up. -/
def runRestore (s : State) (c q : Nat) : State :=
  let d := s.desc c q
  let t := bits d.doff 11 0
  let size := (s.win d.swin).bytes
  if d.over then s
  else
    let (s, ok) := gate s c q [{ win := d.swin, lo := d.soff, hi := min size (d.soff + 0x4000) }]
    if !ok then s
    else
      let a := s.addrOf d.swin d.soff
      let len := Mem.rd s.mem (a + 0x0C) 4
      let fit := d.soff + 0x4000 ≤ size && d.soff + len ≤ size
      let (s, ok) := if fit then gate s c q [{ win := d.swin, lo := d.soff, hi := d.soff + len }] else (s, true)
      if !ok then s
      else
        let s := if fit then postReads s c [{ win := d.swin, lo := d.soff, hi := d.soff + len }] else s
        let img := if fit then Mem.bytes s.mem a len else []
        let res := if fit then imageCheck s t (size - d.soff) img else some stBADFMT
        let s := s.modDesc c q (fun d => { d with status := res, finished := true })
        if res.isSome then s else loadImage s t img

end Sys2Proof.Machine
end

