-- ==== Sys2Proof/Machine/Domain.lean ====
section
/-! DEFINITION. Domains and tickets (R261 to R265): joining, the keystone's leases and marks, elections. -/

namespace Sys2Proof.Machine

namespace State

/-- PE index that carries domain frames. -/
def kport (s : State) : Nat := s.dom.kport
/-- A device is marked lost on the domain port. -/
def isLost (s : State) (d : Nat) : Bool := (s.link s.kport).lost.contains d
/-- The device is the keystone and issues tickets. -/
def isIssuer (s : State) : Bool := s.dom.member && s.dom.issuing && s.dom.keystone == s.dom.deviceId
/-- The two lowest VALID IDs other than `k` for which `live` holds. -/
def twoLowest (s : State) (k : Nat) (live : Nat → Bool) : List Nat :=
  ((validMembers s).filter (fun d => d != k && live d)).take 2

end State

/-! ## Marks and leases (R264) -/

/-- M: the last mark that every live deputy has acknowledged, 0 while one has acknowledged none; with no live deputy, the last
mark published. -/
def markLimit (s : State) : Nat :=
  let live := s.dom.deputies.filter (fun d => !s.isLost d)
  match live with
  | [] => s.dom.mark
  | d :: r => r.foldl (fun m x => min m (SMap.get s.dom.acks 0 x)) (SMap.get s.dom.acks 0 d)

/-- A new MARK is due: the next ticket has reached M + 2^15 and no mark as high has been published. -/
def markDue (s : State) : Bool :=
  decide (markLimit s + 2 ^ 15 ≤ s.dom.nextTicket) && decide (s.dom.mark < markLimit s + 2 ^ 15)

/-- The published mark goes to a deputy. -/
def sendMark (s : State) (d : Nat) : State := sendCtrl s s.kport { ownHdr s 9 d with ticket := s.dom.mark }

/-- The keystone publishes its next ticket as a mark to its deputies. -/
def publishMark (s : State) : State :=
  s.dom.deputies.foldl sendMark { s with dom := { s.dom with mark := s.dom.nextTicket } }

/-- The next block of 256 tickets may be issued. -/
def mayIssue (s : State) : Bool := decide (s.dom.nextTicket + 255 < markLimit s + 2 ^ 16)

/-- The next 256 tickets are taken from the counter. -/
def takeBlock (s : State) : State :=
  let s := seeTicket s (s.dom.nextTicket + 255)
  let s := { s with dom := { s.dom with nextTicket := s.dom.nextTicket + 256 } }
  if markDue s then publishMark s else s

/-- A lease of a local descriptor completes with the first ticket of its block. -/
def grantLocal (s : State) (c q t : Nat) : State :=
  let s := seeTicket s (t + 255)
  s.modDesc c q (fun d => if d.over then d else { d with leaseTicket := some t, finished := true })

/-- A grant to the request (source, context, SEQ) that came in on PE `p`. -/
def sendGrant (s : State) (p src job q t : Nat) : State :=
  sendCtrl s p { ownHdr s 8 src with job := job, seq := q, ticket := t }

/-- A request is served (R264): a repeat with the same block, another with the next block, or it waits for a mark. The
device's own leases need no frame. -/
def serveLease (s : State) (p src job q : Nat) : State :=
  match s.dom.served.find? (fun r => src != s.dom.deviceId && r.1 == src && r.2.1 == job && r.2.2.1 == q) with
  | some r => sendGrant s p src job q r.2.2.2
  | none =>
    if mayIssue s then
      let t := s.dom.nextTicket
      let s := takeBlock s
      if src = s.dom.deviceId then grantLocal s job q t
      else
        let s := { s with dom := { s.dom with served := s.dom.served ++ [(src, job, q, t)] } }
        sendGrant s p src job q t
    else if s.dom.waiting.contains (src, job, q, p) then s
    else { s with dom := { s.dom with waiting := s.dom.waiting ++ [(src, job, q, p)] } }

/-- Requests that waited for a mark are served in the order of their arrival. -/
def serveWaiting (s : State) : State :=
  let w := s.dom.waiting
  w.foldl (fun s r => serveLease s r.2.2.2 r.1 r.2.1 r.2.2.1) { s with dom := { s.dom with waiting := [] } }

/-- LEASE_REQ goes to the keystone from the PE that runs the descriptor. -/
def askLease (s : State) (c q : Nat) : State :=
  sendCtrl s (s.engOf c - 96) { ownHdr s 7 s.dom.keystone with job := c, seq := q }

/-- An admitted TICKET_LEASE asks for its block, or is served locally. -/
def startLease (s : State) (c q : Nat) : State :=
  let s := s.modDesc c q (fun d => { d with leaseAsked := true })
  if s.isIssuer then serveLease s (s.engOf c - 96) s.dom.deviceId c q else askLease s c q

/-- The leases of this device that wait for a grant, as (context, SEQ). -/
def State.leases (s : State) : List (Nat × Nat) :=
  (s.ctxs.map (fun p =>
    (p.2.descs.filter (fun d => d.op == opLEASE && d.leaseAsked && !d.over)).map (fun d => (p.1, d.seq)))).flatten

/-- Every lease that waits ends with TICKET_ABORT. -/
def abortLeases (s : State) : State :=
  let s := { s with dom := { s.dom with waiting := s.dom.waiting.filter (fun r => r.1 != s.dom.deviceId) } }
  s.leases.foldl (fun s l => endDesc s l.1 l.2 stTICKETABORT) s

/-! ## Joining and leaving (R262, R263) -/

/-- The device becomes a keystone whose first ticket is `t`, with the deputies `dep`. -/
def becomeKeystone (s : State) (t : Nat) (dep : List Nat) : State :=
  { s with dom := { s.dom with
      keystone := s.dom.deviceId, member := true, issuing := true, nextTicket := t, mark := t, deputies := dep
      acks := [], served := [], waiting := [] } }

/-- JOIN goes to the keystone on KPORT. -/
def sendJoin (s : State) : State := sendCtrl s s.kport (ownHdr s 11 s.dom.keystone)

/-- JOIN becomes 1, or stays 0 where the device's own entry does not pass (R262); the keystone is a member at once. -/
def joinDomain (s : State) : State :=
  let me := s.dom.deviceId
  if !(memberValid s me && memberZeroOk s me) then s
  else
    let k := if s.dom.kname then s.dom.knamed else (validMembers s).head?.getD 0
    let s := { s with dom := { s.dom with
        join := true, member := false, failed := false, issuing := false, keystone := k } }
    let dep := s.twoLowest k (fun _ => true)
    if k = me then becomeKeystone s (s.dom.ticketStart * 256) dep
    else sendJoin { s with dom := { s.dom with deputies := dep, acks := [], served := [], waiting := [] } }

/-- JOIN becomes 0 (R263): every descriptor of an instance and every lease ends with STOPPED, MEMBER clears. -/
def leaveDomain (s : State) : State :=
  let s := (s.ctxs.map (·.1)).foldl (fun s c =>
    endCtx s c stSTOPPED (fun d => d.admitted && (d.isColl || d.op == opLEASE))) s
  { s with dom := { s.dom with
      join := false, member := false, issuing := false, deputies := [], acks := [], served := [], waiting := [] } }

/-- While JOIN is 1 and MEMBER is 0, JOIN is sent again (R263). -/
def execJoinRetry (s : State) : Host.Outcome State Fault Refusal :=
  .next (if s.dom.join && !s.dom.member then sendJoin s else s)

/-- The keystone answers JOIN with its published mark (R263). A deputy that joins gets the MARK too, whose acknowledgement M
waits for (R264; DEDUCED, log 100). -/
def execJoin (pe : Nat) (f : RxFrame) (s : State) : Host.Outcome State Fault Refusal :=
  .next (receive s pe 11 f true (fun s h =>
    if s.isIssuer then
      let s := sendCtrl s pe { ownHdr s 12 h.src with ticket := s.dom.mark }
      if s.dom.deputies.contains h.src then sendMark s h.src else s
    else s))

/-- JOINED from the keystone sets MEMBER (R263). -/
def execJoined (pe : Nat) (f : RxFrame) (s : State) : Host.Outcome State Fault Refusal :=
  .next (receive s pe 12 f true (fun s h =>
    let s := seeTicket s h.ticket
    if s.dom.join && !s.dom.member && h.src == s.dom.keystone then { s with dom := { s.dom with member := true } } else s))

/-! ## Lease and mark frames -/

def execLeaseReq (pe : Nat) (f : RxFrame) (s : State) : Host.Outcome State Fault Refusal :=
  .next (receive s pe 7 f true (fun s h => if s.isIssuer then serveLease s pe h.src h.job h.seq else s))

/-- A grant from the current keystone completes the lease that waits for it on this PE. -/
def execLeaseGrant (pe : Nat) (f : RxFrame) (s : State) : Host.Outcome State Fault Refusal :=
  .next (receive s pe 8 f true (fun s h =>
    if h.src != s.dom.keystone then s
    else if s.leases.contains (h.job, h.seq) && s.engOf h.job == peEng pe then grantLocal s h.job h.seq h.ticket
    else seeTicket s h.ticket))

/-- A mark from the keystone is acknowledged as received. -/
def execMark (pe : Nat) (f : RxFrame) (s : State) : Host.Outcome State Fault Refusal :=
  .next (receive s pe 9 f true (fun s h =>
    let s := seeTicket s h.ticket
    if s.dom.member && h.src == s.dom.keystone then sendCtrl s pe { ownHdr s 10 h.src with ticket := h.ticket } else s))

/-- A deputy's acknowledgement may raise M: waiting requests are served, and a mark that is due goes out. -/
def execMarkAck (pe : Nat) (f : RxFrame) (s : State) : Host.Outcome State Fault Refusal :=
  .next (receive s pe 10 f true (fun s h =>
    let s := seeTicket s h.ticket
    if s.isIssuer && s.dom.deputies.contains h.src then
      let s := { s with dom := { s.dom with
          acks := SMap.set s.dom.acks 0 h.src (max (SMap.get s.dom.acks 0 h.src) h.ticket) } }
      let s := serveWaiting s
      if markDue s then publishMark s else s
    else s))

def execLeaseRetry (c seq : Nat) (s : State) : Host.Outcome State Fault Refusal :=
  .next (if s.leases.contains (c, seq) && !s.isIssuer then askLease s c seq else s)

/-- 1 ms without a grant ends a lease, one that waits at the keystone itself included (R264). -/
def execLeaseTimeout (c seq : Nat) (s : State) : Host.Outcome State Fault Refusal :=
  .next (if s.leases.contains (c, seq) then
    let s := { s with dom := { s.dom with
        waiting := s.dom.waiting.filter (fun r => !(r.1 == s.dom.deviceId && r.2.1 == c && r.2.2.1 == seq)) } }
    endDesc s c seq stTICKETABORT
  else s)

/-! ## Elections (R265) -/

/-- This device becomes keystone after a loss: 2^16 above what it has seen, rounded up to 256; ELECTED to every VALID
member, then a MARK to its deputies. -/
def elect (s : State) : State :=
  let me := s.dom.deviceId
  let t := ceilDiv (s.dom.ticketSeen + 2 ^ 16) 256 * 256
  let s := abortLeases s
  let s := becomeKeystone s t (s.twoLowest me (fun d => !s.isLost d))
  let s := ((validMembers s).filter (· ≠ me)).foldl (fun s d => sendCtrl s s.kport { ownHdr s 13 d with ticket := t }) s
  publishMark s

/-- What a declaration on the domain port leads to: D1 succeeds the keystone, D2 succeeds both; with the keystone and
both deputies lost, a surviving member sets FAILED and ends its leases. -/
def succession (s : State) : State :=
  let me := s.dom.deviceId
  let d1 := s.dom.deputies.head?
  let d2 := (s.dom.deputies.drop 1).head?
  if !s.dom.member || s.dom.keystone == me || !s.isLost s.dom.keystone then s
  else if d1 == some me then elect s
  else if d2 == some me && (d1.map s.isLost).getD true then elect s
  else if s.dom.deputies.all (fun d => d != me && s.isLost d) then
    abortLeases { s with dom := { s.dom with failed := true } }
  else s

/-- ELECTED names the keystone to every device that is a member or joins; a former keystone issues nothing more; leases of another
keystone end. -/
def execElected (pe : Nat) (f : RxFrame) (s : State) : Host.Outcome State Fault Refusal :=
  .next (receive s pe 13 f true (fun s h =>
    let s := seeTicket s h.ticket
    if !s.dom.join || h.src == s.dom.keystone then s
    else
      let s := abortLeases s
      { s with dom := { s.dom with
          keystone := h.src, issuing := false, served := [], waiting := []
          deputies := s.twoLowest h.src (fun d => !s.isLost d), acks := [] } }))

end Sys2Proof.Machine
end

