-- ==== Sys2Proof/Machine/Admission.lean ====
section
/-! DEFINITION. Fetching and admitting descriptors (R98, R170, R171, R178, R181, R185, R189, R215, R236, R287 to R289,
R365): the rows of the opcodes are the admission of a descriptor of that opcode. -/

namespace Sys2Proof.Machine

/-! ## Fetching (R169 to R171) -/

/-- The front end of an engine runs: ON, not fenced, not in a ribbon hold. -/
def frontRuns (s : State) (e : Nat) : Bool := (s.eng e).works && !(s.eng e).holding

/-- Address of the descriptor with index `i` (R169). -/
def sqAddr (x : Ctx) (i : Nat) : Nat := x.use.sqBase * 64 + 64 * (i % x.use.sqSize)

/-- The conditions of R171, for a context that is enabled and not stopped by a save or restore. -/
def mayFetch (s : State) (c : Nat) : Bool :=
  let x := s.ctx c
  frontRuns s x.use.engine && x.resident && x.enable && !x.reEnable && !x.saving && !x.restoring && !x.ringErr &&
    x.sqHead != x.sqTail && decide (x.descs.length < 16) &&
    decide (x.descs.length + sub16 x.cqTail x.cqHead + 2 ≤ x.use.cqSize)

/-- The descriptor at SQHEAD is fetched. -/
def fetchDesc (s : State) (c : Nat) : State :=
  let x := s.ctx c
  let s := readMem s x.use.engine (sqAddr x x.sqHead) 64
  s.setCtx c { x with
    sqHead := (x.sqHead + 1) % mod16
    descs := x.descs ++ [{ seq := x.sqHead, words := readWords s.mem (sqAddr x x.sqHead) 8 }] }

def execDescriptorFetch (c : Nat) (s : State) : Host.Outcome State Fault Refusal :=
  .next (if mayFetch s c then fetchDesc s c else s)

/-! ## Parameter blocks and the recipe cache (R178, R215) -/

/-- Blocks of a recipe of `n` words. -/
def recipeBlocks (n : Nat) : Nat := max 1 (ceilDiv n 8)

/-- A running descriptor uses a cache entry. -/
def cacheUsed (s : State) (e : Nat) (k : CacheEntry) : Bool :=
  (s.residents e).any (fun c => c == k.ctx && (s.ctx c).descs.any (fun d =>
    d.op == opRECIPE && d.admitted && d.param == k.param && d.par == k.words))

/-- The least recently admitted entries that no running descriptor uses give way until `n` blocks are free. -/
def cacheRoom (s : State) (e n : Nat) : Nat → List CacheEntry → Option (List CacheEntry)
  | 0, l => if l.foldl (fun a k => a + recipeBlocks k.words.length) n ≤ 1024 then some l else none
  | fuel + 1, l =>
    if l.foldl (fun a k => a + recipeBlocks k.words.length) n ≤ 1024 then some l
    else
      match l.find? (fun k => !cacheUsed s e k) with
      | some k => cacheRoom s e n fuel (l.erase k)
      | none => none

/-- The words of a block that an engine reads. -/
def fetchWords (s : State) (e a n : Nat) : State × List Nat := (readMem s e a (8 * n), readWords s.mem a n)

/-- The words of a recipe: the block named is read, the later blocks only on a miss. `none` says that no entry is free. -/
def loadRecipe (s : State) (c : Nat) (d : Desc) : Option (State × List Nat) :=
  let e := s.engOf c
  let a := paramAddr (s.ctx c) d
  let (s, first) := fetchWords s e a 8
  let cache := (s.eng e).cache
  match cache.find? (fun k => k.ctx == c && k.param == d.param && k.words.take 8 == first) with
  | some k => some (s.modEng e (fun x => { x with cache := x.cache.erase k ++ [k] }), k.words)
  | none =>
    let n := bits (nth first 0 0) 32 24
    let words := readWords s.mem a (8 * recipeBlocks n)
    let s := readMem s e (a + 64) (64 * (recipeBlocks n - 1))
    match cacheRoom s e (recipeBlocks n) cache.length cache with
    | some l => some (s.modEng e (fun x => { x with cache := l ++ [{ ctx := c, param := d.param, words := words }] }), words)
    | none => none

/-- The parameter block of a descriptor with PB set. -/
def loadParam (s : State) (c : Nat) (d : Desc) : Option (State × List Nat) :=
  if !d.pb then some (s, [])
  else if d.op = opRECIPE then loadRecipe s c d
  else some (fetchWords s (s.engOf c) (paramAddr (s.ctx c) d) (if d.op = opREBOND then 16 else 8))

/-! ## Tile regions (R98) -/

/-- The tile regions that a descriptor names, as (BF16, tile). -/
def Desc.tiles (d : Desc) : List (Bool × Nat) :=
  if d.op = opFOLD || d.op = opDRAIN then [(d.facc, d.ftile)]
  else if d.op = opRECIPE then
    (d.ins.filter (fun p => rTile? p.1 || rOp p.1 == riMAC)).map (fun p => (rAcc p.1, rTile p.1))
  else []

/-- A descriptor has issued its last product or access to its tile regions. -/
def Desc.tilesDone (d : Desc) : Bool :=
  d.over || !d.drains.isEmpty || (d.op == opRECIPE && decide (d.count ≤ d.cursor))

/-- An earlier descriptor holds back one whose tile regions overlap its own. -/
def tilesWait (earlier : List Desc) (d : Desc) : Bool :=
  earlier.any (fun e => !e.tilesDone && d.tiles.any (fun t => e.tiles.any (fun u => tilesMeet t.1 t.2 u.1 u.2)))

/-! ## SIGNATURE (R242, Table 9.4) -/

/-- The 512 bytes of the links' signatures for a job: entry l is that of PE l. -/
def signatureBytes (s : State) (job : Nat) : List Byte :=
  ((List.range 32).map (fun l => leBytes 8 ((s.link l).job job).sentSig ++ leBytes 8 ((s.link l).job job).recvSig)).flatten

/-- SIGNATURE writes the values present when it runs; under COMPARE, bit l of AUX marks entry l as different. -/
def runSignature (s : State) (c q : Nat) : State :=
  let d := s.desc c q
  if d.over then s
  else
    let cmp := bitAt d.sub 0
    let out : Acc := { win := d.dwin, lo := d.doff, hi := d.doff + 512, wr := true }
    let src : List Acc := if cmp then [{ win := d.swin, lo := d.soff, hi := d.soff + 512 }] else []
    let (s, ok) := gate s c q (src ++ [out])
    if !ok then s
    else
      let s := postReads s c src
      let now := signatureBytes s d.job
      let want := Mem.bytes s.mem (s.addrOf d.swin d.soff) 512
      let diff := if cmp then (List.range 32).foldl (fun a l =>
          a + (if (now.drop (16 * l)).take 16 = (want.drop (16 * l)).take 16 then 0 else 2 ^ l)) 0
        else 0
      let s := s.setMem (Mem.wrBytes s.mem (s.addrOf d.dwin d.doff) now)
      let k := d.watchCfg
      let s := s.modDesc c q (fun d => { d with
        finished := true, aux := diff, status := if diff = 0 then none else some stDIGEST
        watch := if k.active then now.foldl (fun w b => w.recByte k b) d.watch else d.watch })
      postWrites s c q [out]

/-! ## Admission -/

/-- The group of a COLLECTIVE or REBOND: that of its instance while present, else as device memory holds it (R219). -/
def groupFor (s : State) (p : Nat) (d : Desc) : Group :=
  match (s.link p).inst? d.job d.ticket with
  | some i => { valid := true, pd := i.pd, n := i.members.length, self := i.self, members := i.members }
  | none => readGroup s d.group

/-- A descriptor that has nothing left to do. -/
def finishDesc (s : State) (c q : Nat) : State := s.modDesc c q (fun d => { d with finished := true })

/-- An instance becomes present: the job's signatures are cleared (R236, R242). -/
def joinInstance (s : State) (p : Nat) (d : Desc) (g : Group) : State :=
  if ((s.link p).inst? d.job d.ticket).isSome then s
  else
    s.modLink p (fun l =>
      let i : Inst := { job := d.job, ticket := d.ticket, pd := g.pd, members := g.members, self := g.self, kind := d.kind }
      let l := { l with insts := l.insts ++ [i] }
      l.setJob d.job { l.job d.job with sentSig := 0, recvSig := 0, sentPart := [], recvPart := [] })

/-- A COLLECTIVE or REBOND that passed its checks: R236, the loss of R259, and the announcements that came before (R257). -/
def admitColl (s : State) (p c : Nat) (d : Desc) (g : Group) : State :=
  let l := s.link p
  if l.insts.any (fun i => (i.job == d.job && decide (d.ticket < i.ticket)) || (i.job != d.job && i.ticket == d.ticket)) then
    endDesc s c d.seq stTICKETABORT
  else
    let s := joinInstance s p d g
    let s := s.modDesc c d.seq (fun d => { d with coll := { members := g.members, self := g.self } })
    let d := s.desc c d.seq
    let s := if g.members.any (fun m => l.lost.contains m) then endDesc s c d.seq stPEERLOST else s
    let bad := l.ann.any (fun a => a.job == d.job && a.ticket == d.ticket && a.bucket == d.bucket && !annAgrees d a)
    if bad && !(s.desc c d.seq).over then abortBucket s p c (s.desc c d.seq) else s

/-- The target of a SAVE_CONTEXT stops (R289): its collectives and leases end with CANCELLED (Table 14.3). -/
def stopTarget (s : State) (t : Nat) : State :=
  let s := s.modCtx t (fun x => { x with saving := true })
  endCtx s t stCANCELLED (fun d => d.isColl || d.op == opLEASE)

/-- The record of STATS at DOFF (R117). -/
def writeStats (s : State) (d : Desc) (part : Bool) : State :=
  s.setMem (Mem.wrBytes s.mem (s.addrOf d.dwin d.doff) (watchRecord d.watch d.statsCfg d.seq part))

/-- A STATS over no elements writes its record, and claims no chunk (R365). -/
def emptyStats (s : State) (c : Nat) (d : Desc) : State :=
  if d.op = opSTATS then
    postWrites (writeStats s d false) c d.seq [{ win := d.dwin, lo := d.doff, hi := d.doff + 256, wr := true }]
  else s

/-- What admission starts for an opcode whose checks have passed. -/
def beginDesc (s : State) (c : Nat) (d : Desc) (g : Group) : State :=
  let e := s.engOf c
  let q := d.seq
  let o := d.op
  let s := wantWatch s e d
  if d.isColl then admitColl s (e - 96) c d g
  else
    let run := startDesc s c d
    if o = opNOP || o = opFENCE then finishDesc run c q
    else if o = opDRAIN then
      run.modDesc c q (fun d => { d with drains :=
        [{ bf16 := d.facc, tile := d.ftile, m := d.fm, n := d.fn, out := d.fout }] })
    else if o = opLEASE then startLease run c q
    else if o = opRIBBON then { run with trace := { run.trace with ribbons := run.trace.ribbons ++ [(c, q)] } }
    else if o = opSAVE then stopTarget run (bits d.soff 11 0)
    else if o = opRESTORE then runRestore (run.modCtx (bits d.doff 11 0) (fun x => { x with restoring := true })) c q
    else if o = opSIGNATURE then (if watchReady s c d then runSignature run c q else run)
    else if d.count = 0 then (if watchReady s c d then finishDesc (emptyStats run c d) c q else run)
    else s

/-- A descriptor is admitted: its checks are made under the engine's epoch (R181, R283). -/
def admitDesc (s : State) (c : Nat) (d : Desc) : State :=
  let e := s.engOf c
  let q := d.seq
  let g : Group := if d.isColl && d.pb && isPe e then groupFor s (e - 96) d else {}
  let res := d.check s c q g
  let s := s.modDesc c q (fun _ => { d with
    admitted := true, tag := (s.eng e).epoch, early := res.isSome, status := res })
  let s := if d.isColl && d.pb then s.modCtx c (fun x => { x with lastTicket := d.ticket }) else s
  let s := if d.isColl && d.pb && res == some stPROTECTION then abortGroup s c (s.desc c q) else s
  if res.isSome then s else beginDesc s c (s.desc c q) g

/-- The descriptor that is admitted next, if R185, R189 and R98 let it be. -/
def nextAdmit (s : State) (c : Nat) : Option Desc :=
  let x := s.ctx c
  match x.descs.find? (fun d => !d.admitted) with
  | none => none
  | some d =>
    let earlier := x.descs.takeWhile (fun e => e.seq != d.seq)
    if d.over || !frontRuns s x.use.engine || !x.resident || x.saving || x.restoring then none
    else if earlier.any (fun e => e.op == opFENCE) then none
    else if (!d.ovl || d.op = opFENCE) && !earlier.isEmpty then none
    else some d

/-- The row of an opcode: the next descriptor of the context is admitted if it has that opcode. The row of NOP also admits
a descriptor whose opcode is not in Table 0.4. -/
def admitRow (s : State) (c op : Nat) : State :=
  match nextAdmit s c with
  | none => s
  | some d =>
    if d.op = op || (op = opNOP && !knownOp d.op) then
      match loadParam s c d with
      | none => s
      | some (s1, par) =>
        let d := { d with par := par }
        let earlier := (s.ctx c).descs.takeWhile (fun e => e.seq != d.seq)
        if tilesWait earlier d then s else admitDesc s1 c d
    else s

def execConvert (c : Nat) (s : State) : Host.Outcome State Fault Refusal := .next (admitRow s c opCONVERT)
def execQuantise (c : Nat) (s : State) : Host.Outcome State Fault Refusal := .next (admitRow s c opQUANTISE)
def execDequantise (c : Nat) (s : State) : Host.Outcome State Fault Refusal := .next (admitRow s c opDEQUANTISE)
def execRotate (c : Nat) (s : State) : Host.Outcome State Fault Refusal := .next (admitRow s c opROTATE)
def execFold (c : Nat) (s : State) : Host.Outcome State Fault Refusal := .next (admitRow s c opFOLD)
def execReduce (c : Nat) (s : State) : Host.Outcome State Fault Refusal := .next (admitRow s c opREDUCE)
def execStats (c : Nat) (s : State) : Host.Outcome State Fault Refusal := .next (admitRow s c opSTATS)
def execSample (c : Nat) (s : State) : Host.Outcome State Fault Refusal := .next (admitRow s c opSAMPLE)
def execFillRandom (c : Nat) (s : State) : Host.Outcome State Fault Refusal := .next (admitRow s c opFILL)
def execRecipe (c : Nat) (s : State) : Host.Outcome State Fault Refusal := .next (admitRow s c opRECIPE)
def execCollective (c : Nat) (s : State) : Host.Outcome State Fault Refusal := .next (admitRow s c opCOLLECTIVE)
def execRebond (c : Nat) (s : State) : Host.Outcome State Fault Refusal := .next (admitRow s c opREBOND)
def execTicketLease (c : Nat) (s : State) : Host.Outcome State Fault Refusal := .next (admitRow s c opLEASE)
def execSignature (c : Nat) (s : State) : Host.Outcome State Fault Refusal := .next (admitRow s c opSIGNATURE)
def execFence (c : Nat) (s : State) : Host.Outcome State Fault Refusal := .next (admitRow s c opFENCE)
def execRibbon (c : Nat) (s : State) : Host.Outcome State Fault Refusal := .next (admitRow s c opRIBBON)
def execSaveContext (c : Nat) (s : State) : Host.Outcome State Fault Refusal := .next (admitRow s c opSAVE)
def execRestoreContext (c : Nat) (s : State) : Host.Outcome State Fault Refusal := .next (admitRow s c opRESTORE)
def execDrain (c : Nat) (s : State) : Host.Outcome State Fault Refusal := .next (admitRow s c opDRAIN)
def execNop (c : Nat) (s : State) : Host.Outcome State Fault Refusal := .next (admitRow s c opNOP)

end Sys2Proof.Machine
end

