-- ==== Sys2Proof/Machine/Liveness.lean ====
section
/-! DEFINITION. Liveness of peers: watch sets, heartbeats, loss, the link going down and pause (R250, R258 to R260,
R274). -/

namespace Sys2Proof.Machine

/-- The ranks on either side in a group of `n`. -/
def neighbours (n r : Nat) : List Nat := if n ≤ 1 then [] else [(r + n - 1) % n, (r + 1) % n]

/-- The devices that a present instance watches: neighbours of a chain kind and of an all-to-all (R258); for a REBOND every
member with which a present bucket exchanges frames (R274). -/
def instWatch (s : State) (p : Nat) (i : Inst) : List Nat :=
  let ranks := if i.kind = 6 then
      ((s.instDescs p i.job i.ticket).map (fun x => x.2.rebFrom i.self ++ x.2.rebTo i.self)).flatten
    else neighbours i.members.length i.self
  ranks.map (fun r => nth i.members r 0)

/-- The keystone and its deputies watch one another on KPORT (R263). -/
def domainWatch (s : State) (p : Nat) : List Nat :=
  let t := s.dom.keystone :: s.dom.deputies
  if p = s.kport && s.dom.member && t.contains s.dom.deviceId then t else []

/-- The watch set of a PE. -/
def watchSet (s : State) (p : Nat) : List Nat :=
  ((((s.link p).insts.map (instWatch s p)).flatten ++ domainWatch s p).filter (· ≠ s.dom.deviceId)).eraseDups

/-- A frame of any type went to the device within the last 2 µs. -/
def sentLately (s : State) (p dev : Nat) : Bool :=
  let t := SMap.get (s.link p).sentAt 0 dev
  t != 0 && decide (s.time + 1 < t + 2000)

/-- HEARTBEAT is answered with ECHO, unless a frame went to its sender within 2 µs (R258); with JOIN 0 the device is silent
(R263). -/
def execHeartbeat (pe : Nat) (f : RxFrame) (s : State) : Host.Outcome State Fault Refusal :=
  .next (receive s pe 6 f true (fun s h =>
    if s.dom.join && !bitAt h.flags 6 && !sentLately s pe h.src then sendCtrl s pe { ownHdr s 6 h.src with flags := flEcho } else s))

/-- A device of the watch set has been sent nothing for 2 µs: a HEARTBEAT goes (R258). -/
def execHeartbeatTimer (pe dev : Nat) (s : State) : Host.Outcome State Fault Refusal :=
  .next (if s.dom.join && (watchSet s pe).contains dev && !sentLately s pe dev then sendCtrl s pe (ownHdr s 6 dev) else s)

/-- A loss ends every descriptor of each present instance whose group holds the device with PEER_LOST (R241, R259). -/
def loseInstances (s : State) (p dev : Nat) : State :=
  ((s.link p).insts.filter (fun i => i.members.contains dev)).foldl (fun s i =>
    (s.instDescs p i.job i.ticket).foldl (fun s x => endDesc s x.1 x.2.seq stPEERLOST) s) s

/-- A watched device has been silent for 20 µs: it is marked lost (R259), and on the domain port the succession of R265
follows. -/
def declare (s : State) (p dev : Nat) : State :=
  let s := s.modLink p (fun l => { l with
    lost := l.lost ++ [dev], cnt := { l.cnt with lost := satInc32 l.cnt.lost 1 } })
  let s := loseInstances s p dev
  let s := if p = s.kport then succession s else s
  workLink s p

def execDeclareLost (pe dev : Nat) (s : State) : Host.Outcome State Fault Refusal :=
  .next (if linkLive s pe && (watchSet s pe).contains dev && !(s.link pe).lost.contains dev then
    declare s pe dev else s)

/-- A lost device is probed every 100 µs (R259). -/
def execLostProbe (pe dev : Nat) (s : State) : Host.Outcome State Fault Refusal :=
  .next (if s.dom.join && (s.link pe).lost.contains dev then sendCtrl s pe (ownHdr s 6 dev) else s)

/-- The MAC reports the link down: nothing is sent, and everything is kept (R260). -/
def execLinkDown (pe : Nat) (s : State) : Host.Outcome State Fault Refusal :=
  .next (s.modEng (peEng pe) (fun x => { x with linkUp := false }))

def execLinkUp (pe : Nat) (s : State) : Host.Outcome State Fault Refusal :=
  .next (pump (s.modEng (peEng pe) (fun x => { x with linkUp := true })) pe)

/-- The peer pauses or releases a priority; the frames of its class wait (R250). -/
def execPauseIn (pe prio : Nat) (on : Bool) (s : State) : Host.Outcome State Fault Refusal :=
  .next (
    let s := s.modLink pe (fun l => { l with
      paused := if on then (if l.paused.contains prio then l.paused else l.paused ++ [prio]) else l.paused.filter (· ≠ prio) })
    pump s pe)

end Sys2Proof.Machine
end

