-- ==== Sys2Proof/Machine/Inline.lean ====
section
/-! DEFINITION. Inline service (R154 to R164, R285): reads, writes into write-combining entries, merges, and the events of
inline windows. -/

namespace Sys2Proof.Machine

/-! ## Blocks (R156, R157) -/

/-- The mask of elements that a block's stored state marks as written (Table 8.3). -/
def blockMask (s : State) (x : InlineSet) (b : Nat) : Nat :=
  let base := s.inlBase x
  match Mem.rdBits s.mem (base + x.stateOff) (2 * b) 2 with
  | 1 => 2 ^ x.blockC - 1
  | 2 => Mem.rd s.mem (base + x.maskOff + b * (x.blockC / 8)) (x.blockC / 8)
  | _ => 0

/-- The codes, in the view format, of elements `lo` to `hi - 1` of block `b`, with their events (R157, R83). -/
def blockRead (s : State) (x : InlineSet) (b lo hi : Nat) : List (Nat × Ev) :=
  let mask := blockMask s x b
  let t := x.tensor (s.inlBase x)
  (range2 lo hi).map (fun j =>
    if bitAt mask j then
      let p := convert (dequantElem s.mem t x.seed 0 (b * x.blockC + j)) x.viewFmt false false .rne 0
      (p.1, { p.2 with nf := codeNonfinite x.viewFmt p.1 })
    else (0, .none))

/-- Events of an inline window's conversions (R162), and of its engine's counters (R315). The 40-bit counts wrap (DESIGN
CHOICE, log 91). -/
def inlineEvents (s : State) (e i : Nat) (evs : List Ev) : State :=
  let sat := (evs.filter (·.sat)).length
  let fl := (evs.filter (·.flush)).length
  let s := s.modInl i (fun x => { x with
    satCnt := (x.satCnt + sat) % 2 ^ 40, flushCnt := (x.flushCnt + fl) % 2 ^ 40
    nonfin := x.nonfin || evs.any (·.nf) })
  countNumeric s e sat fl 0 0

/-! ## Merging (R158) -/

/-- The element values of a block after a write-combining entry is laid over it, as bytes of the view. -/
def overlay (old : List Byte) (data : List (Nat × Byte)) : List Byte :=
  data.foldl (fun l p => l.set p.1 p.2) old

/-- The elements that an entry has written, as a mask. -/
def WcEntry.mask (w : WcEntry) (vb : Nat) : Nat := w.data.foldl (fun m p => m ||| 2 ^ (p.1 / vb)) 0

/-- The ranges of memory, as address and length, that hold block `b` of a window: its element, scale and quoin bytes (R154). -/
def blockRanges (x : InlineSet) (t : Tensor) (b : Nat) : List (Nat × Nat) :=
  let lo := b * x.blockC
  let hi := lo + x.blockC
  if t.f.b = 0 then [(t.base + lo * t.w / 8, ceilDiv (x.blockC * t.w) 8)]
  else
    let g0 := t.ashlar lo
    let g1 := t.ashlar (hi - 1)
    let ab := if t.f.bound then t.ab + 1 else t.ab
    [(t.base + g0 * ab, (g1 + 1 - g0) * ab)] ++
      (if t.f.bound then [] else [(t.base + t.scaleOff g0, g1 + 1 - g0)]) ++
      (if t.f.quoins = 0 then [] else [(t.base + t.quoinOff g0 0, 4 * t.f.quoins * (g1 + 1 - g0))])

/-- The ranges of the stored state of block `b`: its state bits and its mask (Table 8.3). -/
def stateRanges (x : InlineSet) (base b : Nat) : List (Nat × Nat) :=
  [(base + x.stateOff + b / 4, 1), (base + x.maskOff + b * (x.blockC / 8), x.blockC / 8)]

/-- Inline service of an engine reads ranges of its stack. -/
def inlineReads (s : State) (e : Nat) (l : List (Nat × Nat)) : State := l.foldl (fun s r => readMem s e r.1 r.2) s

/-- Inline service of an engine writes the bytes now in ranges of its stack. -/
def inlineWrites (s : State) (e : Nat) (l : List (Nat × Nat)) : State :=
  s.sendReqs e ((l.map (fun r => writeReqs s e r.1 (Mem.bytes s.mem r.1 r.2) { kind := 6, ctx := noCtx })).flatten)

/-- An entry is merged into its block: quantised as one unit, then packed planes, mask and state are written (R158). -/
def mergeEntry (s : State) (e : Nat) (w : WcEntry) : State :=
  let x := (s.inl w.win).use
  let c := x.blockC
  let base := s.inlBase x
  let t := x.tensor base
  let f := x.fmt
  let lo := w.block * c
  let old := blockMask s x w.block
  let was := ((blockRead s x w.block 0 c).map (fun p => leBytes x.viewBytes p.1)).flatten
  let bytes := overlay was w.data
  let code (j : Nat) : Nat := leNat ((bytes.drop (j * x.viewBytes)).take x.viewBytes)
  let v := (List.range c).map (fun j => toF32 (xvCode x.viewFmt false (code j)))
  let rs := t.rowScale s.mem (t.row lo)
  let scale (l : List F32) : List F32 := if f.rowsc then l.map (fun a => fDiv a rs) else l
  let (m, evs) :=
    if f.ash = 0 then
      let o := (scale v).map (fun a => convertOne (xf a) f.fmt false false .rne 0)
      ((List.range c).foldl (fun m j => Mem.wrBits m base ((lo + j) * t.w) t.w (nth o j (0, Ev.none)).1) s.mem,
        o.map (fun p => { p.2 with nf := codeNonfinite f.fmt p.1 }))
    else
      let outs := quantRun f false false .rne (fun _ => 0) c 0 (scale (rotateIf f x.seed lo false v))
      (writeRun s.mem t (t.ashlar lo) outs, (outs.map (·.evs)).flatten)
  let mask := old ||| w.mask x.viewBytes
  let full := mask = 2 ^ c - 1
  let m := if full then m else Mem.wr m (base + x.maskOff + w.block * (c / 8)) (c / 8) mask
  let m := Mem.wrBits m (base + x.stateOff) (2 * w.block) 2 (if full then 1 else 2)
  let at' := blockRanges x t w.block
  let s := inlineReads s e (stateRanges x base w.block ++ (if old = 0 then [] else at'))
  let s := inlineWrites (s.setMem m) e (at' ++ stateRanges x base w.block)
  let s := if old = 0 then s else countIn s e none t.w c
  let s := countOut s e none t.w c
  inlineEvents (s.modEng e (fun y => { y with issued := true })) e w.win evs

/-- The entry of a block, if the engine holds one. -/
def Engine.entry? (x : Engine) (i b : Nat) : Option WcEntry := x.wc.find? (fun w => w.win == i && w.block == b)
/-- The entry of a block taken out of the buffer. -/
def dropEntry (s : State) (e i b : Nat) : State :=
  s.modEng e (fun x => { x with wc := x.wc.filter (fun w => !(w.win == i && w.block == b)) })

/-- An error, or bad parity, in the data of a block that inline service reads (R161, R307, R347): the record names window and
block, and the block's buffered writes are discarded. -/
def inlineStackErr (s : State) (e i b : Nat) (parity : Bool) : State :=
  let s := external s e parity { lockind := 2, loc := b, win := i, noctx := true }
  (dropEntry s e i b).flushEnd i

/-- A check that fails in inline service names the window and the block (R301). A write-combining entry that is lost leaves its
block unchanged, and the next access to the block receives DATA (R306). -/
def inlineFails (s : State) (e i b : Nat) (k : Detection) : State :=
  let s := detect s e k.unit (theQuire k) (kindCode k.kind) k.synd { lockind := 2, win := i, loc := b, noctx := true } false
  if onlyInside k && k.kind != .secdedCorr && ((s.eng e).entry? i b).isSome then
    ((dropEntry s e i b).modInl i (fun x => { x with lost := x.lost ++ [b] })).flushEnd i
  else s

/-- A merge of the entry of a block: `part` says how the stack answers the reads that it makes; where a check fails, the entry
stays for a later merge (R298, R305). -/
def mergeBlock (s : State) (e i b : Nat) (part : PartStatus) : State :=
  match (s.eng e).entry? i b with
  | none => s
  | some w =>
    match part with
    | .stackErr => inlineStackErr s e i b false
    | .parity => inlineStackErr s e i b true
    | .failed k =>
      let s := inlineFails s e i b k
      if k.kind == .secdedCorr && !(s.eng e).fenced then (mergeEntry (dropEntry s e i b) e w).flushEnd i else s
    | .ok => (mergeEntry (dropEntry s e i b) e w).flushEnd i

/-- A write-combining entry that a flush covers, or whose engine is quiescing, is merged (R158, R159, R345). -/
def execMerge (se i block : Nat) (part : PartStatus) (s : State) : Host.Outcome State Fault Refusal :=
  .next (match (s.eng se).entry? i block with
    | none => s
    | some w =>
      if ((s.eng se).isOn && w.inFlush && !(s.eng se).testing && !(s.eng se).holding) || (s.eng se).st == .quiescing then
        mergeBlock s se i block part
      else s)

/-! ## Accesses (R16, R161) -/

/-- VALID of a PD as an inline path that has adopted epoch `ep` sees it (R285). -/
def State.pdValidAt (s : State) (ep pd : Nat) : Bool :=
  match s.pdHist.find? (fun h => h.2.1 == pd && before32 ep h.1) with
  | some h => h.2.2
  | none => (s.pdt pd).valid

/-- The ACTIVE window that serves an address (R155, R160). -/
def State.inlineAt (s : State) (a : Nat) : Option Nat :=
  (s.inlines.find? (fun p => p.2.active && p.2.enable && p.2.use.viewBase ≤ a && a < p.2.use.viewBase + p.2.use.viewLen)).map (·.1)

/-- One part of an access: window, serving engine, block, byte offset in the block, address and length. -/
structure Part where
  win : Option Nat := none
  se : Nat := 0
  block : Nat := 0
  off : Nat := 0
  addr : Nat := 0
  len : Nat := 0
  deriving DecidableEq, Repr, Inhabited

/-- The part that begins at an address: to the next 4 KiB boundary of the view, and to the end of its block (R16, R161). -/
def State.partAt (s : State) (a n : Nat) : Part :=
  match s.inlineAt a with
  | none => { addr := a, len := min n (4096 - a % 4096) }
  | some i =>
    let x := (s.inl i).use
    let o := a - x.viewBase
    let bb := x.blockC * x.viewBytes
    { win := some i, se := 8 * x.stack + o / 4096 % 8, block := o / bb, off := o % bb, addr := a
      len := min n (min (4096 - o % 4096) (bb - o % bb)) }

/-- The parts of an access, in ascending address order. -/
def State.parts (s : State) : Nat → Nat → Nat → List Part
  | 0, _, _ => []
  | fuel + 1, a, n =>
    if n = 0 then [] else
    let p := s.partAt a n
    p :: s.parts fuel (a + max 1 p.len) (n - max 1 p.len)

/-- The access may be served, by a path that has adopted epoch `ep` (R285). -/
def State.inlineMay (s : State) (ep i pd : Nat) (read : Bool) : Bool :=
  let x := (s.inl i).use
  s.pdValidAt ep pd && (pd == x.pd || (read && x.sharedRd))

/-- A served part (Table 16.1). -/
def countServed (s : State) (e : Nat) : State :=
  s.modEng e (fun x => { x with issued := true, cnt := { x.cnt with inlineCnt := x.cnt.inlineCnt + 1 } })

/-- A block whose buffered writes were lost gives DATA once (R306). -/
def takeLost (s : State) (i b : Nat) : State := s.modInl i (fun x => { x with lost := x.lost.filter (· ≠ b) })

/-! ## Holding a part -/

/-- A part that an engine accepts and holds opens its access, if no earlier part has. -/
def holdPart (s : State) (e parts : Nat) (p : HeldInline) : State :=
  let s := if p.acc = s.accNext + 1 then
      { s with accNext := s.accNext + 1
               accesses := s.accesses ++ [{ id := p.acc, tag := p.tag, next := p.idx, parts := parts : OpenAccess }] }
    else s
  s.modEng e (fun y => { y with heldIn := y.heldIn ++ [p] })

/-! ## Serving a part -/

/-- The inline accesses that a part's window and block refuse, lose or fail (R161): the state and the code, or none where the
part can be served. -/
def partRefused (s : State) (e i : Nat) (p : Part) (h : HeldInline) : Option (State × Nat) :=
  if !s.inlineMay h.epoch i h.pd (!h.isWrite) then some (s, 2)
  else if (s.inl i).lost.contains p.block then some (takeLost s i p.block, 3)
  else if h.isWrite then none
  else match h.part with
    | .stackErr => some (inlineStackErr s e i p.block false, 3)
    | .parity => some (inlineStackErr s e i p.block true, 3)
    | _ => none

/-- A read of one part (R157). -/
def servePartRead (s : State) (e i : Nat) (p : Part) (h : HeldInline) : State :=
  let s := mergeBlock s e i p.block .ok
  let x := (s.inl i).use
  let vb := x.viewBytes
  let lo := p.off / vb
  let hi := ceilDiv (p.off + p.len) vb
  let r := blockRead s x p.block lo hi
  let s := inlineReads s e (stateRanges x (s.inlBase x) p.block ++ blockRanges x (x.tensor (s.inlBase x)) p.block)
  let bytes := ((r.map (fun q => leBytes vb q.1)).flatten.drop (p.off - lo * vb)).take p.len
  respond (countIn (inlineEvents (countServed s e) e i (r.map (·.2))) e none x.fmt.fmt.w (hi - lo)) h 0 bytes

/-- A write of one part: its enabled bytes enter the block's entry; a full buffer first merges the entry least recently
written, and an entry that holds every element is merged (R158, R159). -/
def servePartWrite (s : State) (e i : Nat) (p : Part) (h : HeldInline) : State :=
  let bytes := (List.range p.len).filterMap (fun k => (nth h.data k none).map (fun b => (p.off + k, b)))
  let s := countServed s e
  let s :=
    if ((s.eng e).entry? i p.block).isNone && decide (64 ≤ (s.eng e).wc.length) then
      match (s.eng e).wc.foldl (fun (a : Option WcEntry) w => match a with
          | none => some w
          | some v => if w.stamp < v.stamp then some w else some v) none with
      | some w => mergeBlock s e w.win w.block h.part
      | none => s
    else s
  let s := s.modEng e (fun y =>
    let st := y.wcStamp + 1
    { y with
      wcStamp := st
      wc := if (y.entry? i p.block).isSome then
          y.wc.map (fun w => if w.win = i && w.block = p.block then { w with data := w.data ++ bytes, stamp := st } else w)
        else y.wc ++ [{ win := i, block := p.block, data := bytes, stamp := st }] })
  let s := respond s h 0 []
  match (s.eng e).entry? i p.block with
  | some w =>
    if w.mask (s.inl i).use.viewBytes = 2 ^ (s.inl i).use.blockC - 1 then mergeBlock s e i p.block h.part else s
  | none => s

/-- A part is served by its engine. -/
def serveNow (s : State) (e i : Nat) (p : Part) (h : HeldInline) : State :=
  match partRefused s e i p h with
  | some r => respond r.1 h r.2 []
  | none => if h.isWrite then servePartWrite s e i p h else servePartRead s e i p h

/-- A part whose conversion fails a check: a corrected error is served; data that is lost gives DATA; else the part is held
until the test ends, and is served then (R298, R304, R305). -/
def serveFails (s : State) (e i parts : Nat) (p : Part) (h : HeldInline) (k : Detection) : State :=
  let s := inlineFails s e i p.block k
  let h := { h with part := .ok }
  if (s.eng e).fenced then respond s h 3 []
  else if k.kind == .secdedCorr || onlyInside k then serveNow s e i p h
  else holdPart s e parts h

/-- One part of an access of `parts` reaches its engine: while the fabric is absent or the engine not ON the package answers
FABRIC_ABSENT (Table 15.6), a fenced engine gives DATA (R309), one in a self-test or a hold accepts and holds it (R304, R333). -/
def servePart (s : State) (parts : Nat) (p : Part) (h : HeldInline) : State :=
  match p.win with
  | none => respond s h 1 []
  | some i =>
    let x := s.eng p.se
    let h := { h with epoch := x.epoch }
    if !x.isOn then respond s h 4 []
    else if x.fenced then respond s h 3 []
    else if x.testing || x.holding then holdPart s p.se parts h
    else match h.part with
      | .failed k => serveFails s p.se i parts p h k
      | _ => serveNow s p.se i p h

/-- The fabric is absent for the compute cores: the always-on island is not up, or the fabric is in reset (R311). -/
def State.absent (s : State) : Bool := !s.pins.aonPg || !s.pins.fabRstN

/-- An inline access in the aperture: an absent fabric is answered for by the package, bad parity serves nothing (R347), else
every part is served in turn. -/
def inlineAccess (s : State) (isWrite parityOk : Bool) (st : List PartStatus) (tag addr pd len : Nat)
    (data : List (Option Byte)) : State :=
  let ps := s.parts len addr len
  if s.absent then s.out (.inlineResp tag 4 [])
  else if !parityOk then
    match ps with
    | p :: _ =>
      if p.win.isSome && !(s.eng p.se).isOn then s.out (.inlineResp tag 4 [])
      else
        let s := external s p.se true { lockind := 2, loc := p.block, win := p.win.getD 0, noctx := true }
        s.out (.inlineResp tag 3 [])
    | [] => s
  else
    let id := s.accNext + 1
    (List.range ps.length).foldl (fun s j =>
      let p := nth ps j {}
      servePart s ps.length p { isWrite := isWrite, tag := tag, addr := p.addr, pd := pd, len := p.len
                                data := data.drop (p.addr - addr), part := nth st j .ok, acc := id, idx := j }) s

/-- A compute core's inline read of `len` bytes (R157). -/
def execInlineRead (parityOk : Bool) (parts : List PartStatus) (addr : Nat) (who : Asker) (len : Nat) (s : State) :
    Host.Outcome State Fault Refusal :=
  .next (inlineAccess s false parityOk parts who.tag addr who.pd len [])

/-- A compute core's inline write; a byte that is `none` is not enabled (R158). -/
def execInlineWrite (parityOk : Bool) (parts : List PartStatus) (addr : Nat) (who : Asker) (data : List (Option Byte))
    (s : State) : Host.Outcome State Fault Refusal :=
  .next (inlineAccess s true parityOk parts who.tag addr who.pd data.length data)

/-- A held part is served under the epoch under which it was accepted (R285, R304, R334). A window that is no longer ACTIVE gives
UNMAPPED. -/
def serveHeld (s : State) (e : Nat) (h : HeldInline) : State :=
  let p := s.partAt h.addr h.len
  match p.win with
  | none => respond s h 1 []
  | some i =>
    match h.part with
    | .failed k =>
      let s := inlineFails s e i p.block k
      if (s.eng e).fenced then respond s h 3 [] else serveNow s e i p { h with part := .ok }
    | _ => serveNow s e i p h

/-- The accesses that an engine holds are served, in order (R304, R334). -/
def releaseInline (s : State) (e : Nat) : State :=
  let h := (s.eng e).heldIn
  h.foldl (fun s a => serveHeld s e a) (s.modEng e (fun x => { x with heldIn := [] }))

/-- The block-state plane of an enabled window is initialised, and ACTIVE becomes 1 (R155). -/
def execInlineActivate (i : Nat) (s : State) : Host.Outcome State Fault Refusal :=
  let x := s.inl i
  .next (if x.initPending then
    let b := s.inlBase x.use + x.use.stateOff
    let m := (List.range x.use.blocks).foldl (fun m k => Mem.wrBits m b (2 * k) 2 (bit x.use.initSt)) s.mem
    (s.setMem m).setInl i { x with initPending := false, active := true }
  else s)

end Sys2Proof.Machine
end

