-- ==== Sys2Proof/Machine/Strips.lean ====
section
/-! DEFINITION. Issuing strips (R13, R21, R81, R94, R98, R148, R188, R216), the checks that fail in one (R297, R301,
R306), and drains with their output stages (R91, R99, R100, R210). -/

namespace Sys2Proof.Machine

/-! ## Which strip comes next -/

/-- The last boundary at or below `hi` of the groups of `g` columns, in rows of `d` (R81, R216). -/
def groupDown (d g hi : Nat) : Nat := hi - hi % max 1 d % max 1 g

/-- The first boundary of these groups at or above `hi`, within `count` elements. -/
def groupUp (d g hi count : Nat) : Nat :=
  let c := hi % max 1 d
  if c % max 1 g = 0 then min hi count else min count (hi - c + min (max 1 d) (ceilDiv c (max 1 g) * max 1 g))

namespace Desc

/-- The rows and the groups of columns that a command finishes whole: ashlars and rotation blocks (R81, R216). -/
def groups (d : Desc) : Nat × Nat :=
  let o := d.op
  if o = opQUANTISE then (d.dfmt.d d.count, d.dfmt.group)
  else if o = opDEQUANTISE then (d.sfmt.d d.count, d.sfmt.group)
  else if o = opROTATE then (d.sfmt.d d.count, 2 ^ d.func)
  else if o = opRECIPE then (d.rD, d.rGroup)
  else (1, 1)

/-- What the next strip works on, on an engine of `l` lanes. The strip is the `l` positions from `pos` (R13); a group that it
only begins is worked on with the strip that ends it. A FOLD takes the steps of one request (R101). -/
def nextStrip (d : Desc) (l : Nat) : Nat × Nat :=
  if d.op = opFOLD then (d.cursor, min d.fk (d.cursor + d.foldSteps l))
  else
    let hi := min d.count ((if d.op = opREDUCE then d.cursor else max d.pos d.cursor) + l)
    (d.cursor, if hi = d.count then hi else max (d.cursor + 1) (groupDown d.groups.1 d.groups.2 hi))

/-- A streaming command has every strip behind it. -/
def stripsDone (d : Desc) : Bool :=
  let o := d.op
  if o = opFOLD then d.finished || !d.drains.isEmpty
  else if o = opSAMPLE then decide (d.count ≤ d.cursor) && d.rows.isEmpty
  else if o = opREDUCE then decide (d.count ≤ d.cursor) && d.pass == 0
  else decide (d.count ≤ d.cursor)

/-- Opcodes that work in strips of their own. -/
def isStream (d : Desc) : Bool :=
  [opCONVERT, opQUANTISE, opDEQUANTISE, opROTATE, opFOLD, opREDUCE, opSTATS, opSAMPLE, opFILL, opRECIPE].contains d.op

end Desc

/-- Products to a tile wait for the drains of its region that were asked for before (R98, R99). -/
def drainAhead (s : State) (c : Nat) (d : Desc) : Bool :=
  (earlier s c d.seq).any (fun e => e.drains.any (fun r => !r.exchanged && d.tiles.any (fun t => tilesMeet r.bf16 r.tile t.1 t.2)))

/-- The descriptor's row record is claimed and read before what it names (R134). -/
def sampleSpans (s : State) (d : Desc) (l : Nat) : List Acc :=
  let r := d.nextRow
  let rr := rowRec s s.mem d r.row
  let out : Acc := { win := d.dwin, lo := d.doff + 16 * r.row, hi := d.doff + 16 * r.row + 16, wr := true }
  if rowBad s d rr then [out]
  else
    let hi := min rr.len (r.col + l)
    tensorSpan d.swin rr.scores { elem := d.sfmt.elem } rr.len r.col hi false ++
      (if rr.ban then [{ win := d.banWin, lo := 64 * rr.banoff + r.col / 8, hi := 64 * rr.banoff + ceilDiv hi 8 }] else []) ++ [out]

/-- The chunks of the next strip, claimed in the order of R148; the answer says whether the strip may issue. -/
def gateStrip (s : State) (c : Nat) (d : Desc) : State × List Acc × Bool :=
  let l := lanes (s.engOf c)
  if d.op = opSAMPLE then
    let r := d.nextRow
    let rec' : Acc := { win := d.rowWin, lo := d.rowOff + 32 * r.row, hi := d.rowOff + 32 * r.row + 32 }
    let (s, ok) := gate s c d.seq [rec']
    if !ok then (s, [rec'], false)
    else
      let sp := sampleSpans s d l
      let (s, ok) := gate s c d.seq sp
      (s, sp, ok)
  else
    let x := d.nextStrip l
    let sp := d.stripSpan x.1 x.2
    let (s, ok) := gate s c d.seq sp
    (s, sp, ok)

/-- One of the 48 sequence slots of an engine, which its contexts share, is free (R141). -/
def slotFree (s : State) (e : Nat) : Bool :=
  decide (((s.residents e).foldl (fun a c => a + (((s.ctx c).descs.map (fun d => d.rows.length)).sum)) 0) < 48)

/-- A descriptor may issue a strip of its own now. A row of SAMPLE enters a slot that is free; each SAMPLE has one row in a slot
at a time (DESIGN CHOICE, log 88). -/
def mayStrip (s : State) (c : Nat) (d : Desc) : Bool :=
  d.admitted && !d.over && d.isStream && !d.stripsDone && watchReady s c d && !(s.ctx c).saving && !drainAhead s c d &&
    !heldByTest (s.eng (s.engOf c)) c d.seq && (d.op != opSAMPLE || !d.rows.isEmpty || slotFree s (s.engOf c))

/-! ## The start of a chunk, for a redo (R81, R116, R142, R216, R305) -/

/-- The bytes of the live tiles that a recipe accumulates in. -/
def tileBytesOf (d : Desc) (live : List (Nat × Byte)) : List (Nat × Byte) :=
  live.filter (fun p => d.tiles.any (fun t => decide (tileBase t.1 t.2 ≤ p.1) && decide (p.1 < tileBase t.1 t.2 + tileBytes t.1)))

/-- The states of a command are noted where its work enters another chunk. -/
def checkpoint (st : Strip) (key : List Nat) : Strip :=
  let d := st.d
  if d.ckpt.on && d.ckpt.key == key then st
  else
    let k : Ckpt :=
      { on := true, key := key, cursor := d.cursor, pass := d.pass, sat := d.sat, flush := d.flush, aux := d.aux, nonfin := d.nonfin
        firstNf := d.firstNf, events := d.events, longsum := d.longsum, watch := d.watch, reds := d.reds, rows := d.rows
        drains := d.drains, tiles := if d.op = opRECIPE then tileBytesOf d st.live else [] }
    { st with d := { d with ckpt := k } }

/-- The end of the part of elements `i` to `hi - 1` that begins in the chunk in which element `i` begins, group by group. -/
def partEnd (s : State) (d : Desc) (hi : Nat) : Nat → Nat → Nat
  | 0, _ => hi
  | fuel + 1, i =>
    let j := groupUp d.groups.1 d.groups.2 (i + 1) d.count
    if hi ≤ j || workChunk s d i == workChunk s d (hi - 1) then hi
    else if workChunk s d j != workChunk s d i then j
    else partEnd s d hi fuel j

/-- The work on elements `lo` to `hi - 1`, chunk by chunk. -/
def byChunks (s : State) (work : Strip → Nat → Nat → Strip) (hi : Nat) : Nat → Strip → Nat → Strip
  | 0, st, _ => st
  | fuel + 1, st, lo =>
    if hi ≤ lo then st
    else
      let st := checkpoint st (workChunk s st.d lo)
      let e := partEnd s st.d hi (hi - lo) lo
      let r := work st lo e
      byChunks s work hi fuel { r with d := { r.d with cursor := e } } e

/-! ## Running a strip -/

/-- The ranges in which a command reads its sources. -/
def Desc.sources (d : Desc) : List Acc :=
  if d.op = opQUANTISE then [tensorAcc d.swin d.soff d.sfmt d.count false]
  else if d.op = opRECIPE then (d.slots.filter (fun x => !x.dest)).map (fun x => { win := x.win, lo := x.off, hi := x.off + slotBytes d x })
  else d.accs.filter (fun a => !a.wr)

/-- Memory as a command's sources are read: without what the command itself has written over them (R14, R81, R216, log 85). -/
def Desc.sourceMem (d : Desc) (m : Mem) : Mem := d.before.foldr (fun r m => Mem.wrBytes m r.1 r.2) m

/-- The bytes of its sources that a strip is about to replace are kept. -/
def Desc.keepBefore (s : State) (d : Desc) (sp : List Acc) : Desc :=
  let hit := sp.filter (fun a => a.wr && d.sources.any (fun b => Desc.rangesMeet s a.win a.lo a.hi b.win b.lo b.hi))
  if hit.isEmpty then d
  else { d with before := d.before ++ hit.map (fun a => (s.addrOf a.win a.lo, Mem.bytes s.mem (s.addrOf a.win a.lo) (a.hi - a.lo))) }

/-- The residuals of the chunks that the cursor has left are written (R81); the bytes they replace are kept for a redo. -/
def flushHeld (s : State) (st : Strip) : Strip :=
  let d := st.d
  if d.held.isEmpty then st
  else
    let out (i : Nat) : Bool := d.count ≤ d.cursor || workChunk s d i != workChunk s d d.cursor
    let t := d.resT s
    let n := t.w / 8
    let old := (d.held.filter (fun p => out p.1)).map (fun p => (t.base + p.1 * n, Mem.bytes st.mem (t.base + p.1 * n) n))
    let keep := d.before.filter (fun r => decide (r.1 < t.base) || decide (t.base + tensorBytes t.f t.n ≤ r.1))
    let (m, d) := d.writeHeld s st.mem out
    { st with mem := m, d := { d with before := keep ++ old } }

/-- Every residual that a descriptor holds is written: it stops or ends (R81). -/
def releaseHeld (s : State) (c q : Nat) : State :=
  let d := s.desc c q
  if d.held.isEmpty then s
  else
    let r := d.writeHeld s s.mem (fun _ => true)
    (s.setMem r.1).modDesc c q (fun d => { d with held := [] })

/-- The work on range `x`, on an engine of `l` lanes. -/
def stripWork (s : State) (d : Desc) (live : List (Nat × Byte)) (l : Nat) (x : Nat × Nat) : Strip :=
  let st : Strip := { mem := s.mem, rd := d.sourceMem s.mem, d := d, live := live }
  let o := d.op
  if o = opREDUCE then stripReduce s (fun st => checkpoint st (workChunk s st.d st.d.cursor)) st (x.2 - x.1)
  else if o = opSAMPLE then stripSample s (fun st r => checkpoint st (sampleKey s st.d r)) st l
  else if o = opFOLD then stripFold s st x.1 x.2
  else
    let work : Strip → Nat → Nat → Strip := fun st lo hi =>
      if o = opCONVERT then stripConvert s st lo hi
      else if o = opQUANTISE then stripQuantise s hi (hi - lo) st lo
      else if o = opDEQUANTISE then stripDequantise s st lo hi
      else if o = opROTATE then stripRotate s st lo hi
      else if o = opFILL then stripFill s st lo hi
      else if o = opSTATS then stripStats s st lo hi
      else stripRecipe s st lo hi
    flushHeld s (byChunks s work x.2 (x.2 - x.1) st x.1)

/-- What a strip that has run leaves: its writes, its descriptor, its tiles and its counts. -/
def applyStrip (s : State) (c : Nat) (q : Nat) (sp : List Acc) (r : Strip) : State :=
  let e := s.engOf c
  let done := r.d.stripsDone && r.d.drains.isEmpty
  let s := s.setMem r.mem
  let s := s.modDesc c q (fun d => { r.d with finished := r.d.finished || (done && d.op != opFOLD) })
  let s := s.modCtx c (fun x => { x with live := r.live })
  let s := r.ins.foldl (fun s x => countIn s e (some (c, q)) x.1 x.2) s
  let s := r.outs.foldl (fun s x => countOut s e (some (c, q)) x.1 x.2) s
  let s := if r.d.op = opSTATS && done then writeStats s (s.desc c q) false else s
  postWrites s c q (if r.d.op = opSTATS && !done then [] else sp)

/-- A strip issues: its counts, its effects, its writes. -/
def runStrip (s : State) (c : Nat) (d : Desc) (sp : List Acc) : State :=
  let q := d.seq
  let s := issueWork s c d sp
  let l := lanes (s.engOf c)
  let d := (s.desc c q).keepBefore s sp
  applyStrip s c q sp (stripWork s { d with pos := min d.count (max d.pos d.cursor + l) } (s.ctx c).live l (d.nextStrip l))

/-- A descriptor that has no strips, or none left to run, goes on: a SIGNATURE, a RESTORE_CONTEXT, a command over no elements
that waited for the watch unit (R346, R365). -/
def runWhole (s : State) (c : Nat) (q : Nat) : State :=
  let d := s.desc c q
  if !d.admitted || d.over || !watchReady s c d then s
  else if d.op = opSIGNATURE then runSignature s c q
  else if d.op = opRESTORE then runRestore s c q
  else if d.isStream && d.count = 0 then finishDesc (emptyStats s c d) c q
  else s

/-- One descriptor tries to issue: the state, and whether it did. -/
def tryIssue (s : State) (c : Nat) (q : Nat) : State × Bool :=
  let d := s.desc c q
  if d.op = opSIGNATURE || d.op = opRESTORE || (d.isStream && d.count = 0) then
    let s' := runWhole s c q
    (s', !d.over && (s'.desc c q).over)
  else if d.isColl && isPe (s.engOf c) then
    let p := s.engOf c - 96
    match d.starts.find? (fun k => !d.coll.started.contains k) with
    | some k =>
      let s := startUnit s p c d k
      let ok := (s.desc c q).coll.started.contains k
      (if ok then workLink s p else s, ok)
    | none => (s, false)
  else if mayStrip s c d then
    let (s, sp, ok) := gateStrip s c d
    if ok then (runStrip s c (s.desc c q) sp, true) else (s, false)
  else (s, false)

/-- The oldest descriptor that can issue does (R188). -/
def issueOne (s : State) (c : Nat) : State :=
  (((s.ctx c).descs.map (·.seq)).foldl (fun (p : State × Bool) q => if p.2 then p else tryIssue p.1 c q) (s, false)).1

/-- The engine issues strips: it works, and no self-test or hold stops it (R304, R332). -/
def issues (s : State) (e : Nat) : Bool := (s.eng e).works && !(s.eng e).testing && !(s.eng e).holding

/-! ## Drains (R99, R100) -/

/-- The engine carries out what its descriptors have under way: ON or QUIESCING, not fenced, not in a hold. -/
def carries (s : State) (e : Nat) : Bool :=
  ((s.eng e).isOn || (s.eng e).st == .quiescing) && !(s.eng e).fenced && !(s.eng e).holding

/-- Another drain has the region: one exchanged whose shadow is not read yet, or an earlier one not exchanged. -/
def drainBlocked (s : State) (c : Nat) (d : Desc) (r : DrainReq) : Bool :=
  (s.ctx c).descs.any (fun x => x.drains.any (fun y => y.exchanged && tilesMeet y.bf16 y.tile r.bf16 r.tile)) ||
    (earlier s c d.seq).any (fun x => x.drains.any (fun y => !y.exchanged && tilesMeet y.bf16 y.tile r.bf16 r.tile))

/-- A drain is over: the command that asked for it has finished when no other drain is left. -/
def dropDrain (d : Desc) (r : DrainReq) : Desc :=
  let l := d.drains.erase r
  { d with drains := l, finished := d.finished || (l.isEmpty && (d.op != opRECIPE || decide (d.count ≤ d.cursor))) }

/-- The output stage of a drain, and the ranges that it touches. -/
def drainStage (s : State) (d : Desc) (r : DrainReq) : OutStage × List Acc :=
  if d.op = opRECIPE then
    let o := macOut s d r.mac r
    match slotOf d.slots (rSlot (nth d.body r.mac 0)) with
    | some x => (o, [{ win := x.win, lo := x.off, hi := x.off + slotBytes d x, wr := true }])
    | none => (o, [])
  else (d.foldOut s, d.outSpan)

/-- The stage is the command's primary output (R92, R213). -/
def Desc.primaryDrain (d : Desc) (r : DrainReq) : Bool := d.op != opRECIPE || rSlot (nth d.body r.mac 0) == 1

/-- The bytes of the rows of a stage, as the watch observes them: a byte that two rows share is observed once (R122). -/
def stageBytes (m : Mem) (o : OutStage) (w : WatchSt) (c : WatchCfg) : WatchSt :=
  (o.rowBytes.foldl (fun (a : WatchSt × Nat) x =>
    (a.1.bytesIn c (Mem.bytes m (o.dst.base + max a.2 x.1) (x.2 - max a.2 x.1)), max a.2 x.2)) (w, 0)).1

/-! ## A check that fails (R297, R301, R306, R310) -/

/-- The descriptor whose strip would issue, with the ranges of the strip. -/
def pickStrip (s : State) (c : Nat) : State × Option (Desc × List Acc) :=
  ((s.ctx c).descs.map (·.seq)).foldl (fun (p : State × Option (Desc × List Acc)) q =>
    match p.2 with
    | some _ => p
    | none =>
      let d := p.1.desc c q
      if d.isColl && isPe (p.1.engOf c) then
        if d.starts.any (fun k => !d.coll.started.contains k) then (p.1, some (d, d.accs)) else p
      else if mayStrip p.1 c d then
        let (s, sp, ok) := gateStrip p.1 c d
        if ok then (s, some (s.desc c q, sp)) else (s, none)
      else p) (s, none)

/-- The ranges that a descriptor's work touches now: those of its drain, of its next strip, or all that it names. -/
def workSpans (s : State) (c : Nat) (d : Desc) : List Acc :=
  match d.drains.head? with
  | some r => (drainStage s d r).2
  | none =>
    if d.isStream && d.admitted then
      let x := d.nextStrip (lanes (s.engOf c))
      if d.op = opSAMPLE then sampleSpans s d (lanes (s.engOf c)) else d.stripSpan x.1 x.2
    else d.accs

/-- The descriptor in whose work a check fails, with the ranges of the work: the one that the detection names, or the one whose
strip would issue. -/
def affected (s : State) (c : Nat) (k : Detection) : State × Option (Desc × List Acc) :=
  match k.seq with
  | some q => match s.desc? c q with
    | some d => (s, some (d, workSpans s c d))
    | none => (s, none)
  | none => if k.eng.isNone && issues s (s.engOf c) && (s.ctx c).resident then pickStrip s c else (s, none)

/-- The tile slots that a descriptor names. -/
def Desc.slotsNamed (d : Desc) : List Nat := d.tiles.map (fun t => if t.1 then t.2 / 2 else t.2)

/-- The slot of a detection in the tile store, or in a step bound for a tile: a FOLD or DRAIN names one. -/
def failSlot (k : Detection) (d : Desc) : Nat :=
  match d.slotsNamed with
  | [x] => if k.unit = unTILE then k.loc else x
  | _ => k.loc

/-- The element that a residue failure of a conversion names: strip offset j is processed in lane j (R13, R301). -/
def failingElem (d : Desc) (l : Nat) (k : Detection) : Option Nat :=
  let i := max d.pos d.cursor + bits k.synd 25 16
  if k.kind == .residue && k.unit = unQUIRE && i < min d.count (max d.pos d.cursor + l) &&
    [opCONVERT, opQUANTISE, opDEQUANTISE, opROTATE, opFILL].contains d.op then some i
  else none

/-- The chunks that written ranges touch. -/
def writtenChunks (s : State) (l : List Acc) : List (Nat × Nat) :=
  (l.filter (·.wr)).flatMap (fun a => (accChunks s a).map (fun n => (a.win, n)))

/-- The destination chunks whose bytes depend on data of a descriptor that exists only inside the fabric (R301, R306): its
tile, the rows and partials in progress, the residuals that it holds. -/
def dependents (s : State) (d : Desc) : List (Nat × Nat) :=
  let held : List Acc := d.held.map (fun p =>
    { win := d.resWin, lo := d.resOff + p.1 * (d.resT s).w / 8, hi := d.resOff + (p.1 + 1) * (d.resT s).w / 8, wr := true })
  if d.op = opFOLD || d.op = opDRAIN then writtenChunks s d.outSpan
  else if d.op = opSTATS then writtenChunks s [{ win := d.dwin, lo := d.doff, hi := d.doff + 256, wr := true }]
  else if d.op = opSAMPLE then
    writtenChunks s (d.rows.map (fun r => { win := d.dwin, lo := d.doff + 16 * r.row, hi := d.doff + 16 * r.row + 16, wr := true }))
  else if d.op = opREDUCE then writtenChunks s (d.redOutSpan d.cursor (d.cursor + 1))
  else if d.op = opRECIPE && !d.tiles.isEmpty then
    writtenChunks s ((d.slots.filter (·.dest)).map (fun x => { win := x.win, lo := x.off, hi := x.off + slotBytes d x, wr := true }))
  else if d.isColl then writtenChunks s d.accs
  else if !d.held.isEmpty then writtenChunks s held
  else writtenChunks s (d.stripSpan d.cursor (min d.count (d.cursor + 1)))

/-- The lowest of the dependent chunks that the descriptor holds CLAIMED. -/
def lowestHeld (s : State) (d : Desc) : Option (Nat × Nat) :=
  (dependents s d).foldl (fun a x =>
    if d.holds x.1 x.2 then
      match a with
      | none => some x
      | some y => if x.2 < y.2 then some x else a
    else a) none

/-- Where the data of a failed check lies (R301). -/
def errPlace (s : State) (c : Nat) (k : Detection) (o : Option (Desc × List Acc)) : ErrAt :=
  match o with
  | none => if k.unit = unTILE then { lockind := 3, loc := k.loc, noctx := true } else { noctx := true }
  | some (d, sp) =>
    let base : ErrAt := { context := c, seq := d.seq }
    let at' (x : Nat × Nat) : ErrAt := { base with lockind := 1, win := x.1, loc := x.2 }
    let range (wr : Bool) : ErrAt :=
      match sp.find? (fun a => a.wr == wr) with
      | some a => at' (a.win, a.lo / (s.win a.win).chunkBytes)
      | none => base
    if k.unit = unTILE || (k.unit = unFOLD && k.kind == .residue && !d.tiles.isEmpty) then
      { base with lockind := 3, loc := failSlot k d }
    else if k.unit = unFRONT && k.inside then base
    else if let some a := k.addr then { base with lockind := 5, loc := a / 256 }
    else if let some x := k.chunk then at' x
    else if k.unit = unMEMSTREAM || k.unit = unNETSTREAM then range false
    else if k.inside then
      match lowestHeld s d with
      | some x => at' x
      | none => base
    else match (failingElem d (lanes (s.engOf c)) k).bind (s.destChunk d) with
      | some x => at' x
      | none => range true

/-- Units through which the elements of a chunk pass on their way to its bytes: after a transient error in one of them the
chunk is redone, its data fetched again where a stream unit failed. A failed step of the fold unit is reissued (R94, R305). -/
def redoUnit (u : Nat) : Bool :=
  [unQUIRE, unSCALE, unROT, unREDUCE, unSAMPLER, unMIXER, unWATCH, unMEMSTREAM, unNETSTREAM].contains u

/-- An error in data that exists only inside the fabric (R306): the descriptor ends with DATA_ERROR and the destination
chunks that it holds and that depend on the data become FAULTED. -/
def loseInside (s : State) (c : Nat) (d : Desc) : State :=
  endDesc (faultHeld s c d.seq (dependents s d)) c d.seq stDATAERR

/-- A tile-store error ends every descriptor of the context that names the tile. -/
def loseTile (s : State) (c slot : Nat) : State :=
  ((s.ctx c).descs.filter (fun x => x.admitted && x.slotsNamed.contains slot)).foldl (fun s x => loseInside s c x) s

/-- The destination range that a DATA frame's elements have at this member. -/
def frameDst (d : Desc) (f : Frame) : List Acc :=
  let r := frameRange d f.hdr
  let lo := if d.kind = 6 then d.dstBond.localIx r.1 else if d.kind = 5 then r.1 else d.dstIx d.cn d.cr r.1
  d.dstRun lo r.2

/-- A failed check in a frame that the link interface holds: LOC is its JOB and stream SEQ. A frame already acknowledged
is lost, and its descriptor ends. -/
def linkError (s : State) (e : Nat) (k : Detection) : State :=
  let p := e - 96
  let hit := ((s.link p).rx.map (·.buf)).flatten.find? (fun f => f.hdr.job == bits k.loc 27 16 && f.hdr.seq == bits k.loc 15 0)
  let o := hit.bind (fun f => (s.bucketDesc p f.hdr.job f.hdr.ticket f.hdr.bucket).map (fun x => (x, f)))
  let at' : ErrAt := match o with
    | some ((c, d), _) => { lockind := 4, loc := k.loc, context := c, seq := d.seq }
    | none => { lockind := 4, loc := k.loc, noctx := true }
  let s := detect s e k.unit (theQuire k) (kindCode k.kind) k.synd at' false
  if k.inside && k.kind != .secdedCorr then
    match o with
    | some ((c, d), f) => workLink (endDesc (faultHeld s c d.seq (writtenChunks s (frameDst d f))) c d.seq stDATAERR) p
    | none => s
  else s

/-- A failed check in a write-combining entry: an entry that is lost leaves its block unchanged (R306). -/
def wcError (s : State) (e : Nat) (k : Detection) : State := inlineFails s e k.win k.loc k

/-- A check fails in the work of a descriptor of context `c`, or in an engine: its record, and what it takes with it. The work
does not go on (R298); after a test that passes it is issued again, and the chunk redone (R94, R305). -/
def workError (s : State) (c : Nat) (k : Detection) : State :=
  let e := k.eng.getD (s.engOf c)
  let (s, o) := affected s c k
  let ok := k.kind == .secdedCorr
  let fold := match o with | some (d, _) => d.op == opFOLD && d.drains.isEmpty | none => true
  let s := detect s e k.unit (theQuire k) (kindCode k.kind) k.synd (errPlace s c k o)
    (!ok && !onlyInside k && redoUnit k.unit && !fold)
  if ok || !onlyInside k then s
  else if k.unit = unTILE then loseTile s c (match o with | some (d, _) => failSlot k d | none => k.loc)
  else match o with
    | some (d, _) => loseInside s c d
    | none => s

/-- A failed check, whatever its place. An engine that is OFF or STARTING has none of these. -/
def checkFails (s : State) (c : Nat) (k : Detection) : State :=
  let e := k.eng.getD (s.engOf c)
  if k.unit = unISLAND then (if s.pins.aonPg then islandError s (kindCode k.kind) k.synd k.loc else s)
  else if !((s.eng e).isOn || (s.eng e).st == .quiescing) then s
  else if k.unit = unLINK then linkError s e k
  else if k.unit = unWC then wcError s e k
  else workError s c k

/-- Opcodes that a stop lets run to completion once admitted (Table 14.3). -/
def runsOn (d : Desc) : Bool :=
  d.admitted && [opDRAIN, opFENCE, opNOP, opRIBBON, opSIGNATURE, opSAVE, opRESTORE].contains d.op

/-- The engine issues the next strip of a context; in QUIESCING what runs to completion goes on (R313, Table 14.3). -/
def issueNow (s : State) (c : Nat) : State :=
  let e := s.engOf c
  if issues s e && (s.ctx c).resident then issueOne s c
  else if (s.eng e).st == .quiescing && carries s e && (s.ctx c).resident then
    (((s.ctx c).descs.filter runsOn).map (·.seq)).foldl (fun s q => runWhole s c q) s
  else s

/-- The scheduler issues a strip of context `c`; `det` is a check that fails in it. A corrected SECDED error passes on the
corrected data (R298). -/
def execStripIssue (c : Nat) (det : Option Detection) (s : State) : Host.Outcome State Fault Refusal :=
  .next (match det with
    | none => issueNow s c
    | some k =>
      let s := checkFails s c k
      if k.kind == .secdedCorr then issueNow s c else s)

/-! ## The steps of a drain -/

/-- The region of the next drain is exchanged with the shadow set, and reads +0 after it. -/
def exchangeDrain (s : State) (c seq : Nat) : State :=
  let d := s.desc c seq
  match d.drains.find? (fun r => !r.exchanged) with
  | none => s
  | some r =>
    if !carries s (s.engOf c) || d.over || drainBlocked s c d r || heldByTest (s.eng (s.engOf c)) c seq then s
    else
      let s := s.modCtx c (fun x => exchange x r.bf16 r.tile)
      let r' := { r with exchanged := true }
      s.modDesc c seq (fun d => if r.out then { d with drains := d.drains.map (fun y => if y = r then r' else y) } else dropDrain d r)

/-- A step of a drain of a descriptor, or the check that fails in it. -/
def drainStep (s : State) (c : Nat) (w : DrainStep) (run : State → Nat → Nat → State) : State :=
  match w.det with
  | none => run s c w.seq
  | some k =>
    let s := checkFails s c { k with seq := some w.seq }
    if k.kind == .secdedCorr then run s c w.seq else s

def execDrainExchange (c : Nat) (step : DrainStep) (s : State) : Host.Outcome State Fault Refusal :=
  .next (drainStep s c step exchangeDrain)

/-- The output stage of an exchanged region reads the shadow and writes its destination (R91, R100). -/
def runOutputStage (s : State) (c seq : Nat) : State :=
    let d := s.desc c seq
    match d.drains.find? (fun r => r.exchanged) with
    | none => s
    | some r =>
      let e := s.engOf c
      if !carries s e || (s.eng e).testing || d.over || !watchReady s c d || heldByTest (s.eng e) c seq then s
      else
        let (o, sp) := drainStage s d r
        let (s, ok) := gate s c seq sp
        if !ok then s
        else
          let s := issueWork s c d sp
          let d := s.desc c seq
          let (m, d1) := o.run (s.ctx c).shadow s.mem d (d.primaryDrain r)
          let k := d.watchCfg
          let wt := if !d.primaryDrain r then d.watch
            else if d.op = opRECIPE && d.hasWatchIns then d.watch
            else if k.active then stageBytes m o d1.watch k
            else d1.watch
          let s := s.setMem m
          let s := s.modDesc c seq (fun _ => dropDrain { d1 with watch := wt } r)
          let s := if d.op != opRECIPE && d.usesE then countIn s e (some (c, seq)) d.efmt.fmt.w (o.m * o.n) else s
          postWrites (countOut s e (some (c, seq)) o.dst.w (o.m * o.n)) c seq sp

def execOutputStage (c : Nat) (step : DrainStep) (s : State) : Host.Outcome State Fault Refusal :=
  .next (drainStep s c step runOutputStage)

/-! ## The image of a stopped context (R81, R216, R289) -/

/-- A group that the last strip has only begun is finished before the descriptor stops (R81, R216), where the chunks that this
needs are held; the residuals held are written. -/
def finishGroup (s : State) (t q : Nat) : State :=
  let d := s.desc t q
  let hi := groupUp d.groups.1 d.groups.2 d.pos d.count
  let (s, ok) := if d.isStream && d.op != opFOLD && d.cursor < d.pos then gate s t q (d.stripSpan d.cursor hi) else (s, false)
  let s := if ok then
      let d := s.desc t q
      let sp := d.stripSpan d.cursor hi
      let d := d.keepBefore s sp
      applyStrip s t q sp (stripWork s { d with pos := hi } (s.ctx t).live (lanes (s.engOf t)) (d.cursor, hi))
    else s
  releaseHeld s t q

/-- The image is written, MAGIC last, and the target leaves its engine. -/
def writeImage (s : State) (c : Nat) (d : Desc) (t : Nat) : State :=
  let s := ((s.ctx t).descs.map (·.seq)).foldl (fun s q => finishGroup s t q) s
  let img := contextImage s t
  if (s.win d.dwin).bytes < d.doff + img.length then giveUpSave s c d.seq t stPROTECTION
  else
    let a : Acc := { win := d.dwin, lo := d.doff, hi := d.doff + img.length, wr := true }
    let (s, ok) := gate s c d.seq [a]
    if !ok then s
    else
      let s := s.setMem (Mem.wrBytes s.mem (s.addrOf d.dwin d.doff) img)
      let s := postWrites s c d.seq [a]
      let s := s.modDesc c d.seq (fun d => { d with aux := img.length, finished := true })
      leaveCtx (s.modCtx t (fun x => { x with enable := false, saving := false })) t false

/-- The target of a SAVE_CONTEXT has stopped: its image is written. A target that is gone, or whose engine stops, ends the
SAVE_CONTEXT with ENGINE_FENCED or STOPPED. -/
def execContextImageWrite (c seq : Nat) (s : State) : Host.Outcome State Fault Refusal :=
  .next (match s.desc? c seq with
    | none => s
    | some d =>
      let t := bits d.soff 11 0
      let x := s.ctx t
      if !(d.admitted && d.op == opSAVE && !d.over && carries s (s.engOf c)) then s
      else if (s.eng x.use.engine).fenced then giveUpSave s c seq t stFENCED
      else if !x.saving || !(s.eng x.use.engine).isOn then giveUpSave s c seq t stSTOPPED
      else if x.descs.all (stoppedDesc s t) then writeImage s c d t
      else s)

end Sys2Proof.Machine
end

