-- ==== Sys2Proof/Machine/Completion.lean ====
section
/-! DEFINITION. Responses of the boundary (R307, R347 to R349), polls and the end of chunks (R148 to R152), completion
records (R9, R65 to R67, R119, R123, R172, R182 to R184), the watch unit (R346), doorbells (R173, R351) and the end of a
self-test (R302 to R305). -/

namespace Sys2Proof.Machine

/-- A PE's link goes on with what it can do now. -/
def linkOn (s : State) (e : Nat) : State := if isPe e then workLink s (e - 96) else s

/-! ## Responses -/

/-- The two response channels of an engine as bits: 1 the memory port, 2 the compute-network port. -/
def respBit (net : Bool) : Nat := if net then 2 else 1

/-- A request's response has come: it is kept in a ribbon hold (R333). -/
def answered (x : Engine) (r : Req) : Bool := x.heldResp.any (fun h => h.net == r.net && h.target == .tag r.tag)

/-- The ribbon marker returned on a response channel, after the responses to every earlier request (R332, R348, R349): with a
request before it unanswered, no marker comes. -/
def takeMarker (s : State) (e : Nat) (net : Bool) : State :=
  let x := s.eng e
  match x.reqs.find? (fun r => r.net == net && !answered x r) with
  | some r =>
    if r.kind = 5 && r.sent then
      issueReqs (s.modEng e (fun x => { x with
        reqs := x.reqs.erase r, cut := { x.cut with respMarks := x.cut.respMarks ||| respBit net } })) e
    else s
  | none => s

/-- An outstanding request is answered, and its tag is free for the next. An error or bad parity counts as an external read
error of its chunk (R307, R347). -/
def takeTagged (s : State) (e t : Nat) (net : Bool) (st : RespStatus) (old : Nat) : State :=
  match (s.eng e).reqs.find? (fun r => r.sent && r.tag == t && r.net == net && r.kind != 5) with
  | none => s
  | some r =>
    let s := issueReqs (s.modEng e (fun x => { x with reqs := x.reqs.erase r })) e
    if 4 ≤ r.kind then (if st == .ok then s else externalWrite s e r.addr (st == .parity))
    else if st == .ok then (if r.kind = 0 then s else swapAnswer s r old)
    else
      let s := if r.kind = 0 then s else s.modDesc r.ctx r.seq (·.dropClaim r.win r.chunk)
      externalRead s r.ctx r.seq r.win r.chunk (st == .parity)

/-- A read that the engine makes outside windows for a descriptor fails. When it was the fetch of its words, nothing of the
descriptor is known but its slot (R182, R306); an admitted descriptor's words have arrived. -/
def blockError (s : State) (c q a : Nat) (parity : Bool) : State :=
  if a = sqAddr (s.ctx c) q then
    if (s.desc c q).admitted then s
    else externalAddr (s.modDesc c q (fun d => { d with words := [], par := [] })) c q a parity
  else externalAddr s c q a parity

/-- A read of engine `e` for a descriptor, at a device address, is answered on this port (R12). -/
def readsHere (s : State) (e : Nat) (net : Bool) (c q a : Nat) : Bool :=
  s.engOf c == e && s.usesNet e a == net && (s.desc? c q).isSome

/-- A response takes effect: data that a read brings is what memory holds; an error ends the reading descriptor. -/
def takeResponse (s : State) (e : Nat) (net : Bool) (r : RespFor) (st : RespStatus) (data : Word32) : State :=
  match r with
  | .tag t => takeTagged s e t net st data.toNat
  | .read c q w k =>
    if st == .ok || !readsHere s e net c q ((s.win w).addr + k * (s.win w).chunkBytes) then s
    else externalRead s c q w k (st == .parity)
  | .block c q a => if st == .ok || !readsHere s e net c q a then s else blockError s c q a (st == .parity)

/-- The responses that an engine kept in a hold take effect, in order, once it holds no more: the hold has ended, or a fence has
ended the engine's part in it (R334, R336). -/
def takeHeld (s : State) (e : Nat) : State :=
  if (s.eng e).holding || (s.eng e).heldResp.isEmpty then s
  else
    (s.eng e).heldResp.foldl (fun s r => takeResponse s e r.net r.target r.st r.data)
      (s.modEng e (fun x => { x with heldResp := [] }))

/-- A response arrives at an engine: a marker counts for the cut, an engine stopped in a hold keeps it (R333). -/
def response (s : State) (e : Nat) (net : Bool) (r : RespFor) (st : RespStatus) (data : Word32) : State :=
  if st == .marker then takeMarker s e net
  else if (s.eng e).holding then
    s.modEng e (fun x => { x with heldResp := x.heldResp ++ [{ net := net, target := r, st := st, data := data }] })
  else linkOn (takeResponse (takeHeld s e) e net r st data) e

def execStackResponse (e : Nat) (r : RespFor) (st : RespStatus) (s : State) : Host.Outcome State Fault Refusal :=
  .next (response s e false r st 0)

def execNetworkResponse (e : Nat) (r : RespFor) (st : RespStatus) (data : Word32) (s : State) :
    Host.Outcome State Fault Refusal :=
  .next (response s e true r st data)

/-! ## Polls and finished chunks -/

/-- The first chunk on which a descriptor waits is read again; `word` is its flag word as read. A descriptor that waits is
at a chunk boundary (R283). -/
def execFlagPoll (c seq : Nat) (word : Word32) (s : State) : Host.Outcome State Fault Refusal :=
  .next (
    let e := s.engOf c
    if carries s e && ((s.eng e).isOn || runsOn (s.desc c seq)) && !(s.desc c seq).over && s.mayClaim c (s.desc c seq) then
      let s := reEvaluate s c seq
      let d := s.desc c seq
      match d.claims.find? (fun k => k.phase == phWAIT) with
      | some k =>
        if d.over || !s.mayTrack c seq then s
        else claimFrom (readMem s e ((s.win k.win).flagAddr k.chunk) 4) c seq k.win k.chunk word.toNat
      | none => s
    else s)

/-- A descriptor has still to read or write bytes of a chunk. -/
def touchesStill (s : State) (c : Nat) (d : Desc) (w k : Nat) : Bool :=
  let l := if d.isColl && isPe (s.engOf c) then collRemain s (s.engOf c - 96) d else d.remain s
  l.any (fun a => accTouches s a w k)

/-- A chunk is finished (R149): held, nothing of it left to touch, every write acknowledged (R150). -/
def chunkFinished (s : State) (c : Nat) (d : Desc) (w k : Nat) : Bool :=
  d.holds w k && !writePending s c d.seq w k && !touchesStill s c d w k

def execChunkDone (c seq win chunk : Nat) (s : State) : Host.Outcome State Fault Refusal :=
  .next (
    let d := s.desc c seq
    if carries s (s.engOf c) && chunkFinished s c d win chunk then
      if (s.win win).flagged then sendSwap s c seq win chunk 2 (s.flagWord win chunk)
      else s.modDesc c seq (·.setPhase win chunk phDONE)
    else s)

/-! ## Completion records -/

/-- The rescale, dropped and LONGSUM indications and the numeric events turn OK into OK_NUMERIC (R9). -/
def Desc.numeric (d : Desc) : Bool :=
  d.sat != 0 || d.flush != 0 || d.nonfin || d.rescale || d.dropped || d.longsum

/-- The status that a descriptor reports (R9, R181, R184): a fence ends every descriptor that has not completed (R308). -/
def Desc.finalStatus (d : Desc) : Nat :=
  if d.ends.contains stFENCED then stFENCED
  else match d.status with
    | some x => x
    | none => match pickEnd d.ends with
      | some x => x
      | none => if d.numeric then stNUMERIC else stOK

/-- Nothing is left to do before the completion record (R149, R150, R172): no request is outstanding, and every chunk that
the command finished is DONE. A fenced engine swaps no flag. -/
def mayComplete (s : State) (c : Nat) (d : Desc) : Bool :=
  let x := s.eng (s.engOf c)
  d.over && (x.isOn || x.st == .quiescing) && !x.holding && !s.hasReq c d.seq &&
    (x.fenced || d.claims.all (fun k => !chunkFinished s c d k.win k.chunk)) &&
    (d.status.isSome || !d.ends.isEmpty || d.claims.all (fun k => k.phase == phDONE || k.phase == phFAULTED))

/-- AUX (Table 9.10). -/
def Desc.auxOut (d : Desc) : Nat :=
  if d.op = opLEASE then (d.leaseTicket.getD 0) / 256
  else if d.op = opCOLLECTIVE then (if d.kind = 0 || d.kind = 2 || d.kind = 5 then d.aux else 0)
  else if [opFOLD, opRECIPE, opSIGNATURE, opSAVE].contains d.op then d.aux
  else 0

/-- The 256-bit completion record (Table 9.9). -/
def completionNat (d : Desc) (e st : Nat) (wptr : Option Nat) (phase : Bool) : Nat :=
  place d.auxOut 40 216 + place (wptr.getD 0) 40 176 + place d.firstNf 40 136 + place d.flush 40 96 + place d.sat 40 56 +
  place e 7 48 + place (if knownOp d.op then d.op else 0) 8 40 + place d.seq 16 16 + place (bit wptr.isSome) 1 13 +
  place (bit d.dropped) 1 12 + place (bit d.rescale) 1 11 + place (bit d.longsum) 1 10 + place (bit d.nonfin) 1 9 +
  place (bit phase) 1 8 + place st 8 0

/-- The watch of a COLLECTIVE or REBOND observes what was written, in ascending order (R123, R275). -/
def collWatch (d : Desc) : WatchSt :=
  let c := d.watchCfg
  let f := d.dfmt
  let t : Tensor := { f := f }
  (sortBy WSeg.lo d.coll.wrote).foldl (fun w g =>
    let run : WChunk := { codes := g.codes, scales := g.scales, quoins := g.quoins }
    let value (j : Nat) : XVal := match g.rs with | some rs => (run.value f j).mul (xf rs) | none => run.value f j
    let w := (List.range g.codes.length).foldl (fun w j => w.elem c (g.lo + j) (workVal (value j))) w
    if f.b = 0 then g.codes.foldl (fun w k => w.bitsIn c k f.fmt.w) w
    else (List.range g.scales.length).foldl (fun w a =>
      let codes := (g.codes.drop (a * f.b)).take f.b
      w.ashlar c t (codes ++ List.replicate (f.b - codes.length) 0) (nth g.scales a 0) ((g.quoins.drop (a * f.quoins)).take f.quoins)) w)
    d.watch

/-- Slot 0 of the context's watch records, in bytes, and the record of a descriptor (R119). -/
def watchAddr (x : Ctx) (q : Nat) : Nat := x.use.watchBase * 256 + 256 * (q % max 1 x.use.watchSlots)

/-- A descriptor that ended after it was admitted with its checks passed. -/
def Desc.ran (d : Desc) : Bool := d.admitted && !d.early

/-- STATS that ends with another status than OK or OK_NUMERIC writes its record, with PARTIAL: R117 names one exception, the
completion that the island writes (DEDUCED, log 86). -/
def endStats (s : State) (c : Nat) (d : Desc) : State :=
  if d.op = opSTATS && d.ran && d.finalStatus != stOK && d.finalStatus != stNUMERIC && !d.island then
    writeRecord s (s.engOf c) c (s.addrOf d.dwin d.doff) (watchRecord d.watch d.statsCfg d.seq true)
  else s

/-- The watch record goes to its slot (R119, R123); the answer is WPTR, if a record was written. The watch of a STATS observes
its 256 record bytes, and nothing where it has no elements (R117, R365). -/
def writeWatch (s : State) (c : Nat) (d : Desc) (st : Nat) : State × Option Nat :=
  let k := d.watchCfg
  if k.active && d.ran && !d.island then
    let a := watchAddr (s.ctx c) d.seq
    let w := if d.isColl then collWatch d
      else if d.op = opSTATS && d.count ≠ 0 then (Mem.bytes s.mem (s.addrOf d.dwin d.doff) 256).foldl (fun w b => w.recByte k b) {}
      else d.watch
    (writeRecord s (s.engOf c) c a (watchRecord w k d.seq (st != stOK && st != stNUMERIC)), some (a / 256))
  else (s, none)

/-- What a completion leaves out: no element was touched (R181), or the primary output is not written (R100). -/
def Desc.reported (d : Desc) : Desc :=
  if d.early || !d.admitted || (d.op = opDRAIN && !d.fout) then
    { d with sat := 0, flush := 0, firstNf := 0xFFFFFFFFFF, nonfin := false, longsum := false, rescale := false, dropped := false
             aux := 0 }
  else d

/-- The last descriptor of an instance has completed: the instance is absent, with its streams (R236, R257). -/
def leaveInstance (s : State) (p job ticket : Nat) : State :=
  if (s.instDescs p job ticket).isEmpty then
    s.modLink p (fun l =>
      let keepT (j t : Nat) : Bool := !(j == job && t == ticket)
      let l := { l with
        insts := l.insts.filter (fun i => keepT i.job i.ticket), tx := l.tx.filter (fun t => keepT t.job t.ticket)
        rx := l.rx.filter (fun t => keepT t.job t.ticket), ann := l.ann.filter (fun a => keepT a.job a.ticket) }
      let j := l.job job
      l.setJob job { j with lastDone := some (max ticket (j.lastDone.getD 0)) })
  else s

/-- A fresh CREDIT on every stream of an instance whose lowest open bucket has risen (R253). -/
def freshCredit (s : State) (p job ticket low : Nat) : State :=
  match (s.link p).inst? job ticket with
  | none => s
  | some i =>
    if i.low = low || !(s.link p).permitted ticket then s
    else ((s.link p).rx.filter (fun r => r.job == job && r.ticket == ticket)).foldl (fun s r => sendCredit s p r) s

/-- The completed descriptor of a bucket: COMPLETE if it passed through SETTLING; frames of it that wait are given up, with the
buffers kept for its frames. -/
def leaveBucket (s : State) (p : Nat) (d : Desc) : State :=
  let low := (((s.link p).inst? d.job d.ticket).map Inst.low).getD 0
  let s := s.modLink p (fun l =>
    let l := if d.finished then l.modInst d.job d.ticket (fun i => { i with complete := i.complete ++ [d.bucket] }) else l
    { l with tx := l.tx.map (fun t => if t.job = d.job && t.ticket = d.ticket then
        { t with waiting := t.waiting.filter (fun f => f.hdr.bucket != d.bucket) } else t)
             rx := l.rx.map (fun r => if r.job = d.job && r.ticket = d.ticket then
        { r with kept := r.kept.filter (fun k => k.bucket != d.bucket) } else r) })
  freshCredit (leaveInstance s p d.job d.ticket) p d.job d.ticket low

/-- What a completion gives back outside its context: a save's or restore's target, a waiting ribbon or lease. -/
def giveBack (s : State) (c : Nat) (d : Desc) : State :=
  if d.op = opSAVE && d.ran && !d.finished then s.modCtx (bits d.soff 11 0) (fun x => { x with saving := false })
  else if d.op = opRESTORE && d.ran then endRestore s (bits d.doff 11 0)
  else if d.op = opRIBBON then { s with trace := { s.trace with ribbons := s.trace.ribbons.filter (· ≠ (c, d.seq)) } }
  else if d.op = opLEASE then
    { s with dom := { s.dom with waiting := s.dom.waiting.filter (fun r => !(r.1 == s.dom.deviceId && r.2.1 == c && r.2.2.1 == d.seq)) } }
  else s

/-- The counters that a completion adds to (R315, R317, Table 16.2). -/
def countDone (s : State) (c : Nat) (d : Desc) : State :=
  let e := s.engOf c
  let s := countNumeric s e d.sat d.flush (bit d.nonfin) (if d.op = opFOLD || d.op = opRECIPE then d.aux else 0)
  let s := s.modEng e (fun x => { x with cnt := { x.cnt with ops := bump x.cnt.ops (opClass d.op) 1 } })
  s.modCtx c (fun x => { x with cnt := { x.cnt with
    done := x.cnt.done + 1, sat := x.cnt.sat + d.sat, flush := x.cnt.flush + d.flush, nonfin := x.cnt.nonfin + bit d.nonfin } })

/-- A completion record is written to index CQTAIL (R172). -/
def postRecord (s : State) (c v : Nat) : State :=
  let x := s.ctx c
  let n := x.use.cqSize
  let s := writeRecord s x.use.engine c (x.use.cqBase * 64 + 32 * (x.cqTail % n)) (leBytes 32 v)
  s.setCtx c { x with
    cqTail := (x.cqTail + 1) % mod16, phase := if (x.cqTail + 1) % n = 0 then !x.phase else x.phase }

/-- A descriptor completes: its watch record, its completion record, the event that it asked for. -/
def complete (s : State) (c : Nat) (d : Desc) : State :=
  let e := s.engOf c
  let st := d.finalStatus
  let s := endStats (releaseHeld s c d.seq) c d
  let (s, wptr) := writeWatch s c d st
  let r := d.reported
  let s := postRecord s c (completionNat r e st wptr (s.ctx c).phase)
  let s := traceEnd (countDone s c r) e c r (if knownOp d.op then d.op else 0) st r.sat r.flush
  let s := if d.notify then s.out (.event 0 c) else s
  let s := giveBack s c d
  let s := s.modCtx c (fun x => { x with descs := x.descs.filter (fun y => y.seq != d.seq) })
  let s := if d.isColl && !d.coll.members.isEmpty then leaveBucket s (e - 96) d else s
  leaveIfDone (linkOn s e) c

def execCompletionWrite (c seq : Nat) (s : State) : Host.Outcome State Fault Refusal :=
  let s := takeHeld s (s.engOf c)
  .next (match s.desc? c seq with
    | some d => if mayComplete s c d then complete s c d else s
    | none => s)

/-! ## The watch unit (R346) -/

/-- An admitted descriptor of the engine has an active watch. -/
def watchInUse (s : State) (e : Nat) : Bool :=
  (s.residents e).any (fun c => (s.ctx c).descs.any (fun d => d.admitted && d.watchCfg.active))

/-- 2^16 fclk without an active watch: the unit quiesces and is OFF at once, since its last record is written with its
descriptor's completion. -/
def execWatchIdleTimeout (e : Nat) (s : State) : Host.Outcome State Fault Refusal :=
  .next (if (s.eng e).watchFn == .on && !watchInUse s e then
    s.modEng e (fun x => { x with watchFn := .off })
  else s)

def execWatchStartingEnd (e : Nat) (s : State) : Host.Outcome State Fault Refusal :=
  .next (if ((s.eng e).isOn || (s.eng e).st == .quiescing) && (s.eng e).watchFn == .starting then
    let s := s.modEng e (fun x => { x with watchFn := .on })
    let s := (s.residents e).foldl (fun s c => ((s.ctx c).descs.map (·.seq)).foldl (fun s q => runWhole s c q) s) s
    linkOn s e
  else s)

/-! ## The doorbell aperture (R173, R347, R351) -/

/-- A doorbell or set-up request with bad parity is discarded with response code 2 and recorded (R347). -/
def busParity (s : State) : State := (external s 0 true { noctx := true }).out (.bus 0 2)

/-- A request at the doorbell aperture: page `off / 0x1000`; `size` in bytes. While AON_PG is low the package answers. -/
def execDoorbell (isWrite parityOk : Bool) (off size : Nat) (value : Word64) (s : State) : Host.Outcome State Fault Refusal :=
  let c := off / 0x1000 % 4096
  let here := off % 0x1000 = 0
  .next (
    if !s.pins.aonPg then s
    else if !parityOk then busParity (if isWrite then dropDoorbell s c else s)
    else if isWrite then
      (if here && (size = 4 || size = 8) && s.pins.fabRstN then takeDoorbell s c (bits value.toNat 31 0)
        else dropDoorbell s c).out (.bus 0 0)
    else
      let x := s.ctx c
      s.out (.bus (if here && s.pins.fabRstN then x.sqHead + x.cqTail * 65536 else 0) 0))

/-! ## The end of a targeted self-test -/

/-- A recipe has an instruction of one of these operations. -/
def Desc.hasIns (d : Desc) (l : List Nat) : Bool := d.ins.any (fun p => l.contains (rOp p.1))

/-- A command's windows lie where an engine reaches them through this port (R12). -/
def Desc.usesPort (s : State) (d : Desc) (e : Nat) (net : Bool) : Bool := d.accs.any (fun a => s.usesNet e (s.addrOf a.win a.lo) == net)

/-- Elements of the chunk that a command of engine `e` is working on have passed through a unit (R305). -/
def Desc.passed (s : State) (d : Desc) (e unit quire : Nat) : Bool :=
  let l := lanes e
  let rot := d.op == opROTATE || (d.op == opQUANTISE && d.dfmt.rotk != 0) || (d.op == opDEQUANTISE && d.sfmt.rotk != 0) ||
    d.hasIns [riROT] || (d.hasIns [riDQN, riQNT] && d.slots.any (fun x => x.fmt.rotk != 0))
  d.ckpt.on && decide (d.ckpt.cursor < d.cursor || d.ckpt.rows != d.rows || d.ckpt.pass != d.pass) &&
  (if unit = unQUIRE then
    decide (64 * quire < min l (d.pos - d.ckpt.cursor)) &&
      [opCONVERT, opQUANTISE, opDEQUANTISE, opROTATE, opFILL, opREDUCE, opRECIPE].contains d.op
  else if unit = unMEMSTREAM || unit = unNETSTREAM then d.usesPort s e (unit == unNETSTREAM)
  else if unit = unSCALE then d.op == opQUANTISE || d.hasIns [riSCL, riQNT]
  else if unit = unROT then rot
  else if unit = unREDUCE then d.op == opREDUCE || d.hasIns [riRED]
  else if unit = unSAMPLER then d.op == opSAMPLE
  else if unit = unMIXER then d.round || rot || [opFILL, opSAMPLE, opRECIPE].contains d.op
  else unit == unWATCH && (d.op == opSTATS || d.watchCfg.active))

/-- What a command's work has touched since its checkpoint. -/
def Desc.sinceCkpt (s : State) (d : Desc) : List Acc :=
  if d.op = opSAMPLE then
    let r : Nat × Nat := match d.ckpt.rows with | r :: _ => (r.row, r.col) | [] => (d.ckpt.cursor, 0)
    (range2 r.1 (min d.count (d.nextRow.row + 1))).flatMap (fun k => d.rowSpans s k (if k = r.1 then r.2 else 0))
  else d.stripSpan d.ckpt.cursor d.cursor

/-- The chunk of a command's checkpoint can be redone: none of the chunks that its work has touched since has been given up, and no
drain of its tiles is under way. -/
def Desc.chunkOpen (s : State) (d : Desc) : Bool :=
  d.ckpt.on && d.drains.isEmpty && d.status.isNone && d.ends.isEmpty &&
    (d.sinceCkpt s).all (fun a => (accChunks s a).all (fun k => d.holds a.win k))

/-- A command back at the start of its open chunk, with the states that it had there (R81, R116, R123, R142, R216). -/
def Desc.rewind (d : Desc) : Desc :=
  let k := d.ckpt
  { d with
    cursor := k.cursor, pos := k.cursor, pass := k.pass, sat := k.sat, flush := k.flush, aux := k.aux, nonfin := k.nonfin
    firstNf := k.firstNf, events := k.events, longsum := k.longsum, watch := k.watch, reds := k.reds, rows := k.rows
    drains := k.drains, held := d.held.filter (fun p => p.1 < k.cursor), finished := false }

/-- A chunk is redone from its start, the tiles of a recipe included (R305). -/
def redoChunk (s : State) (c q : Nat) : State :=
  let d := s.desc c q
  let s := if d.op = opRECIPE then
      s.modCtx c (fun x => { x with
        live := d.ckpt.tiles.foldl (fun l p => SMap.set l 0 p.1 p.2) (x.live.filter (fun p => !(tileBytesOf d [p] == [p]))) })
    else s
  s.modDesc c q Desc.rewind

/-- After a test that passes, every chunk whose elements passed through the unit and that is not DONE is redone (R305); the
answer says whether there was one, the failing work included. -/
def redoAfter (s : State) (e : Nat) (t : SelfTest) : State × Bool :=
  let l := ((s.residents e).map (fun c => ((s.ctx c).descs.filter (fun d =>
    d.admitted && d.op != opFOLD && d.chunkOpen s && redoUnit t.unit && t.record.kind != 0 &&
      d.passed s e t.unit t.quire)).map (fun d => (c, d.seq)))).flatten
  let own := t.redo && !t.record.noctx && (match s.desc? t.record.context t.record.seq with
    | some d => d.ends.isEmpty && d.status.isNone
    | none => false)
  (l.foldl (fun s x => redoChunk s x.1 x.2) s, own || !l.isEmpty)

/-- Lanes whose pattern sources a test of a unit runs: the 64 of a quire, or all (R13, R303). -/
def testLanes (e unit quire : Nat) : List Nat := if unit = unQUIRE then range2 (64 * quire) (64 * quire + 64) else List.range (lanes e)

/-- Length of a targeted self-test in fclk (Table 15.5). -/
def testFclk (unit : Nat) : Nat :=
  if unit = unQUIRE then 9600 else if unit = unSCALE then 6400 else if unit = unFOLD then 24000 else if unit = unROT then 4800
  else if unit = unTILE || unit = unCACHE || unit = unWC then 1600
  else if unit = unREDUCE || unit = unSAMPLER then 8000 else if unit = unMIXER then 2400 else if unit = unWATCH then 4000
  else if unit = unFRONT then 12000 else if unit = unLINK then 16000 else 6000

/-- The pattern sources of the unit's lanes have run for the length of its test (R303). -/
def runSources (s : State) (e unit quire : Nat) : State :=
  s.modEng e (fun x => { x with lfsr := (testLanes e unit quire).foldl (fun m l =>
    SMap.set m 0 l (Config.lfsrAfter (s.img.adopted.getD []) e l (SMap.get x.lfsr 0 l) (testFclk unit) % 2 ^ 32)) x.lfsr })

/-- The test of a unit that has started ends: after a pass, chunks are redone, and the accesses and frames that were held go
on. -/
def execSelfTestEnd (e unit quire : Nat) (pass : Bool) (pattern us : Nat) (s : State) : Host.Outcome State Fault Refusal :=
  .next (match (s.eng e).tests.find? (fun t => t.started && unitKey t.unit t.quire == unitKey unit quire) with
    | none => s
    | some t =>
      let s := runSources s e t.unit t.quire
      let (s, redo) := if pass then redoAfter s e t else (s, false)
      let s := endTest s e t pass redo pattern us
      if (s.eng e).testing || (s.eng e).fenced || (s.eng e).holding then s
      else linkOn (releaseInline s e) e)

end Sys2Proof.Machine
end

