-- ==== Sys2Proof/Machine/Power.lean ====
section
/-! DEFINITION. Engine states (R345), resets and power good (R344), clocks and the power cap (R338 to R340), the counters
of an fclk (R314, R317) and the passing of a nanosecond. -/

namespace Sys2Proof.Machine

/-! ## Output pins -/

/-- AON_PG, fabric reset released, image adopted (Table 17.5). -/
def fabReadyNow (s : State) : State :=
  { s with pins := { s.pins with fabReady := s.pins.aonPg && s.pins.fabRstN && s.img.adopted.isSome } }

/-- The engine rail of an engine's die is good. -/
def railGood (s : State) (e : Nat) : Bool := nth s.pins.vddFab (dieOf e) true

/-! ## Engine states -/

/-- What a PE's link keeps through OFF: its counters, JOBSEL and the job counters (R323), and the level of PAUSE_IN, an input
(Table 17.10). -/
def linkOff (l : Link) : Link :=
  { cnt := l.cnt, jobSel := l.jobSel, paused := l.paused
    jobs := SMap.mapVals l.jobs {} (fun j => { rescales := j.rescales, tx := j.tx, rx := j.rx }) }

/-- What is left of an engine in OFF: the bits held in the always-on island, and the error history (R302, R337, R361). -/
def engineOff (x : Engine) : Engine :=
  { enable := x.enable, bootFail := x.bootFail, linkUp := x.linkUp, freq := x.freq, linkCfg := x.linkCfg
    fenced := x.fenced, unitErr := x.unitErr, lastDet := x.lastDet }

/-- An engine goes OFF (R337, R345): every context that named it leaves with ENABLE 0, its write-combining entries are
lost, its link keeps only counters; the tags of its requests are free for its stack. -/
def goOff (s : State) (e : Nat) : State :=
  let s := (s.named e).foldl (fun s c => leaveCtx s c true) (leaveCut s e)
  let s := s.dropWc e
  let s := s.modEng e engineOff
  if isPe e then s.modLink (e - 96) linkOff else issueStack s (e / 8)

/-- OFF is left for STARTING when ENABLE reads 1 and an image is adopted (R345); the engine takes the epoch (R283). -/
def maybeStart (s : State) (e : Nat) : State :=
  let x := s.eng e
  if x.st == .off && x.enable && s.img.adopted.isSome && !x.fenced && railGood s e && s.pins.fabRstN then
    s.setEng e { x with st := .starting, startStep := 0, epoch := s.epoch, chan := [] }
  else s

/-- ON is left for QUIESCING (R345, R313): descriptors end with STOPPED, the final sample record is written (R316), a PE
clears LINKEN after its aborts. The engine's self-tests and what they hold go on (R302, R304), and its watch unit serves the
commands that run to completion. -/
def startQuiesce (s : State) (e : Nat) : State :=
  let s := if (s.eng e).sampEff && !(s.eng e).fenced then writeSample s e 3 0 s.time (s.eng e).cnt else s
  let s := (s.residents e).foldl (fun s c => endCtx s c stSTOPPED (fun d => !runsOn d)) s
  s.modEng e (fun x => { x with st := .quiescing, linkEn := false })

/-- ENABLE reads 0 in ON: to QUIESCING. -/
def maybeQuiesce (s : State) (e : Nat) : State :=
  if (s.eng e).isOn && !(s.eng e).enable then startQuiesce s e else s

/-- An island's clock: the lower of FREQ and the ceiling (R340). -/
def targetClock (s : State) (x : Engine) : Nat := if s.pwr.capEn then min x.freq s.pwr.ceiling else x.freq

/-- A part of STARTING is done. -/
def startPart (s : State) (e step : Nat) : State :=
  let x := s.eng e
  if x.st == .starting && x.startStep = step then
    s.setEng e { x with startStep := step + 1, fcur := if step = 1 then targetClock s x else x.fcur }
  else s

def execIslandPowerGood (e : Nat) (s : State) : Host.Outcome State Fault Refusal := .next (startPart s e 0)
def execPllLock (e : Nat) (s : State) : Host.Outcome State Fault Refusal := .next (startPart s e 1)
def execSramClearDone (e : Nat) (s : State) : Host.Outcome State Fault Refusal := .next (startPart s e 2)

/-- The boot self-test passes: ON, and on to QUIESCING after one fclk where ENABLE reads 0 (R345). -/
def bootPass (s : State) (e : Nat) : State :=
  let s := s.modEng e (fun x => { x with st := .on, startStep := 0, bootFail := false, cnt := {} })
  let s := traceUnit s e
  if (s.eng e).enable then s
  else maybeQuiesce (s.modEng e (fun x => { x with cnt := { x.cnt with fclk := 1 } })) e

/-- The boot self-test fails: BOOTFAIL, FENCED, DEGRADED, one LASTING record (R367), and OFF. -/
def bootFails (s : State) (e unit quire pattern us : Nat) : State :=
  let s := s.modEng e (fun x => { x with
    bootFail := true, fenced := true
    unitErr := SMap.set x.unitErr 0 (unitKey unit quire) (min 0xFFFF (SMap.get x.unitErr 0 (unitKey unit quire) + 1)) })
  let s := { s with err := { s.err with degraded := true } }
  let r := { mkErr s e unit quire 5 clLASTING (pattern % 65536 * 65536 + us % 65536) { noctx := true } with type := 2 }
  goOff (writeErr s r) e

def execBootSelfTestEnd (e : Nat) (pass : Bool) (unit quire pattern us : Nat) (s : State) :
    Host.Outcome State Fault Refusal :=
  .next (if (s.eng e).st == .starting && (s.eng e).startStep = 3 then
    (if pass then bootPass s e else bootFails s e unit quire pattern us)
  else s)

/-- QUIESCING is done: no descriptor, request, write-combining entry, self-test or held access is left (R302, R304, R345). -/
def quiesced (s : State) (e : Nat) : Bool :=
  let x := s.eng e
  x.st == .quiescing && x.wc.isEmpty && x.reqs.isEmpty && x.tests.isEmpty && x.heldIn.isEmpty && !x.holding &&
    (s.residents e).all (fun c => (s.ctx c).descs.isEmpty)

def execQuiesceEnd (e : Nat) (s : State) : Host.Outcome State Fault Refusal :=
  .next (if quiesced s e then maybeStart (goOff s e) e else s)

/-- A change of FREQ or of the ceiling takes effect (R339). -/
def execClockChange (e : Nat) (s : State) : Host.Outcome State Fault Refusal :=
  let x := s.eng e
  .next (if x.st != .off && x.fcur ≠ 0 then s.setEng e { x with fcur := targetClock s x } else s)

/-! ## The power cap (R340) -/

/-- CAP in tenths of a watt: values outside 500 to 3,000 are taken as 3,000. -/
def Power.capEff (p : Power) : Nat := if 500 ≤ p.cap && p.cap ≤ 3000 then p.cap else 3000

/-- Section `ty` of the adopted image: its bytes. -/
def imgSection (img : List Byte) (ty : Nat) : List Byte :=
  let f (a : Nat) : Nat := leNat ((img.drop a).take 4)
  match (List.range (f 0x14)).find? (fun k => f (0x18 + 16 * k) == ty) with
  | some k => (img.drop (f (0x1C + 16 * k))).take (f (0x20 + 16 * k))
  | none => []

/-- The estimate of R340 in tenths of a watt, of engines given as number, FCUR, ACTIVE and fclk over the period: linear in each
FCUR and in each ACTIVE fraction, with the coefficients of the adopted image (free values, log 6), plus 5.6 W. It is at most the
fabric's largest draw, 300 W, so a CAP of 3,000 never binds. -/
def pwrEstimate (img : List Byte) (use : List (Nat × Nat × Nat × Nat)) : Nat :=
  min 3000 ((use.map (fun u =>
    Config.pwrCoef img u.1 0 * u.2.1 + Config.pwrCoef img u.1 1 * u.2.2.1 / max 1 u.2.2.2)).sum / 2 ^ 16 + 56)

/-- Every 10 µs: PWREST is formed and the ceiling moves (R340). -/
def execPowerCapPeriod (s : State) : Host.Outcome State Fault Refusal :=
  let last (e : Nat) : Nat × Nat := ((s.pwr.prev.find? (fun p => p.1 == e)).map (·.2)).getD (0, 0)
  let use := s.engines.map (fun p =>
    let l := last p.1
    (p.1, p.2.fcur, p.2.cnt.active - l.2, p.2.cnt.fclk - l.1))
  let est := pwrEstimate (imgSection (s.img.adopted.getD []) 6) use
  let now : List (Nat × Nat × Nat) := s.engines.map (fun q => (q.1, q.2.cnt.fclk, q.2.cnt.active))
  let p : Power := { s.pwr with rest := est, prev := now }
  let p :=
    if !p.capEn then { p with low := 0 }
    else if p.capEff < est then { p with ceiling := max 800 (p.ceiling - 25), low := 0 }
    else if est * 100 < 95 * p.capEff then
      if p.low + 1 = 10 then { p with ceiling := min 1700 (p.ceiling + 25), low := 0 } else { p with low := p.low + 1 }
    else { p with low := 0 }
  .next { s with pwr := p }

/-! ## Resets and rails (R344) -/

/-- An engine is put in OFF at once, with no quiescing and no completion record: what its contexts held for a re-enable, a
doorbell or the cut is dropped first, so that no other field changes (R344, R359); the package answers for the inline accesses
that it held (R311). -/
def cutOff (s : State) (e : Nat) : State :=
  let s := s.modEng e (fun x => { x with sampEff := false, ctxEff := false })
  let s := (s.named e).foldl (fun s c => s.modCtx c (fun x => { x with reEnable := false })) s
  let s := goOff (s.dropHeldIn e 4) e
  s.modEng e (fun x => { x with enable := false, linkEn := false })

/-- What engines have asked of memory and the ribbon's part at each are dropped, with the RIBBON that was granted and those that wait. -/
def dropCut (s : State) : State :=
  { s with
    engines := SMap.mapVals s.engines {} (fun x => { x with cut := {}, reqs := [] })
    trace := { s.trace with cutBusy := false, granted := none, ribbons := [] } }

/-- Doorbells and re-enables held for contexts are dropped: every context leaves with its engine. Flushes of inline windows, and
enables that wait for their ends, are dropped as well, so that no check of an entry follows (R359). -/
def dropHolds (s : State) : State :=
  { s with
    ctxs := SMap.mapVals s.ctxs {} (fun x => { x with reEnable := false, heldDb := [], saving := false, restoring := false })
    inlines := SMap.mapVals s.inlines {} (fun x => { x with
      flushing := false, disabling := false, flushAgain := false, heldEnable := false }) }

/-- FAB_RST_N asserted: the bits that R344 lists are cleared, and every engine is OFF. The words of a table keep their values
(R359). -/
def fabReset (s : State) : State :=
  let s := (s.engines.map (·.1)).foldl cutOff (dropHolds (dropCut s))
  let s := { s with
    engines := SMap.mapVals s.engines {} (fun x => { x with fenced := false, unitErr := [], lastDet := [] })
    links := SMap.mapVals s.links {} (fun l => { jobSel := l.jobSel, paused := l.paused })
    ctxs := SMap.mapVals s.ctxs {} (fun x => { x with
      enable := false, resident := false, descs := [], live := [], shadow := [] })
    waitQ := []
    inlines := SMap.mapVals s.inlines {} (fun x => { x with
      enable := false, active := false, flushing := false, disabling := false, flushAgain := false, heldEnable := false
      initPending := false, lost := [] }) }
  let s := { s with
    dom := { s.dom with join := false, member := false, issuing := false, served := [], waiting := [], acks := [] }
    err := { s.err with on := false, degraded := false, unitErr := 0 }
    samp := { s.samp with on := false, ctxOn := false }
    trace := { s.trace with on := false, port := .idle, queue := [], since := [] }
    accesses := [], stackDef := [], pdHist := [] }
  fabReadyNow s

def execFabRstAssert (s : State) : Host.Outcome State Fault Refusal :=
  .next (fabReset { s with pins := { s.pins with fabRstN := false } })

def execFabRstRelease (s : State) : Host.Outcome State Fault Refusal :=
  .next (fabReadyNow { s with pins := { s.pins with fabRstN := true } })

/-- Every register and table at its reset value and the adopted image discarded (R344); memory, the queue, the inputs and
what the fabric has presented stay. -/
def aonReset (s : State) (pins : Pins) : State :=
  { State.reset with
    pending := s.pending, mem := s.mem, outputs := s.outputs, devMap := s.devMap, apBase := s.apBase
    apSize := s.apSize, freeCount := s.freeCount
    pins := { pins with aonPg := false, fabReady := false } }

def execAonRstAssert (s : State) : Host.Outcome State Fault Refusal :=
  .next (aonReset s { s.pins with aonRstN := false })

/-- The always-on island comes out of reset outside its operating conditions: its state is undefined (R344, log 7). -/
def undefinedIsland (s : State) (pins : Pins) : State :=
  let u := Config.undefinedAon s.freeCount
  { u with
    pending := s.pending, mem := s.mem, outputs := s.outputs, devMap := s.devMap, apBase := s.apBase
    apSize := s.apSize, freeCount := s.freeCount + 1
    pins := { pins with aonPg := u.pins.aonPg, fabReady := u.pins.fabReady } }

/-- AON_RST_N released: the timebase starts from 0. A release too soon (`stable` false, or while VDD_AON_PG is low) leaves the
island undefined. -/
def execAonRstRelease (stable : Bool) (s : State) : Host.Outcome State Fault Refusal :=
  let pins := { s.pins with aonRstN := true }
  .next (
    if s.pins.aonRstN then s
    else if stable && s.pins.vddAon then { s with time := 0, pins := pins }
    else undefinedIsland s pins)

def execAonPgRise (s : State) : Host.Outcome State Fault Refusal :=
  .next (if s.pins.aonRstN && s.pins.vddAon then fabReadyNow { s with pins := { s.pins with aonPg := true } } else s)

/-- A low engine rail (R344): the die's engines OFF, ENABLE and LINKEN cleared; their contexts read ENABLE and RESIDENT 0, those
that wait for an engine in OFF among them. -/
def execVddFabPgLow (d : Nat) (s : State) : Host.Outcome State Fault Refusal :=
  let s := { s with pins := { s.pins with vddFab := s.pins.vddFab.set d false } }
  .next ((allEngines.filter (fun e => dieOf e == d)).foldl cutOff s)

/-- The rail returns; the engines stay OFF (R344). -/
def execVddFabPgHigh (d : Nat) (s : State) : Host.Outcome State Fault Refusal :=
  .next { s with pins := { s.pins with vddFab := s.pins.vddFab.set d true } }

/-- The always-on rail falls (R337): the island, its tables and every engine lose their contents. AON_RST_N, an input, keeps its
level. -/
def execVddAonPgLow (s : State) : Host.Outcome State Fault Refusal :=
  .next (aonReset s { s.pins with vddAon := false })

/-- The always-on rail rises; with AON_RST_N high, the reset has been released sooner than R344 allows. -/
def execVddAonPgHigh (s : State) : Host.Outcome State Fault Refusal :=
  let pins := { s.pins with vddAon := true }
  .next (if s.pins.vddAon then s else if s.pins.aonRstN then undefinedIsland s pins else { s with pins := pins })

/-! ## The passing of an fclk (R314, R317, R330, R332) and of a nanosecond -/

/-- The next work of a descriptor waits on nothing but the ports: it may issue, and the chunks of its strip are held. -/
def workReady (s : State) (c : Nat) (d : Desc) : Bool := mayStrip s c d && (gateStrip s c d).2.2

/-- Work of an engine is ready and waits only on a memory port, the compute-network port or the link (R314). -/
def waitsOnPorts (s : State) (e : Nat) : Bool :=
  (isPe e && !(s.link (e - 96)).txq.isEmpty) ||
    (s.residents e).any (fun c => (s.ctx c).descs.any (fun d => !(d.isColl && isPe e) && workReady s c d))

/-- Inline service of an SE has a request pending: an access held, or an entry that a flush covers. -/
def inlineReady (s : State) (e : Nat) : Bool := !(s.eng e).heldIn.isEmpty || (s.eng e).wc.any (·.inFlush)

/-- The headcount of quire `q` of an engine at its shared units (R23): the weights of the leaves with a request pending in it,
contexts with a ready strip that reaches its lanes and inline service. A strip issues in one step, in which every quire's
requests are granted, so the quires' turns leave no trace (log 78). -/
def quireHeadcount (s : State) (e q : Nat) : Nat :=
  ((s.residents e).filter (fun c => (s.ctx c).descs.any (fun d =>
    workReady s c d && decide (64 * q < (d.nextStrip (lanes e)).2 - (d.nextStrip (lanes e)).1)))).length +
    (if inlineReady s e then inlineWeight else 0)

/-- The class of R314 for an fclk in which nothing issued: 1 STALL_TEST, 2 STALL_MEM, 3 STALL_SYNC, 4 idle. An admitted
descriptor with work left that is not ready waits on a flag, a tracker, the scoreboard, a tile region, credit or its ticket. -/
def idleClass (s : State) (e : Nat) : Nat :=
  if (s.eng e).testing then 1
  else if waitsOnPorts s e then 2
  else if (s.residents e).any (fun c => (s.ctx c).descs.any (fun d => d.admitted && !d.over)) then 3
  else 4

/-- `n` fclk of a class are counted. -/
def Counters.stall (k : Counters) (cl n : Nat) : Counters :=
  if cl = 1 then { k with stallTest := k.stallTest + n } else if cl = 2 then { k with stallMem := k.stallMem + n }
  else if cl = 3 then { k with stallSync := k.stallSync + n } else k

/-- Trace credit of `n` fclk, in hundredths, up to 64 credits (R330). -/
def Engine.earn (x : Engine) (e n : Nat) : Engine := { x with credit := min 6400 (x.credit + n * (if isPe e then 12 else 24)) }

/-- `n` fclk of an engine in ON pass: the first is ACTIVE where work issued in it, the others fall in the class in which the
engine stands (R314, R317). -/
def passFclk (s : State) (e n : Nat) : State :=
  if n = 0 then s
  else
    let cl := idleClass s e
    let s := s.modEng e (fun x =>
      let k := { x.cnt with fclk := x.cnt.fclk + n }
      { x.earn e n with
        cnt := if x.issued then { k with active := k.active + 1 }.stall cl (n - 1) else k.stall cl n, issued := false })
    (s.residents e).foldl (fun s c => s.modCtx c (·.passed n)) s

/-- The counters of an engine are fixed at the end of its fclk t_c (R332); those of a hold stand from then on. -/
def fixCut (s : State) (e : Nat) : State :=
  s.modEng e (fun x => if x.cut.marked && !x.cut.fixed then { x with cut := { x.cut with fixed := true, frozen := x.cnt } } else x)

/-- One fclk of an engine: counted in ON, and not after the end of t_c in a hold (R333); trace credit grows in every one (R330). -/
def fclkStep (s : State) (e : Nat) : State :=
  let x := s.eng e
  let s := if x.isOn && !(x.holding && x.cut.fixed) then fixCut (passFclk s e 1) e else s.modEng e (·.earn e 1)
  traceOwed s e

/-- An engine over one nanosecond: FCUR thousandths of an fclk. -/
def engineTick (s : State) (e : Nat) : State :=
  let x := s.eng e
  if x.isOn || x.st == .quiescing then
    let f := x.frac + x.fcur
    forN (f / 1000) (s.setEng e { x with frac := f % 1000 }) (fun s _ => fclkStep s e)
  else s

/-- One nanosecond with no command waiting (log 5): the timebase runs from the release of AON_RST_N (R324), the engines'
fclk are counted, and the trace port sends. -/
def tick (s : State) : State :=
  if s.pins.aonRstN && s.pins.vddAon then
    let s : State := { s with time := (s.time + 1) % 2 ^ 64 }
    let s := (s.engines.map (·.1)).foldl engineTick s
    if s.time % 2 = 0 then tracePort s else s
  else s

end Sys2Proof.Machine
end

