-- ==== Sys2Proof/Machine/Image.lean ====
section
/-! DEFINITION. The configuration image (R341, R342, R360) and its register defaults (R368). -/

namespace Sys2Proof.Machine

/-! ## The fields of the header (Table 17.3) -/

/-- The 4-byte field at offset `a` of the loaded bytes, if they hold it. -/
def imgField (l : List Byte) (a : Nat) : Option Nat := if a + 4 ≤ l.length then some (leAt l a 4) else none

def imgMagic : Nat := 0x3047464354565244
/-- The image is at most 4 MiB (R341). -/
def imgMax : Nat := 4 * 2 ^ 20

/-- A directory entry. -/
structure ImgSect where
  ty : Nat := 0
  off : Nat := 0
  len : Nat := 0
  zero : Nat := 0
  deriving DecidableEq, Repr, Inhabited

/-- The directory of an image with `n` sections. -/
def imgDir (l : List Byte) (n : Nat) : List ImgSect :=
  (List.range n).map (fun k =>
    { ty := leAt l (0x18 + 16 * k) 4, off := leAt l (0x1C + 16 * k) 4, len := leAt l (0x20 + 16 * k) 4
      zero := leAt l (0x24 + 16 * k) 4 })

/-- Two sections overlap. -/
def sectMeet (a b : ImgSect) : Bool := a.off < b.off + b.len && b.off < a.off + a.len

/-- No two values of a list agree under `f`. -/
def pairwiseOk {α : Type} (f : α → α → Bool) : List α → Bool
  | [] => true
  | a :: r => r.all (fun b => !f a b) && pairwiseOk f r

/-- The directory obeys R341. -/
def dirOk (l : List Byte) : Bool :=
  match imgField l 0x14 with
  | none => false
  | some n =>
    let d := imgDir l n
    decide (1 ≤ n) && decide (n ≤ 16) && decide (0x18 + 16 * n ≤ l.length) &&
      d.all (fun x => decide (0x18 + 16 * n ≤ x.off) && decide (x.off + x.len ≤ l.length) && decide (1 ≤ x.ty) &&
        decide (x.ty ≤ 6) && x.zero == 0) &&
      pairwiseOk (fun a b => a.ty == b.ty) d && pairwiseOk sectMeet d &&
      [2, 3, 4, 6].all (fun t => d.any (fun x => x.ty == t))

/-! ## Lane polynomials -/

/-- Lanes of all engines (R341). -/
def allLanes : Nat := 114688

/-- The little-endian 4-byte words of a section. -/
def words4 : List Byte → List Nat
  | a :: b :: c :: d :: r => leNat [a, b, c, d] :: words4 r
  | _ => []

/-- First lane of an engine, in engine order. -/
def laneBase (e : Nat) : Nat := if e < 96 then 1024 * e else 98304 + 512 * (e - 96)

/-- Length, distinct polynomials in an engine, and bit 31 (R342). -/
def polysOk (sec : List Byte) : Bool :=
  let w := words4 sec
  decide (sec.length = 4 * allLanes) && allEngines.all (fun e =>
    let p := (w.drop (laneBase e)).take (lanes e)
    p.all (fun v => bitAt v 31) && pairwiseOk (fun a b => a == b) p)

/-! ## Register defaults (R368) -/

/-- The pairs (offset, value) of the section. -/
def defaultPairs (sec : List Byte) : List (Nat × Nat) :=
  (List.range (sec.length / 12)).map (fun k => (leAt sec (12 * k) 4, leAt sec (12 * k + 4) 8))

/-- The words that a default may address. -/
inductive DefWord where
  | pwrcap | arbcfg | groupcfg | dom0 | dom1 | dom2 | err0
  | engctl (e : Nat) | linkcfg (e : Nat)
  deriving DecidableEq, Repr

/-- The engine whose block holds an offset, and the offset in the block (Table 18.1). -/
def engineAt (off : Nat) : Option (Nat × Nat) :=
  if 0x100000 ≤ off && off < 0x160000 then some ((off - 0x100000) / 0x1000, off % 0x1000)
  else if 0x180000 ≤ off && off < 0x1A0000 then some (96 + (off - 0x180000) / 0x1000, off % 0x1000)
  else none

/-- The word at an offset, if a default may address it; LINKCFG is a word of PE blocks only. -/
def defWord (off : Nat) : Option DefWord :=
  if off = 0x18 then some .pwrcap else if off = 0x28 then some .arbcfg else if off = 0x30 then some .groupcfg
  else if off = 0x40 then some .dom0 else if off = 0x48 then some .dom1 else if off = 0x50 then some .dom2
  else if off = 0x60 then some .err0
  else match engineAt off with
    | some (e, 0) => some (.engctl e)
    | some (e, 8) => if isPe e then some (.linkcfg e) else none
    | _ => none

/-- The bits that a default of the word must not set: reserved bits, and those that start an action or a state. -/
def DefWord.bad (w : DefWord) (v : Nat) : Bool :=
  let z (hi lo : Nat) : Bool := bits v hi lo != 0
  match w with
  | .pwrcap => z 60 56 || z 31 16
  | .arbcfg => z 63 8
  | .groupcfg => z 63 48 || z 5 0
  | .dom0 => z 63 63 || z 54 47 || z 15 15
  | .dom1 => z 63 63 || z 5 0
  | .dom2 => z 63 48 || z 7 0
  | .err0 => z 63 63 || z 61 61 || z 55 48 || z 5 0
  | .engctl _ => z 63 63 || z 58 58 || z 56 44 || z 19 0
  | .linkcfg _ => z 32 32

/-- A section of defaults is a whole number of pairs, none of them bad. -/
def defaultsOk (sec : List Byte) : Bool :=
  sec.length % 12 == 0 && (defaultPairs sec).all (fun p =>
    match defWord p.1 with
    | some w => !w.bad p.2
    | none => false)

/-- FREQ on its grid of 25 MHz from 800 to 1,700 (R339). -/
def freqGrid (v : Nat) : Nat := if v < 800 then 800 else if 1700 < v then 1700 else v / 25 * 25

/-- A default stores a value (R368): locked fields keep theirs, and no action starts. A good default has 0 in ENABLE,
LINKEN, JOIN and ERRON. -/
def storeDefault (s : State) (w : DefWord) (v : Nat) : State :=
  match w with
  | .pwrcap => { s with pwr := { s.pwr with capEn := bitAt v 63, cap := bits v 43 32 } }
  | .arbcfg => { s with coreWeight := bits v 7 0 }
  | .groupcfg => { s with groupBase := bits v 47 6 }
  | .dom0 =>
    if s.dom.join then { s with dom := { s.dom with join := false } }
    else { s with dom := { s.dom with
      kname := bitAt v 60, kport := bits v 59 55, deviceId := bits v 46 32, domain := bits v 31 16, knamed := bits v 14 0 } }
  | .dom1 => if s.dom.join then s else { s with dom := { s.dom with domtab := bits v 47 6 } }
  | .dom2 => { s with dom := { s.dom with ticketStart := bits v 47 8 } }
  | .err0 =>
    if s.err.on then { s with err := { s.err with on := false } }
    else { s with err := { s.err with log2 := bits v 60 56, base := bits v 47 6 } }
  | .engctl e =>
    maybeQuiesce (s.modEng e (fun x => { x with enable := false, linkEn := false, freq := freqGrid (bits v 43 32) })) e
  | .linkcfg e => if (s.eng e).linkEn then s else s.modEng e (fun x => { x with linkCfg := v })

/-- The defaults of an image, in order. -/
def applyDefaults (s : State) (sec : List Byte) : State :=
  (defaultPairs sec).foldl (fun s p => match defWord p.1 with | some w => storeDefault s w p.2 | none => s) s

/-! ## Checking and adopting (R342) -/

/-- REASON of Table 17.4: the first check that fails, or 0. -/
def imgReason (l : List Byte) : Nat :=
  if !(decide (12 ≤ l.length) && leAt l 0 8 == imgMagic && leAt l 8 4 == 1) then 1
  else if imgField l 0x0C != some l.length || imgMax < l.length then 2
  else if imgField l 0x10 != some (crc32c (l.drop 0x14)) then 3
  else if !dirOk l then 6
  else if !polysOk (imgSection l 2) then 4
  else if !defaultsOk (imgSection l 1) then 5
  else 0

/-- COMMIT of the bytes loaded. -/
def commitImage (s : State) : State :=
  let l := s.img.loading
  let r := imgReason l
  if r ≠ 0 then { s with img := { s.img with stat := 3, reason := r, loading := [] } }
  else
    let s := applyDefaults s (imgSection l 1)
    fabReadyNow { s with img := { stat := 2, reason := 0, version := leAt l 8 4, loading := [], adopted := some l } }

/-- A load begins, and discards a partly loaded image; only while every engine is OFF. -/
def loadImgBegin (s : State) : State :=
  if s.anyEngine then s else { s with img := { s.img with stat := 1, reason := 0, loading := [] } }

/-- A write of IMGCTL: `v` holds the enabled bytes. Both pulses together are ignored (R360). -/
def imgctlWrite (s : State) (v : Nat) : State :=
  match bitAt v 63, bitAt v 62 with
  | true, false => loadImgBegin s
  | false, true => if s.img.stat = 1 then commitImage s else s
  | _, _ => s

/-- A write of IMGDATA while a load is in progress appends eight bytes (R360). -/
def imgdataWrite (s : State) (v : Nat) (all : Bool) : State :=
  if s.img.stat = 1 && all then { s with img := { s.img with loading := s.img.loading ++ leBytes 8 v } } else s

end Sys2Proof.Machine
end

