-- ==== Sys2Proof/Machine/Ribbon.lean ====
section
/-! DEFINITION. Sample points and snapshots (R316, R317, R319, R322), the trace port's training (R352), the protection
epoch's delivery (R283 to R285), the ribbon (R331 to R336) and test access (R353). -/

namespace Sys2Proof.Machine

/-! ## Sample points -/

/-- fclk between two sample points (R316). -/
def sampleSpan : Nat := 2 ^ 20

/-- The next fclk count at which a sample point falls: the first multiple of 2^20 not yet passed and not yet sampled. -/
def nextPoint (x : Engine) : Nat := max (ceilDiv x.cnt.fclk sampleSpan * sampleSpan) (x.lastPoint + sampleSpan)

/-- A sample point (R316, R317): where sampling is on, or was at the point before (R321, R346), the periodic record, then
the records of the resident contexts in ascending number. -/
def samplePoint (s : State) (e : Nat) : State :=
  let s := fixCut (passFclk s e (nextPoint (s.eng e) - (s.eng e).cnt.fclk)) e
  let x := s.eng e
  let s := if s.samp.on || x.sampEff then writeSample s e 1 0 s.time x.cnt else s
  let s := if s.samp.ctxOn || x.ctxEff then (s.residents e).foldl (fun s c => writeCtxRec s c 1) s else s
  s.modEng e (fun x => { x with sampEff := s.samp.on, ctxEff := s.samp.ctxOn, lastPoint := x.cnt.fclk })

def execSamplePoint (e : Nat) (s : State) : Host.Outcome State Fault Refusal :=
  .next (if (s.eng e).works && !(s.eng e).holding then samplePoint s e else s)

/-! ## Aggregate snapshots (R322) -/

/-- Every engine has answered: the aggregate record is written and BUSY clears. -/
def execAggregateRecord (s : State) : Host.Outcome State Fault Refusal :=
  .next (if s.samp.busy then
    { s with samp := { s.samp with
        busy := false, sums := {}, agg := sampleBytes s.samp.sums s.time 0 0 4 0 0 s.samp.sums.rescales 0 } }
  else s)

/-! ## The trace port (R352) -/

def execTracePortTraining (s : State) : Host.Outcome State Fault Refusal :=
  .next (if s.trace.port == .training then { s with trace := { s.trace with port := .sending } } else s)

/-! ## The channel from the always-on island (R18) and the protection epoch (R283 to R285) -/

/-- A descriptor stands at a chunk boundary: it waits on a flag or a tracker, or on credit, permission or its ticket, or it
names no window. -/
def Desc.atBoundary (d : Desc) : Bool :=
  d.admitted && !d.over && (d.claims.any (fun k => k.phase == phWAIT || k.phase == phTRACKER) || d.isColl || d.accs.isEmpty)

/-- An engine takes an epoch: its waiting descriptors are re-evaluated (R283), its inline path adopts it (R285). -/
def deliverEpoch (s : State) (e ep : Nat) : State :=
  let s := s.modEng e (fun x => { x with epoch := ep })
  (s.residents e).foldl (fun s c =>
    ((s.ctx c).descs.filter Desc.atBoundary).foldl (fun s d => reEvaluate s c d.seq) s) s

/-- The epoch at the head of an engine's channel arrives. In a hold the channel, whose marker has come, waits (R333). -/
def takeEpoch (s : State) (e : Nat) : State :=
  match (s.eng e).chan with
  | .epoch n :: l => deliverEpoch (s.modEng e (fun x => { x with chan := l })) e n
  | _ => s

def execEpochDelivery (e : Nat) (s : State) : Host.Outcome State Fault Refusal :=
  .next (if (s.eng e).st != .off && !(s.eng e).holding then takeEpoch s e else s)

/-- The lower of two epochs, by signed difference (R282). -/
def minEpoch (a b : Nat) : Nat := if before32 b a then b else a

/-- The tags of the descriptors of an engine that may still issue an access, and the epochs of the inline accesses that it
holds. -/
def liveTags (s : State) (e : Nat) : List Nat :=
  ((s.residents e).map (fun c =>
    ((s.ctx c).descs.filter (fun d => d.admitted && (!d.over || s.hasReq c d.seq))).map (·.tag))).flatten ++
    (s.eng e).heldIn.map (·.epoch)

/-- The lowest epoch under which any engine or inline path may still issue an access (R284). An engine in OFF and a
fenced engine hold nothing back. -/
def epochFloor (s : State) : Nat :=
  (s.engines.filter (fun p => p.2.st != .off && !p.2.fenced)).foldl
    (fun a p => (liveTags s p.1).foldl minEpoch (minEpoch a p.2.epoch)) s.epoch

/-- EPOCH_DONE rises; edits that every inline path has adopted, and under which no access is held, are forgotten. -/
def execEpochDoneRise (s : State) : Host.Outcome State Fault Refusal :=
  let f := epochFloor s
  let late (ep : Nat) : Bool := s.engines.any (fun p =>
    isSe p.1 && p.2.st != .off && (before32 p.2.epoch ep || p.2.heldIn.any (fun h => before32 h.epoch ep)))
  .next { s with
    epochDone := if before32 s.epochDone f then f else s.epochDone
    pdHist := s.pdHist.filter (fun h => late h.1) }

/-! ## The ribbon (R331 to R336) -/

/-- The island grants the oldest RIBBON that still waits (R331): every engine that is ON and not fenced takes part, and the
marker goes out on its channel. -/
def grantRibbon (s : State) : State :=
  match s.trace.ribbons.filter (fun r => !(s.desc r.1 r.2).over && (s.desc? r.1 r.2).isSome) with
  | [] => s
  | (c, q) :: rest =>
    let tag := (s.desc c q).sub
    let t : Trace := { s.trace with
      ribbons := rest, granted := some (c, q), cutBusy := true, cutDone := false, lastTag := tag, cutHold := s.trace.hold }
    let s : State := { s with
      trace := t
      engines := SMap.mapVals s.engines {} (fun x =>
        if x.works then { x with cut := { part := true, tag := tag, hold := t.hold }, chan := x.chan ++ [.marker tag t.hold] }
        else { x with cut := {} }) }
    cutCheck s

def execRibbonGrant (s : State) : Host.Outcome State Fault Refusal :=
  .next (if s.trace.cutBusy then s else grantRibbon s)

/-- The items ahead of the marker in an engine's channel arrive (R18). -/
def takeAhead (s : State) (e : Nat) : State :=
  forN ((s.eng e).chan.takeWhile (fun i => match i with | .epoch _ => true | .marker _ _ => false)).length s
    (fun s _ => takeEpoch s e)

/-- The markers that an engine sends: on the request channels of its compute-network port and, at an SE, of its memory port
(R332). -/
def markerReqs (e tag : Nat) : List Req :=
  let r (net : Bool) : Req := { kind := 5, net := net, data := leBytes 1 tag }
  if isSe e then [r false, r true] else [r true]

/-- The cut point of an engine: the marker is taken, and goes out on its own channels. -/
def cutPoint (s : State) (e tag : Nat) (hold : Bool) : State :=
  let s := s.modEng e (fun x => { x with
    chan := x.chan.drop 1, cut := { x.cut with marked := true, tag := tag, hold := hold, tc := s.time } })
  s.sendReqs e (markerReqs e tag)

/-- The first marker reaches an engine (R332), after all that its channel carries before it (R335). In hold mode the engine stops.
-/
def execRibbonMarker (e : Nat) (s : State) : Host.Outcome State Fault Refusal :=
  .next (
    let x := s.eng e
    if x.cut.part && !x.cut.marked && x.works then
      let s := takeAhead s e
      match (s.eng e).chan with
      | .marker tag hold :: _ => cutPoint s e tag hold
      | _ => s
    else s)

/-- Both response channels of an SE, or the compute-network channel of a PE, have returned the marker (R332). -/
def marksIn (x : Engine) (e : Nat) : Bool := if isPe e then bitAt x.cut.respMarks 1 else x.cut.respMarks == 3

/-- Markers have arrived on every input (R333, R334): the cut sample record and the CUT trace record. The fclk t_c has ended. -/
def capture (s : State) (e : Nat) : State :=
  let s := if (s.eng e).cut.fixed then s else fixCut (passFclk s e 1) e
  let x := s.eng e
  let k := x.cut
  let s := if x.sampEff then writeSample s e 2 k.tag k.tc k.frozen else s
  let s := traceEmitAt s k.tc e 5 5 (place s.time 64 128 + place k.tag 8 120 + place (bit k.hold) 1 119)
  cutCheck (s.modEng e (fun x => { x with cut := { x.cut with captured := true } }))

def execCutCapture (e : Nat) (s : State) : Host.Outcome State Fault Refusal :=
  .next (
    let x := s.eng e
    if x.cut.part && x.cut.marked && !x.cut.captured && marksIn x e then capture s e else s)

/-- A hold is in force that may be ended (R334). -/
def holdDone (s : State) : Bool := s.trace.cutBusy && s.trace.cutDone && s.trace.cutHold

/-- What an engine held during a hold takes effect, in order, and it goes on (R333, R334); a self-test holds on to inline
accesses (R304). -/
def resumeEngine (s : State) (e : Nat) : State :=
  let s := (s.residents e).foldl releaseDoorbells (takeHeld s e)
  let s := if (s.eng e).testing then s else releaseInline s e
  if isPe e then workLink (pump s (e - 96)) (e - 96) else s

/-- The engines that a hold stopped go on from their captured states, and CUTBUSY clears. -/
def endHold (s : State) : State :=
  let held := (s.engines.filter (fun p => p.2.holding)).map (·.1)
  let s := { s with
    engines := SMap.mapVals s.engines {} (fun x => { x with cut := {} })
    trace := { s.trace with cutBusy := false, granted := none } }
  held.foldl resumeEngine s

/-- RELEASE (R334, R336): the RIBBON's work is done. -/
def releaseHold (s : State) : State :=
  if holdDone s then
    endHold (match s.trace.granted with
      | some (c, q) => s.modDesc c q (fun d => { d with finished := true })
      | none => s)
  else s

/-- A fetched descriptor that has not completed ends with STOPPED, whatever it has done (R334); of the endings pending for it R184
names the one reported. -/
def Desc.stopAll (d : Desc) : Desc :=
  { d with
    status := none, finished := d.finished && !d.isColl
    ends := if d.ends.contains stSTOPPED then d.ends else d.ends ++ [stSTOPPED] }

/-- STOPALL for a context: a COLLECTIVE or REBOND sends its abort. -/
def stopCtx (s : State) (c : Nat) : State :=
  ((s.ctx c).descs.map (·.seq)).foldl (fun s q =>
    let s := s.modDesc c q Desc.stopAll
    let d := s.desc c q
    if d.isColl then abortGroup s c d else s) s

/-- STOPALL (R334): every fetched, uncompleted descriptor ends with STOPPED, then the engines go on. -/
def stopHold (s : State) : State := if holdDone s then endHold ((s.ctxs.map (·.1)).foldl stopCtx s) else s

/-! ## Test access (R353) -/

/-- A write through the IEEE 1687 network to the selector `sel` of an engine's instruments is kept, with FAB_RST_N low or
in a hold with CUTDONE 1; else it is ignored. -/
def execTestAccessWrite (e sel : Nat) (v : Word64) (s : State) : Host.Outcome State Fault Refusal :=
  .next (if !s.pins.fabRstN || holdDone s then
    { s with testRegs := SMap.set s.testRegs 0 (sel * numEngines + e % numEngines) v.toNat }
  else s)

end Sys2Proof.Machine
end

