-- ==== Sys2Proof/Machine/RegRead.lean ====
section
/-! DEFINITION. The set-up aperture: where every word lies (R354, Tables 18.1 to 18.3) and what it reads as, with the
clearing of RC fields (R5, R355, R359, R362). -/

namespace Sys2Proof.Machine

/-! ## The map -/

/-- A word of the aperture: global word, engine and word of its block, entry and word of a table, offset in the counter
region, word of the trace region, or an offset that no table assigns. -/
inductive Reg where
  | glob (k : Nat)
  | eng (e k : Nat)
  | ctx (c k : Nat)
  | win (w k : Nat)
  | pd (d k : Nat)
  | inl (i k : Nat)
  | sampcfg (k : Nat)
  | aggctl
  | agg (k : Nat)
  | link (m k : Nat)
  | trace (k : Nat)
  | none
  deriving DecidableEq, Repr

/-- A word of the counter region, 0x0060_0000 (Table 16.4). -/
def cntrReg (o : Nat) : Reg :=
  if o < 0x10 then .sampcfg (o / 8)
  else if o = 0x10 then .aggctl
  else if 0x100 ≤ o && o < 0x200 then .agg ((o - 0x100) / 8)
  else if 0x1000 ≤ o && o < 0x3000 && o % 0x100 < 0x80 then .link ((o - 0x1000) / 0x100) (o % 0x100 / 8)
  else .none

/-- The word that holds an aperture offset (Table 18.1). -/
def regAt (off : Nat) : Reg :=
  let o := off % 2 ^ 24 / 8 * 8
  if o < 0x100000 then (if o < 0x90 then .glob (o / 8) else .none)
  else match engineAt o with
  | some (e, b) => if b < 0x20 then .eng e (b / 8) else .none
  | none =>
    if 0x200000 ≤ o && o < 0x240000 then .ctx ((o - 0x200000) / 0x40) (o % 0x40 / 8)
    else if 0x400000 ≤ o && o < 0x420000 then .win ((o - 0x400000) / 0x20) (o % 0x20 / 8)
    else if 0x500000 ≤ o && o < 0x501000 then .pd ((o - 0x500000) / 0x10) (o % 0x10 / 8)
    else if 0x580000 ≤ o && o < 0x584000 then .inl ((o - 0x580000) / 0x40) (o % 0x40 / 8)
    else if 0x600000 ≤ o && o < 0x603000 then cntrReg (o - 0x600000)
    else if 0x700000 ≤ o && o < 0x700030 then .trace ((o - 0x700000) / 8)
    else .none

/-! ## The global block (Table 18.2) -/

/-- IDENT (Table 18.4). -/
def identWord : Nat := 0x0D1260200C010000

/-- One bit per engine from `lo`: FENCED. -/
def fencedBits (s : State) (lo n : Nat) : Nat :=
  (List.range n).foldl (fun a k => a + bit (s.eng (lo + k)).fenced * 2 ^ k) 0

def domRead (d : Domain) (k : Nat) : Nat :=
  match k with
  | 0 => place (bit d.join) 1 63 + place (bit d.member) 1 62 + place (bit d.failed) 1 61 + place (bit d.kname) 1 60 +
      place d.kport 5 55 + place d.deviceId 15 32 + place d.domain 16 16 + place d.knamed 15 0
  | 1 => place d.keystone 15 48 + place d.domtab 42 6
  | 2 => place d.ticketStart 40 8
  | _ => place d.ticketSeen 48 0

def errRead (s : State) (k : Nat) : Nat :=
  let c := s.err
  match k with
  | 0 => place (bit c.on) 1 63 + place (bit c.degraded) 1 62 + place c.log2 5 56 + place c.base 42 6
  | 1 => place c.tail 16 48 + place c.head 16 32 + place c.drop 32 0
  | 2 => fencedBits s 0 64
  | 3 => place (fencedBits s 96 32) 32 32 + fencedBits s 64 32
  | _ => place c.trans 40 0

/-- PWRCAP (Table 17.2). -/
def pwrRead (p : Power) : Nat :=
  place (bit p.capEn) 1 63 + place (bit (decide (p.ceiling < 1700))) 1 62 +
  place (bit (p.ceiling == 800 && decide (p.capEff < p.rest))) 1 61 + place p.ceiling 12 44 + place p.cap 12 32 +
  place p.rest 16 0

def globRead (s : State) (k : Nat) : Nat :=
  match k with
  | 0 => identWord
  | 1 => place s.img.stat 2 60 + place s.img.reason 4 56 + place s.img.version 32 0
  | 3 => pwrRead s.pwr
  | 4 => place s.epoch 32 32 + place s.epochDone 32 0
  | 5 => place s.coreWeight 8 0
  | 6 => place s.groupBase 42 6
  | 7 => place s.dbDrop 32 0
  | 8 => domRead s.dom 0
  | 9 => domRead s.dom 1
  | 10 => domRead s.dom 2
  | 11 => domRead s.dom 3
  | 12 => errRead s 0
  | 13 => errRead s 1
  | 14 => errRead s 2
  | 15 => errRead s 3
  | 16 => errRead s 4
  | 17 => s.time % 2 ^ 64
  | _ => 0

/-! ## Engine blocks (Table 18.3) -/

def EngState.code : EngState → Nat
  | .off => 0 | .starting => 1 | .on => 2 | .quiescing => 3

/-- ENGCTL (Table 17.1); LINKUP is a PE's. -/
def engctlRead (x : Engine) (e : Nat) : Nat :=
  place (bit x.enable) 1 63 + place x.st.code 2 61 + place (bit (x.enable && x.st == .quiescing)) 1 60 +
  place (bit x.bootFail) 1 59 + place (bit x.linkEn) 1 58 + place (bit (isPe e && x.linkUp)) 1 57 + place x.freq 12 32 +
  place (if x.st == .off then 0 else x.fcur) 12 20

/-- ENGSTAT (Table 18.5). -/
def engstatRead (s : State) (e : Nat) : Nat :=
  place (s.residents e).length 7 50 + place (s.tileFree e) 9 41 + place (trackersAll - s.trackersUsed e) 15 26 +
  place (s.eng e).wc.length 7 19

/-- An engine's block reads zero while FAB_RST_N is asserted (R359); ENGSTAT and FLAGVIOL also while the engine is OFF. -/
def engRead (s : State) (e k : Nat) : Nat :=
  let x := s.eng e
  if !s.pins.fabRstN then 0
  else match k with
    | 0 => engctlRead x e
    | 1 => if isPe e then x.linkCfg else 0
    | 2 => if x.st == .off then 0 else engstatRead s e
    | 3 => if x.st == .off then 0 else place x.flagViol 32 0
    | _ => 0

/-! ## The tables -/

/-- Table 9.1. -/
def ctxRead (x : Ctx) (k : Nat) : Nat :=
  let r := x.reg
  match k with
  | 0 => place (bit x.enable) 1 63 + place (bit x.resident) 1 62 + place (bit x.refused) 1 61 + place (bit x.ringErr) 1 60 +
      place r.pd 8 48 + place r.engine 7 41 + place r.tileSlots 9 32
  | 1 => place r.sqLog2 5 59 + place r.sqBase 42 6
  | 2 => place r.cqLog2 5 59 + place r.cqBase 42 6
  | 3 => place x.sqTail 16 48 + place x.sqHead 16 32 + place x.cqTail 16 16 + place x.cqHead 16 0
  | 4 => place r.watchSlots 16 48 + place r.watchBase 40 8
  | 5 => place r.paramBase 42 6
  | _ => 0

/-- Table 8.1. -/
def winRead (x : Window) (k : Nat) : Nat :=
  match k with
  | 0 => place (bit x.valid) 1 63 + place (bit x.flagged) 1 62 + place (bit x.refused) 1 61 + place x.chunk 4 48 +
      place x.owner 8 40 + place x.size 29 0
  | 1 => place x.base 36 12
  | 2 => place x.flags 42 6
  | _ => place x.grants 48 0

/-- Table 14.1. -/
def pdRead (x : PdEntry) (k : Nat) : Nat :=
  if k = 0 then
    place (bit x.valid) 1 63 + place (bit x.ctxAdm) 1 62 + place (bit x.ribbon) 1 61 + place (bit x.refused) 1 60
  else 0

/-- ENABLE as software reads it: an enable held during a flush reads 1 (R160). -/
def InlineWin.enabled (x : InlineWin) : Bool := x.enable || x.heldEnable

/-- Table 8.2. -/
def inlRead (x : InlineWin) (k : Nat) : Nat :=
  let r := x.reg
  match k with
  | 0 => place (bit x.enabled) 1 63 + place (bit x.active) 1 62 + place (bit x.flushing) 1 60 +
      place (bit x.refused) 1 59 + place (bit r.initSt) 1 58 + place (bit r.sharedRd) 1 57 + place r.stack 4 52 +
      place r.view 2 50 + place r.pd 8 40
  | 1 => place r.vbase 36 12
  | 2 => place r.vlen 40 0
  | 3 => place r.pbase 31 6
  | 4 => place r.format 64 0
  | 5 => place r.seed 64 0
  | 6 => place x.satCnt 40 0
  | _ => place (bit x.nonfin) 1 63 + place x.flushCnt 40 0

/-! ## The counter region (Tables 16.4 to 16.6) -/

def sampRead (c : SampCfg) (k : Nat) : Nat :=
  if k = 0 then place (bit c.on) 1 63 + place (bit c.ctxOn) 1 62 + place c.slotLog2 4 56 + place c.base 40 8
  else place c.ctxBase 40 8

/-- Table 16.6. -/
def linkRead (l : Link) (k : Nat) : Nat :=
  let c := l.cnt
  let j := l.job l.jobSel
  match k with
  | 0 => c.txFrames % 2 ^ 64
  | 1 => c.rxFrames % 2 ^ 64
  | 2 => c.txBytes % 2 ^ 64
  | 3 => c.rxBytes % 2 ^ 64
  | 4 => c.retx % 2 ^ 64
  | 5 => place c.nakTx 32 32 + place c.nakRx 32 0
  | 6 => place c.dropFcs 32 32 + place c.dropHdr 32 0
  | 7 => place c.dropAddr 32 32 + place c.stale 32 0
  | 8 => place c.proto 32 32 + place c.dup 32 0
  | 9 => place c.lost 32 32 + place c.holdDrop 32 0
  | 10 => place c.cpause 32 32
  | 11 => place l.jobSel 12 0
  | 12 => place j.rescales 40 0
  | 13 => j.tx % 2 ^ 64
  | 14 => j.rx % 2 ^ 64
  | _ => 0

/-! ## The trace region (Table 16.9) -/

def traceRead (t : Trace) (k : Nat) : Nat :=
  match k with
  | 0 => place (bit t.on) 1 63 + place (bit t.mode) 1 62 + place (bit t.wrap) 1 61 + place t.segLog2 5 56 +
      place t.base 36 12 + place t.mask 8 0
  | 1 => place t.engMask 64 0
  | 2 => place (t.engMask / 2 ^ 64) 32 32 + place (t.engMask / 2 ^ 96) 32 0
  | 3 => place t.budgetDrop 32 32 + place t.mergeDrop 32 0
  | 4 => place (bit t.hold) 1 63 + place (bit t.cutBusy) 1 60 + place (bit t.cutDone) 1 59 + place t.lastTag 8 51
  | 5 => t.cutTime % 2 ^ 64
  | _ => 0

/-! ## Reads -/

/-- What a word of the aperture reads as. -/
def regRead (s : State) (r : Reg) : Nat :=
  match r with
  | .glob k => globRead s k
  | .eng e k => engRead s e k
  | .ctx c k => ctxRead (s.ctx c) k
  | .win w k => winRead (s.win w) k
  | .pd d k => pdRead (s.pdt d) k
  | .inl i k => inlRead (s.inl i) k
  | .sampcfg k => sampRead s.samp k
  | .aggctl => place (bit s.samp.busy) 1 62
  | .agg k => leAt s.samp.agg (8 * k) 8
  | .link m k => linkRead (s.link m) k
  | .trace k => traceRead s.trace k
  | .none => 0

/-- A read clears the RC fields of its word (R5, R355). -/
def regClear (s : State) (r : Reg) : State :=
  match r with
  | .glob 7 => { s with dbDrop := 0 }
  | .glob 13 => { s with err := { s.err with drop := 0 } }
  | .glob 16 => { s with err := { s.err with trans := 0 } }
  | .eng e 3 =>
    if s.pins.fabRstN && (s.eng e).st != .off then s.modEng e (fun x => { x with flagViol := 0 }) else s
  | .inl i 6 => s.modInl i (fun x => { x with satCnt := 0 })
  | .inl i 7 => s.modInl i (fun x => { x with nonfin := false, flushCnt := 0 })
  | .trace 3 => { s with trace := { s.trace with budgetDrop := 0, mergeDrop := 0 } }
  | _ => s

/-- A read of the set-up aperture, with response code OK (R351, R354). While AON_PG is low the package answers. -/
def execRcRead (off : Nat) (s : State) : Host.Outcome State Fault Refusal :=
  .next (if s.pins.aonPg then (regClear s (regAt off)).out (.bus (regRead s (regAt off)) 0) else s)

end Sys2Proof.Machine
end

