-- ==== Sys2Proof/Machine/RegWrite.lean ====
section
/-! DEFINITION. Writes to the set-up aperture: the merge of enabled bytes (R355), the refusal and lock rules (R357, R358,
Table 18.6), and what each word's write starts. -/

namespace Sys2Proof.Machine

/-! ## Merging -/

/-- The word that a write leaves of a word that reads `old` (R355). -/
def merged (old : Nat) (v : Word64) (be : BitVec 8) : Nat := (mergeBytes (BitVec.ofNat 64 old) v be).toNat

/-- The bits of pulse fields that a write sets: bytes not enabled count as zero. -/
def pulses (v : Word64) (be : BitVec 8) : Nat := merged 0 v be

/-! ## The window table (R144, R282, R357) -/

/-- A write of a reserved bit of Table 8.1. -/
def winReserved (k m : Nat) : Bool :=
  match k with
  | 0 => bits m 60 52 != 0 || bits m 39 29 != 0
  | 1 => bits m 63 48 != 0 || bits m 11 0 != 0
  | 2 => bits m 63 48 != 0 || bits m 5 0 != 0
  | _ => bits m 63 48 != 0 || (List.range 4).any (fun g => bitAt m (12 * g + 3))

/-- The entry with a word's fields taken from `m`. -/
def winSet (x : Window) (k m : Nat) : Window :=
  match k with
  | 0 => { x with valid := bitAt m 63, flagged := bitAt m 62, chunk := bits m 51 48, owner := bits m 47 40, size := bits m 28 0 }
  | 1 => { x with base := bits m 47 12 }
  | 2 => { x with flags := bits m 47 6 }
  | _ => { x with grants := bits m 47 0 }

/-- FLAGGED, CHUNK, SIZE, BASE and FLAGS are the same. -/
def sameGeometry (a b : Window) : Bool :=
  a.flagged == b.flagged && a.chunk == b.chunk && a.size == b.size && a.base == b.base && a.flags == b.flags

/-- Bytes of a flag array (R146). -/
def Window.flagBytes (w : Window) : Nat := 4 * ceilDiv w.chunks 8

/-- The checks of R144 on an entry that becomes VALID. -/
def windowOk (s : State) (x : Window) : Bool :=
  decide (x.chunk ≤ 8) && decide (1 ≤ x.size) && decide (x.size ≤ 0x10000000) && s.backed x.addr x.bytes &&
    (!x.flagged || s.backed (x.flags * 64) x.flagBytes)

/-- A write of word `k` of a window entry. -/
def winWrite (s : State) (w k : Nat) (v : Word64) (be : BitVec 8) : State :=
  let x := s.win w
  let m := merged (winRead x k) v be
  let y := winSet x k m
  let bad := winReserved k m || (x.valid && y.valid && !sameGeometry x y) || (!x.valid && y.valid && !windowOk s y)
  if bad then s.setWin w { x with refused := true }
  else
    let s := s.setWin w { y with refused := false }
    if k = 0 || k = 3 then raiseEpoch s else s

/-! ## The PD table (R278, R282) -/

/-- A write of word `k` of a PD entry; an edit of VALID is remembered for the inline paths that have not adopted its
epoch (R285). -/
def pdWordWrite (s : State) (d k : Nat) (v : Word64) (be : BitVec 8) : State :=
  let x := s.pdt d
  let m := merged (pdRead x k) v be
  if (if k = 0 then bits m 59 0 else m) ≠ 0 then s.setPd d { x with refused := true }
  else
    let y : PdEntry := if k = 0 then { valid := bitAt m 63, ctxAdm := bitAt m 62, ribbon := bitAt m 61 }
      else { x with refused := false }
    let s := raiseEpoch (s.setPd d y)
    if x.valid = y.valid then s else { s with pdHist := s.pdHist ++ [(s.epoch, d, x.valid)] }

/-! ## The inline window table (R155, R160, R357, R363) -/

/-- A write of a reserved RW bit of Table 8.2, those of the format word included (R43, R44). -/
def inlReserved (k m : Nat) : Bool :=
  match k with
  | 0 => bitAt m 56 || bits m 49 48 != 0 || bits m 39 0 != 0
  | 1 => bits m 63 48 != 0 || bits m 11 0 != 0
  | 2 => bits m 63 40 != 0
  | 3 => bits m 63 37 != 0 || bits m 5 0 != 0
  | 4 => bits m 41 24 != 0
  | _ => false

def inlSet (x : InlineSet) (k m : Nat) : InlineSet :=
  match k with
  | 0 => { x with initSt := bitAt m 58, sharedRd := bitAt m 57, stack := bits m 55 52, view := bits m 51 50, pd := bits m 47 40 }
  | 1 => { x with vbase := bits m 47 12 }
  | 2 => { x with vlen := bits m 39 0 }
  | 3 => { x with pbase := bits m 36 6 }
  | 4 => { x with format := bits m 63 0 }
  | 5 => { x with seed := bits m 63 0 }
  | _ => x

/-- ENABLE goes from 0 to 1 with the fields `r`: held while a flush is in progress, else checked (R155, R160). -/
def inlTurnOn (s : State) (i : Nat) (r : InlineSet) : State :=
  let x := s.inl i
  if x.flushing then s.setInl i { x with reg := r, refused := false, heldEnable := true }
  else if s.inlineOk i r then (s.setInl i { x with reg := r, refused := false }).inlineEnable i
  else s.setInl i { x with refused := true }

/-- ENABLE goes from 1 to 0: a held enable is given up, an enabled window flushes (R160). -/
def inlTurnOff (s : State) (i : Nat) (r : InlineSet) : State :=
  let x := s.inl i
  let s := s.setInl i { x with reg := r, refused := false, heldEnable := false }
  if x.enable then s.inlineDisable i else s

/-- A write of word `k` of an inline window entry. -/
def inlWrite (s : State) (i k : Nat) (v : Word64) (be : BitVec 8) : State :=
  let x := s.inl i
  let m := merged (inlRead x k) v be
  let r := inlSet x.reg k m
  let on := if k = 0 then bitAt m 63 else x.enabled
  if inlReserved k m || (x.enabled && on && r != x.reg) then s.setInl i { x with refused := true }
  else if x.enabled && !on then inlTurnOff s i r
  else if !x.enabled && on then inlTurnOn s i r
  else
    let s := s.setInl i { x with reg := r, refused := false }
    if k = 0 && bitAt (pulses v be) 61 then s.flushStart i else s

/-! ## The context set-up table (R166 to R168, R357) -/

/-- A write of a reserved RW bit of Table 9.1. -/
def ctxReserved (k m : Nat) : Bool :=
  match k with
  | 0 => bits m 59 56 != 0 || bits m 31 0 != 0
  | 1 => bits m 58 48 != 0 || bits m 5 0 != 0
  | 2 => bits m 58 48 != 0 || bits m 5 0 != 0
  | 3 => false
  | 4 => bits m 7 0 != 0
  | 5 => bits m 63 48 != 0 || bits m 5 0 != 0
  | _ => m != 0

def ctxSet (x : CtxSet) (k m : Nat) : CtxSet :=
  match k with
  | 0 => { x with pd := bits m 55 48, engine := bits m 47 41, tileSlots := bits m 40 32 }
  | 1 => { x with sqLog2 := bits m 63 59, sqBase := bits m 47 6 }
  | 2 => { x with cqLog2 := bits m 63 59, cqBase := bits m 47 6 }
  | 4 => { x with watchSlots := bits m 63 48, watchBase := bits m 47 8 }
  | 5 => { x with paramBase := bits m 47 6 }
  | _ => x

/-- The checks of R166 on an entry. -/
def contextOk (s : State) (r : CtxSet) : Bool :=
  decide (6 ≤ r.sqLog2) && decide (r.sqLog2 ≤ 16) && decide (6 ≤ r.cqLog2) && decide (r.cqLog2 ≤ 16) &&
    !(s.eng r.engine).fenced && decide (r.tileSlots ≤ storeSlots r.engine) &&
    s.backed (r.sqBase * 64) (64 * r.sqSize) && s.backed (r.cqBase * 64) (32 * r.cqSize) &&
    s.backed (r.paramBase * 64) (256 * 1024) && s.backed (r.watchBase * 256) (256 * r.watchSlots)

/-- ENABLE goes from 0 to 1 with the fields `r`: held while the context is still resident (R168), else it waits for
residency (R167). -/
def ctxTurnOn (s : State) (c : Nat) (r : CtxSet) : State :=
  let x := s.ctx c
  if !contextOk s r then s.setCtx c { x with refused := true }
  else if x.resident then s.setCtx c { x with reg := r, refused := false, enable := true, reEnable := true }
  else enableCtx (s.setCtx c { x with reg := r, refused := false }) c

/-- A write of word `k` of a context entry. -/
def ctxWrite (s : State) (c k : Nat) (v : Word64) (be : BitVec 8) : State :=
  let x := s.ctx c
  let m := merged (ctxRead x k) v be
  let r := ctxSet x.reg k m
  let on := if k = 0 then bitAt m 63 else x.enable
  if ctxReserved k m || (x.enable && on && r != x.reg) then s.setCtx c { x with refused := true }
  else if x.enable && !on then disableCtx (s.setCtx c { x with reg := r, refused := false }) c
  else if !x.enable && on then ctxTurnOn s c r
  else s.setCtx c { x with reg := r, refused := false }

/-! ## The global block -/

/-- PWRCAP, ARBCFG and GROUPCFG: fields of their own, reserved bits ignored (R358). -/
def pwrWrite (s : State) (m : Nat) : State := { s with pwr := { s.pwr with capEn := bitAt m 63, cap := bits m 43 32 } }
def arbWrite (s : State) (m : Nat) : State := { s with coreWeight := bits m 7 0 }
def groupWrite (s : State) (m : Nat) : State := { s with groupBase := bits m 47 6 }

/-- The fields of domain word 0 other than JOIN. -/
def domSet (d : Domain) (m : Nat) : Domain :=
  { d with kname := bitAt m 60, kport := bits m 59 55, deviceId := bits m 46 32, domain := bits m 31 16, knamed := bits m 14 0 }

/-- A write of domain word 0 (R261 to R263). -/
def dom0Write (s : State) (m : Nat) : State :=
  let d := domSet s.dom m
  if s.dom.join then
    if bitAt m 63 then s
    else
      let s := leaveDomain s
      { s with dom := domSet s.dom m }
  else
    let t := { s with dom := d }
    if bitAt m 63 then (if (joinDomain t).dom.join then joinDomain t else s) else t

def dom1Write (s : State) (m : Nat) : State :=
  if s.dom.join then s else { s with dom := { s.dom with domtab := bits m 47 6 } }
def dom2Write (s : State) (m : Nat) : State := { s with dom := { s.dom with ticketStart := bits m 47 8 } }

/-- A write of ERRCFG word 0 (R299): locked while ERRON stays 1; a new ERRON starts the ring's first lap. -/
def err0Write (s : State) (m : Nat) : State :=
  let c := s.err
  if c.on && bitAt m 63 then s
  else
    let c := { c with on := bitAt m 63, log2 := bits m 60 56, base := bits m 47 6 }
    { s with err := if c.on then { c with tail := 0, head := 0, phase := true } else c }

def err1Write (s : State) (m : Nat) : State := { s with err := { s.err with head := bits m 47 32 } }

/-- A write of word `k` of the global block. -/
def globWrite (s : State) (k : Nat) (v : Word64) (be : BitVec 8) : State :=
  let m := merged (globRead s k) v be
  match k with
  | 1 => imgctlWrite s (pulses v be)
  | 2 => imgdataWrite s v.toNat (be == 0xFF)
  | 3 => pwrWrite s m
  | 5 => arbWrite s m
  | 6 => groupWrite s m
  | 8 => dom0Write s m
  | 9 => dom1Write s m
  | 10 => dom2Write s m
  | 12 => err0Write s m
  | 13 => err1Write s m
  | _ => s

/-! ## Engine blocks (R245, R339, R344, R345) -/

/-- The value that ENABLE takes: a 1 is ignored without an image, at a fenced engine, and while its rail is low. -/
def enableValue (s : State) (e : Nat) (want : Bool) : Bool :=
  let x := s.eng e
  if want && !x.enable then s.img.adopted.isSome && !x.fenced && railGood s e else want

/-- The value that LINKEN takes: a PE's, a 1 only in ON, with the rail good and the two priorities different. -/
def linkenValue (s : State) (e : Nat) (want : Bool) : Bool :=
  let x := s.eng e
  if want && !x.linkEn then
    isPe e && x.isOn && railGood s e && lcPrioData x.linkCfg != lcPrioCtrl x.linkCfg
  else want && isPe e

/-- A write of ENGCTL: the fields, then the engine state that ENABLE asks for. -/
def engctlWrite (s : State) (e m : Nat) : State :=
  let en := enableValue s e (bitAt m 63)
  let li := linkenValue s e (bitAt m 58)
  let s := s.modEng e (fun x => { x with enable := en, linkEn := li, freq := freqGrid (bits m 43 32) })
  let s := maybeQuiesce (maybeStart s e) e
  if isPe e then workLink (pump s (e - 96)) (e - 96) else s

/-- A write of LINKCFG: refused while LINKEN is 1; bit 32 is reserved. -/
def linkcfgWrite (s : State) (e m : Nat) : State :=
  if !isPe e || (s.eng e).linkEn then s else s.modEng e (fun x => { x with linkCfg := m - place (bits m 32 32) 1 32 })

/-- A write to an engine's block is ignored while FAB_RST_N is asserted (R359). -/
def engWrite (s : State) (e k : Nat) (v : Word64) (be : BitVec 8) : State :=
  let m := merged (engRead s e k) v be
  if !s.pins.fabRstN then s
  else match k with
    | 0 => engctlWrite s e m
    | 1 => linkcfgWrite s e m
    | _ => s

/-! ## The counter region (R321 to R323) -/

def sampcfgWrite (s : State) (k m : Nat) : State :=
  let c := s.samp
  if k = 0 then
    let c := { c with on := bitAt m 63, ctxOn := bitAt m 62
                      slotLog2 := if c.on && bitAt m 63 then c.slotLog2 else bits m 59 56
                      base := if c.on && bitAt m 63 then c.base else bits m 47 8 }
    { s with samp := c }
  else if c.ctxOn then s
  else { s with samp := { c with ctxBase := bits m 47 8 } }

/-- SNAP (R322): ignored while BUSY; else the engines add their counters as they stand. -/
def snapWrite (s : State) (m : Nat) : State :=
  if bitAt m 63 && !s.samp.busy then { s with samp := { s.samp with busy := true, sums := s.snapSums } } else s

def jobselWrite (s : State) (p m : Nat) : State := s.modLink p (fun l => { l with jobSel := bits m 11 0 })

/-! ## The trace region (R327, R334, R352, R363) -/

/-- TRON goes from 0 to 1: segments and port start afresh, and with MODE 1 the lanes train. -/
def traceStart (s : State) : State :=
  let t := s.trace
  let s := { s with trace := { t with
    since := [], checkSeq := 0, lanes := [0, 1, 2, 3], blocks := [0, 0, 0, 0]
    port := if t.mode then PortState.training else if t.port == PortState.closing then PortState.closing else .idle } }
  { s with engines := SMap.mapVals s.engines {} (fun x => { x with trFill := 0, trLost := 0 }) }

/-- TRON goes from 1 to 0: the records that the engines have emitted are sent, then the lanes return to electrical idle (R346,
R352; DEDUCED, log 101). -/
def traceStop (s : State) : State :=
  { s with trace := { s.trace with
    port := if s.trace.port == PortState.sending && !s.trace.queue.isEmpty then PortState.closing else .idle } }

/-- A write of trace word 0: while TRON stays 1, only TYPEMASK changes; its bits 0 and 7 are reserved. -/
def trace0Write (s : State) (m : Nat) : State :=
  let t := s.trace
  let mask := bits m 6 1 * 2
  if t.on && bitAt m 63 then { s with trace := { t with mask := mask } }
  else
    let u := { t with
      on := bitAt m 63, mode := bitAt m 62, wrap := bitAt m 61, segLog2 := bits m 60 56, base := bits m 47 12, mask := mask }
    let s := { s with trace := u }
    let s := if u.on then traceStart s else if t.on then traceStop s else s
    traceUnits s

/-- A write of the ENGMASK words, held as SE bits 0 to 95 then PE bits. -/
def engmaskWrite (s : State) (k m : Nat) : State :=
  let old := s.trace.engMask
  let new := if k = 1 then old / 2 ^ 64 * 2 ^ 64 + m % 2 ^ 64
    else old % 2 ^ 64 + bits m 63 32 * 2 ^ 64 + bits m 31 0 * 2 ^ 96
  traceUnits { s with trace := { s.trace with engMask := new } }

/-- A write of trace word 4: HOLD, and the pulse that ends a hold; both pulses act as STOPALL. -/
def trace4Write (s : State) (m p : Nat) : State :=
  let s := { s with trace := { s.trace with hold := bitAt m 63 } }
  if bitAt p 61 then stopHold s else if bitAt p 62 then releaseHold s else s

def traceWrite (s : State) (k : Nat) (v : Word64) (be : BitVec 8) : State :=
  let m := merged (traceRead s.trace k) v be
  match k with
  | 0 => trace0Write s m
  | 1 => engmaskWrite s 1 m
  | 2 => engmaskWrite s 2 m
  | 4 => trace4Write s m (pulses v be)
  | _ => s

/-! ## Any word -/

/-- A write to a word of the aperture; RO and RC words, and offsets that no table assigns, ignore it. -/
def regWrite (s : State) (r : Reg) (v : Word64) (be : BitVec 8) : State :=
  match r with
  | .glob k => globWrite s k v be
  | .eng e k => engWrite s e k v be
  | .ctx c k => ctxWrite s c k v be
  | .win w k => winWrite s w k v be
  | .pd d k => pdWordWrite s d k v be
  | .inl i k => inlWrite s i k v be
  | .sampcfg k => sampcfgWrite s k (merged (sampRead s.samp k) v be)
  | .aggctl => snapWrite s (pulses v be)
  | .agg _ => s
  | .link p k => if k = 11 then jobselWrite s p (merged (linkRead (s.link p) k) v be) else s
  | .trace k => traceWrite s k v be
  | .none => s

/-- A write request on the control bus (R351, R355): no effect with no byte enabled; the response is OK. While AON_PG is
low the package drops it. -/
def busWrite (s : State) (r : Reg) (v : Word64) (be : BitVec 8) : State :=
  if !s.pins.aonPg then s else (if be = 0 then s else regWrite s r v be).out (.bus 0 0)

end Sys2Proof.Machine
end

