-- ==== Sys2Proof/Machine/Setup.lean ====
section
/-! DEFINITION. The rows of the opcode table that are writes of the set-up aperture: each is the write of its own word,
and what the write starts is decided by the word that results (R355 to R357). -/

namespace Sys2Proof.Machine

/-! ## Window and PD tables -/

def execWindowDefine (w : Nat) (v : Word64) (be : BitVec 8) (s : State) : Host.Outcome State Fault Refusal :=
  .next (busWrite s (.win w 0) v be)
def execWindowWithdraw (w : Nat) (v : Word64) (be : BitVec 8) (s : State) : Host.Outcome State Fault Refusal :=
  .next (busWrite s (.win w 0) v be)
def execWindowEdit (w word : Nat) (v : Word64) (be : BitVec 8) (s : State) : Host.Outcome State Fault Refusal :=
  .next (busWrite s (.win w word) v be)
def execPdWrite (d word : Nat) (v : Word64) (be : BitVec 8) (s : State) : Host.Outcome State Fault Refusal :=
  .next (busWrite s (.pd d word) v be)

/-! ## Inline windows -/

def execInlineEnable (i : Nat) (v : Word64) (be : BitVec 8) (s : State) : Host.Outcome State Fault Refusal :=
  .next (busWrite s (.inl i 0) v be)
def execInlineDisable (i : Nat) (v : Word64) (be : BitVec 8) (s : State) : Host.Outcome State Fault Refusal :=
  .next (busWrite s (.inl i 0) v be)
def execFlush (i : Nat) (v : Word64) (be : BitVec 8) (s : State) : Host.Outcome State Fault Refusal :=
  .next (busWrite s (.inl i 0) v be)

/-! ## Contexts -/

def execContextEnable (c : Nat) (v : Word64) (be : BitVec 8) (s : State) : Host.Outcome State Fault Refusal :=
  .next (busWrite s (.ctx c 0) v be)
def execContextDisable (c : Nat) (v : Word64) (be : BitVec 8) (s : State) : Host.Outcome State Fault Refusal :=
  .next (busWrite s (.ctx c 0) v be)

/-! ## The global block -/

def execDomainJoin (v : Word64) (be : BitVec 8) (s : State) : Host.Outcome State Fault Refusal :=
  .next (busWrite s (.glob 8) v be)
def execDomainLeave (v : Word64) (be : BitVec 8) (s : State) : Host.Outcome State Fault Refusal :=
  .next (busWrite s (.glob 8) v be)
def execErron (v : Word64) (be : BitVec 8) (s : State) : Host.Outcome State Fault Refusal :=
  .next (busWrite s (.glob 12) v be)
def execLoad (v : Word64) (be : BitVec 8) (s : State) : Host.Outcome State Fault Refusal :=
  .next (busWrite s (.glob 1) v be)
def execImgdata (v : Word64) (be : BitVec 8) (s : State) : Host.Outcome State Fault Refusal :=
  .next (busWrite s (.glob 2) v be)
def execCommit (v : Word64) (be : BitVec 8) (s : State) : Host.Outcome State Fault Refusal :=
  .next (busWrite s (.glob 1) v be)

/-! ## Engine blocks -/

def execEngineEnable (e : Nat) (v : Word64) (be : BitVec 8) (s : State) : Host.Outcome State Fault Refusal :=
  .next (busWrite s (.eng e 0) v be)
def execEngineDisable (e : Nat) (v : Word64) (be : BitVec 8) (s : State) : Host.Outcome State Fault Refusal :=
  .next (busWrite s (.eng e 0) v be)
def execLinken (pe : Nat) (v : Word64) (be : BitVec 8) (s : State) : Host.Outcome State Fault Refusal :=
  .next (busWrite s (.eng (peEng pe) 0) v be)
def execFreq (e : Nat) (v : Word64) (be : BitVec 8) (s : State) : Host.Outcome State Fault Refusal :=
  .next (busWrite s (.eng e 0) v be)

/-! ## Counters, trace and the ribbon's hold -/

def execSnap (v : Word64) (be : BitVec 8) (s : State) : Host.Outcome State Fault Refusal :=
  .next (busWrite s .aggctl v be)
def execTraceOn (v : Word64) (be : BitVec 8) (s : State) : Host.Outcome State Fault Refusal :=
  .next (busWrite s (.trace 0) v be)
def execTraceOff (v : Word64) (be : BitVec 8) (s : State) : Host.Outcome State Fault Refusal :=
  .next (busWrite s (.trace 0) v be)
def execRelease (v : Word64) (be : BitVec 8) (s : State) : Host.Outcome State Fault Refusal :=
  .next (busWrite s (.trace 4) v be)
def execStopall (v : Word64) (be : BitVec 8) (s : State) : Host.Outcome State Fault Refusal :=
  .next (busWrite s (.trace 4) v be)

/-! ## Any other word -/

/-- A write request at a byte offset of the aperture; one with bad parity is discarded (R347). -/
def execRegisterWrite (parityOk : Bool) (off : Nat) (v : Word64) (be : BitVec 8) (s : State) :
    Host.Outcome State Fault Refusal :=
  .next (if s.pins.aonPg && !parityOk then busParity s else busWrite s (regAt off) v be)

end Sys2Proof.Machine
end

