-- ==== Sys2Proof/Machine/Dispatch.lean ====
section
/-! DEFINITION. The dispatch: one arm per row of the opcode table, each one call of that row's meaning. -/

namespace Sys2Proof.Machine

/-- The effect of a command on everything but the queue. -/
def exec (i : Instr) (s : State) : Host.Outcome State Fault Refusal :=
  match i with
  | .convert c => Sys2Proof.Machine.execConvert c s
  | .quantise c => Sys2Proof.Machine.execQuantise c s
  | .dequantise c => Sys2Proof.Machine.execDequantise c s
  | .rotate c => Sys2Proof.Machine.execRotate c s
  | .fold c => Sys2Proof.Machine.execFold c s
  | .reduce c => Sys2Proof.Machine.execReduce c s
  | .stats c => Sys2Proof.Machine.execStats c s
  | .sample c => Sys2Proof.Machine.execSample c s
  | .fillRandom c => Sys2Proof.Machine.execFillRandom c s
  | .recipe c => Sys2Proof.Machine.execRecipe c s
  | .collective c => Sys2Proof.Machine.execCollective c s
  | .rebond c => Sys2Proof.Machine.execRebond c s
  | .ticketLease c => Sys2Proof.Machine.execTicketLease c s
  | .signature c => Sys2Proof.Machine.execSignature c s
  | .fence c => Sys2Proof.Machine.execFence c s
  | .ribbon c => Sys2Proof.Machine.execRibbon c s
  | .saveContext c => Sys2Proof.Machine.execSaveContext c s
  | .restoreContext c => Sys2Proof.Machine.execRestoreContext c s
  | .drain c => Sys2Proof.Machine.execDrain c s
  | .nop c => Sys2Proof.Machine.execNop c s
  | .descriptorFetch c => Sys2Proof.Machine.execDescriptorFetch c s
  | .stripIssue c det => Sys2Proof.Machine.execStripIssue c det s
  | .flagPoll c seq word => Sys2Proof.Machine.execFlagPoll c seq word s
  | .chunkDone c seq win chunk => Sys2Proof.Machine.execChunkDone c seq win chunk s
  | .drainExchange c step => Sys2Proof.Machine.execDrainExchange c step s
  | .outputStage c step => Sys2Proof.Machine.execOutputStage c step s
  | .completionWrite c seq => Sys2Proof.Machine.execCompletionWrite c seq s
  | .contextResident e => Sys2Proof.Machine.execContextResident e s
  | .contextImageWrite c seq => Sys2Proof.Machine.execContextImageWrite c seq s
  | .doorbell isWrite parityOk off size value => Sys2Proof.Machine.execDoorbell isWrite parityOk off size value s
  | .inlineRead parityOk parts addr who len => Sys2Proof.Machine.execInlineRead parityOk parts addr who len s
  | .inlineWrite parityOk parts addr who data => Sys2Proof.Machine.execInlineWrite parityOk parts addr who data s
  | .merge se w block part => Sys2Proof.Machine.execMerge se w block part s
  | .inlineActivate w => Sys2Proof.Machine.execInlineActivate w s
  | .stackResponse e r st => Sys2Proof.Machine.execStackResponse e r st s
  | .networkResponse e r st data => Sys2Proof.Machine.execNetworkResponse e r st data s
  | .data pe f => Sys2Proof.Machine.execData pe f s
  | .ack pe f => Sys2Proof.Machine.execAck pe f s
  | .nak pe f => Sys2Proof.Machine.execNak pe f s
  | .credit pe f => Sys2Proof.Machine.execCredit pe f s
  | .announce pe f => Sys2Proof.Machine.execAnnounce pe f s
  | .abort pe f => Sys2Proof.Machine.execAbort pe f s
  | .heartbeat pe f => Sys2Proof.Machine.execHeartbeat pe f s
  | .leaseReq pe f => Sys2Proof.Machine.execLeaseReq pe f s
  | .leaseGrant pe f => Sys2Proof.Machine.execLeaseGrant pe f s
  | .mark pe f => Sys2Proof.Machine.execMark pe f s
  | .markAck pe f => Sys2Proof.Machine.execMarkAck pe f s
  | .join pe f => Sys2Proof.Machine.execJoin pe f s
  | .joined pe f => Sys2Proof.Machine.execJoined pe f s
  | .elected pe f => Sys2Proof.Machine.execElected pe f s
  | .bucketIssue c seq => Sys2Proof.Machine.execBucketIssue c seq s
  | .chainStart c seq chain => Sys2Proof.Machine.execChainStart c seq chain s
  | .heartbeatTimer pe dev => Sys2Proof.Machine.execHeartbeatTimer pe dev s
  | .declareLost pe dev => Sys2Proof.Machine.execDeclareLost pe dev s
  | .lostProbe pe dev => Sys2Proof.Machine.execLostProbe pe dev s
  | .ackTimer pe job ticket src => Sys2Proof.Machine.execAckTimer pe job ticket src s
  | .creditDelay pe job ticket src => Sys2Proof.Machine.execCreditDelay pe job ticket src s
  | .creditRepeat pe job ticket src => Sys2Proof.Machine.execCreditRepeat pe job ticket src s
  | .retransmitTimeout pe job ticket dst => Sys2Proof.Machine.execRetransmitTimeout pe job ticket dst s
  | .joinRetry => Sys2Proof.Machine.execJoinRetry s
  | .leaseRetry c seq => Sys2Proof.Machine.execLeaseRetry c seq s
  | .leaseTimeout c seq => Sys2Proof.Machine.execLeaseTimeout c seq s
  | .linkDown pe => Sys2Proof.Machine.execLinkDown pe s
  | .linkUp pe => Sys2Proof.Machine.execLinkUp pe s
  | .pauseIn pe prio on => Sys2Proof.Machine.execPauseIn pe prio on s
  | .selfTestStart e unit quire => Sys2Proof.Machine.execSelfTestStart e unit quire s
  | .selfTestEnd e unit quire pass pattern us => Sys2Proof.Machine.execSelfTestEnd e unit quire pass pattern us s
  | .samplePoint e => Sys2Proof.Machine.execSamplePoint e s
  | .powerCapPeriod => Sys2Proof.Machine.execPowerCapPeriod s
  | .clockChange e => Sys2Proof.Machine.execClockChange e s
  | .watchIdleTimeout e => Sys2Proof.Machine.execWatchIdleTimeout e s
  | .tracePortTraining => Sys2Proof.Machine.execTracePortTraining s
  | .aggregateRecord => Sys2Proof.Machine.execAggregateRecord s
  | .ribbonGrant => Sys2Proof.Machine.execRibbonGrant s
  | .ribbonMarker e => Sys2Proof.Machine.execRibbonMarker e s
  | .cutCapture e => Sys2Proof.Machine.execCutCapture e s
  | .epochDelivery e => Sys2Proof.Machine.execEpochDelivery e s
  | .epochDoneRise => Sys2Proof.Machine.execEpochDoneRise s
  | .islandPowerGood e => Sys2Proof.Machine.execIslandPowerGood e s
  | .pllLock e => Sys2Proof.Machine.execPllLock e s
  | .sramClearDone e => Sys2Proof.Machine.execSramClearDone e s
  | .bootSelfTestEnd e pass unit quire pattern us => Sys2Proof.Machine.execBootSelfTestEnd e pass unit quire pattern us s
  | .quiesceEnd e => Sys2Proof.Machine.execQuiesceEnd e s
  | .windowDefine w v be => Sys2Proof.Machine.execWindowDefine w v be s
  | .windowWithdraw w v be => Sys2Proof.Machine.execWindowWithdraw w v be s
  | .windowEdit w word v be => Sys2Proof.Machine.execWindowEdit w word v be s
  | .pdWrite d word v be => Sys2Proof.Machine.execPdWrite d word v be s
  | .inlineEnable w v be => Sys2Proof.Machine.execInlineEnable w v be s
  | .inlineDisable w v be => Sys2Proof.Machine.execInlineDisable w v be s
  | .flush w v be => Sys2Proof.Machine.execFlush w v be s
  | .contextEnable c v be => Sys2Proof.Machine.execContextEnable c v be s
  | .contextDisable c v be => Sys2Proof.Machine.execContextDisable c v be s
  | .domainJoin v be => Sys2Proof.Machine.execDomainJoin v be s
  | .domainLeave v be => Sys2Proof.Machine.execDomainLeave v be s
  | .erron v be => Sys2Proof.Machine.execErron v be s
  | .load v be => Sys2Proof.Machine.execLoad v be s
  | .imgdata v be => Sys2Proof.Machine.execImgdata v be s
  | .commit v be => Sys2Proof.Machine.execCommit v be s
  | .engineEnable e v be => Sys2Proof.Machine.execEngineEnable e v be s
  | .engineDisable e v be => Sys2Proof.Machine.execEngineDisable e v be s
  | .linken pe v be => Sys2Proof.Machine.execLinken pe v be s
  | .freq e v be => Sys2Proof.Machine.execFreq e v be s
  | .snap v be => Sys2Proof.Machine.execSnap v be s
  | .traceOn v be => Sys2Proof.Machine.execTraceOn v be s
  | .traceOff v be => Sys2Proof.Machine.execTraceOff v be s
  | .release v be => Sys2Proof.Machine.execRelease v be s
  | .stopall v be => Sys2Proof.Machine.execStopall v be s
  | .rcRead off => Sys2Proof.Machine.execRcRead off s
  | .registerWrite parityOk off v be => Sys2Proof.Machine.execRegisterWrite parityOk off v be s
  | .testAccessWrite e sel v => Sys2Proof.Machine.execTestAccessWrite e sel v s
  | .aonRstAssert => Sys2Proof.Machine.execAonRstAssert s
  | .aonRstRelease stable => Sys2Proof.Machine.execAonRstRelease stable s
  | .aonPgRise => Sys2Proof.Machine.execAonPgRise s
  | .fabRstAssert => Sys2Proof.Machine.execFabRstAssert s
  | .fabRstRelease => Sys2Proof.Machine.execFabRstRelease s
  | .vddFabPgLow d => Sys2Proof.Machine.execVddFabPgLow d s
  | .vddFabPgHigh d => Sys2Proof.Machine.execVddFabPgHigh d s
  | .vddAonPgLow => Sys2Proof.Machine.execVddAonPgLow s
  | .vddAonPgHigh => Sys2Proof.Machine.execVddAonPgHigh s
  | .watchStartingEnd e => Sys2Proof.Machine.execWatchStartingEnd e s

end Sys2Proof.Machine
end

