-- ==== Sys2Proof/Safety.lean ====
section
/-! DEFINITION. What a safe step and a safe run are, and the words that statements use: memory in its canonical form, bytes
that stay as they were, and the part of the state that only set-up writes change. -/

namespace Sys2Proof.Machine

/-- Memory is in its canonical form. -/
abbrev MemOk (s : State) : Prop := Memory.wf s.mem = true

/-- A step is safe: it answers a next state, and memory keeps its canonical form. -/
def SafeStep (s : State) : Prop := ∃ t, step s = .next t ∧ MemOk t

/-- A run of `n` steps is safe: each of them is. -/
def SafeRun : Nat → State → Prop
  | 0, s => MemOk s
  | n + 1, s => MemOk s ∧ ∃ t, step s = .next t ∧ SafeRun n t

/-- Every byte of memory reads in `t` as it did in `s`. -/
def SameMem (s t : State) : Prop := ∀ a, Mem.byteAt t.mem a = Mem.byteAt s.mem a

/-- Every byte outside the `n` bytes from `a` reads in `t` as it did in `s`. -/
def MemBut (s t : State) (a n : Nat) : Prop :=
  ∀ b, (∀ k, k < n → devAddr b ≠ devAddr (a + k)) → Mem.byteAt t.mem b = Mem.byteAt s.mem b

/-- What software sets up is the same: pins, image, power, domain words, windows, PDs, inline windows, sampling and trace
set-up, and the time. -/
structure SameSetup (s t : State) : Prop where
  pins : t.pins = s.pins
  time : t.time = s.time
  img : t.img = s.img
  pwr : t.pwr = s.pwr
  epoch : t.epoch = s.epoch
  coreWeight : t.coreWeight = s.coreWeight
  groupBase : t.groupBase = s.groupBase
  dom : t.dom = s.dom
  windows : t.windows = s.windows
  pds : t.pds = s.pds
  inlines : t.inlines = s.inlines
  samp : t.samp = s.samp
  testRegs : t.testRegs = s.testRegs

/-- From `s` to `t` at most links, outputs and what trace records touch have changed; with the trace off, the links and outputs
alone have. -/
structure SendOnly (s t : State) : Prop where
  setup : SameSetup s t
  ctxs : t.ctxs = s.ctxs
  err : t.err = s.err
  waitQ : t.waitQ = s.waitQ
  epochDone : t.epochDone = s.epochDone
  ribbons : t.trace.ribbons = s.trace.ribbons
  on : t.trace.on = s.trace.on
  quiet : s.trace.on = false → t.mem = s.mem ∧ t.engines = s.engines ∧ t.trace = s.trace

/-- From `s` to `t` the descriptors of context `c` may have met endings (R184), and frames may have gone out. -/
structure EndsOnly (c : Nat) (s t : State) : Prop where
  setup : SameSetup s t
  err : t.err = s.err
  waitQ : t.waitQ = s.waitQ
  epochDone : t.epochDone = s.epochDone
  ribbons : t.trace.ribbons = s.trace.ribbons
  on : t.trace.on = s.trace.on
  quiet : s.trace.on = false → t.mem = s.mem ∧ t.engines = s.engines ∧ t.trace = s.trace
  other : ∀ x, x ≠ c → t.ctx x = s.ctx x
  own : ∃ l, t.ctx c = { s.ctx c with descs := l }

/-- A descriptor as it stands once admission has passed its checks (R181, R283). -/
def admittedAs (d : Desc) (par : List Nat) (epoch : Nat) : Desc :=
  { d with par := par, admitted := true, tag := epoch, early := false, status := none }

/-- Descriptor `d` of context `c` is the next that may be admitted; `s1` is the state once its parameter block `par` is
read; no tile region holds it back, and every check of R181 passes. -/
abbrev Admits (s : State) (c op : Nat) (d : Desc) (s1 : State) (par : List Nat) : Prop :=
  nextAdmit s c = some d ∧ d.op = op ∧ loadParam s c d = some (s1, par) ∧
    tilesWait ((s.ctx c).descs.takeWhile (fun x => x.seq != d.seq)) { d with par := par } = false ∧
    Desc.check s1 { d with par := par } c d.seq {} = none

/-- Every chunk of the ranges is already held CLAIMED by the descriptor, which has accessed it. -/
abbrev HeldAll (s : State) (d : Desc) (l : List Acc) : Prop :=
  ∀ a ∈ l, ∀ k ∈ accChunks s a, d.phaseOf a.win k = some phCLAIMED ∧ d.touched a.win k = true

/-- A write of the set-up aperture reaches its word: AON_PG is high and some byte is enabled (R351, R355). -/
abbrev BusTakes (s : State) (be : BitVec 8) : Prop := s.pins.aonPg = true ∧ be ≠ 0

/-- The control bus has answered with response OK. -/
def busOk (s : State) : State := s.out (.bus 0 0)

/-- What PE `p` presents to its MAC for a frame: the priority of its class and its bytes (R243, R250). -/
def frameOut (s : State) (p : Nat) (f : Frame) : Output :=
  .frame p (framePrio (s.eng (peEng p)).linkCfg f.hdr) (frameBytes s p f) f

/-- A control frame without payload of this device: type, destination, and no other field. -/
def ctrlHdr (s : State) (ty dst : Nat) : FrameHdr :=
  { version := 1, ftype := ty, domain := s.dom.domain, src := s.dom.deviceId, dst := dst }

/-- The output is a request at the boundary (Tables 17.8 and 17.9). -/
def Output.isRequest : Output → Bool
  | .request .. => true
  | _ => false

/-- PE `p` takes notice of a frame of type `ty`: its link interface runs, the engine is not fenced, and in a ribbon hold the
frame is a HEARTBEAT (R333). -/
abbrev Hears (s : State) (p ty : Nat) : Prop :=
  p < 32 ∧ linkLive s p = true ∧ (s.eng (peEng p)).fenced = false ∧ ((s.eng (peEng p)).holding = true → ty = 6)

/-- A frame counts with the FCS errors: its FCS or the parity of a beat is bad (R249, R347), or its UDP checksum (log 96). -/
def fcsBad (s : State) (p : Nat) (f : RxFrame) : Bool :=
  f.fcsErr || !f.parityOk || (lcEncap (s.eng (peEng p)).linkCfg && !f.udpOk)

/-- PE `p` accepts a frame of type `ty`: none of the drops of R249 applies. -/
abbrev Accepts (s : State) (p ty : Nat) (f : RxFrame) : Prop :=
  Hears s p ty ∧ f.frame.hdr.ftype = ty ∧ fcsBad s p f = false ∧ protoOk s p f = true ∧
    f.frame.hdr.version = 1 ∧ f.frame.hdr.domain = s.dom.domain ∧ f.frame.hdr.dst = s.dom.deviceId ∧
    memberValid s f.frame.hdr.src = true

/-- The state once an accepted control frame has arrived: its sender is no longer lost (R259), a RECV record asked for is out,
and the frame stands in the control receive queue (R250). -/
def heard (s : State) (p : Nat) (f : RxFrame) : State :=
  enterCtl (traceFrame (s.modLink p (fun l => { l with lost := l.lost.filter (· ≠ f.frame.hdr.src) })) (peEng p) f.frame.hdr
    true false) p

end Sys2Proof.Machine
end

