-- ==== Sys2Proof/Certificates/Slice0/Obligations.lean ====
section
/-! DEFINITION. The statements for the provers, in the order of the spec's chapters. Each docstring names the rule that
its statement formalises, or the log entry of the model's choice that it rests on. -/

open Sys2Proof Sys2Proof.Machine

/-! ## The queue, the tick, and what every command keeps -/

/-- A step with a command at the front of the queue is that command's effect, with the rest of the queue. -/
def Obligations.StepRunsFront : Prop :=
  ∀ (c : Instr) (rest : List Instr) (s : State),
    step { s with pending := c :: rest } = exec c { s with pending := rest }

/-- With nothing waiting the block idles for a nanosecond (log 5): the time rises by one while the always-on island runs,
and nothing changes while AON_RST_N is asserted. -/
def Obligations.IdleTick : Prop :=
  (∀ s : State, s.pending = [] → (s.pins.aonRstN && s.pins.vddAon) = false → step s = .next s) ∧
  (∀ s : State, s.pending = [] → (s.pins.aonRstN && s.pins.vddAon) = true → s.engines = [] → s.trace.port = .idle →
    step s = .next { s with time := (s.time + 1) % 2 ^ 64 })

/-- From every state whose memory is in its canonical form a step answers a next state, and memory is in that form again.
-/
def Obligations.EveryStepIsSafe : Prop := ∀ s : State, MemOk s → SafeStep s

/-- No command changes the queue, the device map or the inline aperture: the queue is the model's own (log 21), and the map
and the aperture are the package's, fixed as the model chose them (log 2). -/
def Obligations.QueueAndMapsKept : Prop :=
  ∀ (c : Instr) (s t : State), exec c s = .next t →
    t.pending = s.pending ∧ t.devMap = s.devMap ∧ t.apBase = s.apBase ∧ t.apSize = s.apSize

/-- What reset leaves: memory in its canonical form, the epoch 0, every engine OFF with FREQ 800, ERRON 0, JOIN 0, no
image, every window and PD invalid, every context and inline window not enabled, TYPEMASK 0 (Tables 8.1, 8.2, 9.1, 14.1,
15.2, 16.9, 17.1, 17.4: their Reset columns). -/
def Obligations.ResetValues : Prop :=
  MemOk State.reset ∧ State.reset.pending = [] ∧ State.reset.epoch = 0 ∧ State.reset.err.on = false ∧
    State.reset.dom.join = false ∧ State.reset.img.adopted = none ∧ State.reset.trace.mask = 0 ∧
    (∀ e, (State.reset.eng e).st = .off ∧ (State.reset.eng e).freq = 800 ∧ (State.reset.eng e).enable = false) ∧
    (∀ w, (State.reset.win w).valid = false ∧ (State.reset.win w).flagged = false) ∧
    (∀ d, (State.reset.pdt d).valid = false) ∧
    (∀ c, (State.reset.ctx c).enable = false ∧ (State.reset.ctx c).resident = false) ∧
    (∀ i, (State.reset.inl i).enable = false ∧ (State.reset.inl i).active = false)

/-! ## Fetching and admitting descriptors -/

/-- R171 with R169 and R170: an engine that is ON, not fenced and in no hold fetches the descriptor at SQHEAD of a
resident, enabled context when SQHEAD differs from SQTAIL, fewer than 16 are fetched, and the completion ring has room;
SQHEAD rises by one modulo 2^16 and the 64 bytes at SQBASE·64 + 64·(i mod SQSIZE) are the descriptor. Their read goes
out on the engine's port (R12), which changes nothing but the outputs. -/
def Obligations.DescriptorFetch : Prop :=
  ∀ (c : Nat) (s : State), (s.eng (s.ctx c).use.engine).works = true → (s.eng (s.ctx c).use.engine).holding = false →
    (s.ctx c).resident = true → (s.ctx c).enable = true → (s.ctx c).reEnable = false → (s.ctx c).saving = false →
    (s.ctx c).restoring = false → (s.ctx c).ringErr = false → (s.ctx c).sqHead ≠ (s.ctx c).sqTail →
    (s.ctx c).descs.length < 16 →
    (s.ctx c).descs.length + sub16 (s.ctx c).cqTail (s.ctx c).cqHead + 2 ≤ 2 ^ (s.ctx c).use.cqLog2 →
    exec (.descriptorFetch c) s = .next ((readMem s (s.ctx c).use.engine
        ((s.ctx c).use.sqBase * 64 + 64 * ((s.ctx c).sqHead % 2 ^ (s.ctx c).use.sqLog2)) 64).setCtx c { s.ctx c with
      sqHead := ((s.ctx c).sqHead + 1) % 65536
      descs := (s.ctx c).descs ++ [{
        seq := (s.ctx c).sqHead
        words := (List.range 8).map (fun k =>
          Mem.rd s.mem ((s.ctx c).use.sqBase * 64 + 64 * ((s.ctx c).sqHead % 2 ^ (s.ctx c).use.sqLog2) + 8 * k) 8) }] }) ∧
    ∀ e a n, readMem s e a n = { s with outputs := (readMem s e a n).outputs }

/-- A streaming descriptor that passes its checks is admitted under its engine's epoch (R181, R283); it issues nothing
yet, memory and everything that software sets up stay, nothing goes out but the reads of its parameter block, and an active
watch only asks for the watch unit (R346). With COUNT 0 it is finished at once, unless its watch waits for that unit; only a
STATS has a record to write then (R365). -/
def Obligations.AdmitStreaming : Prop :=
  (∀ (row : Nat → Instr) (op c : Nat) (s s1 : State) (d : Desc) (par : List Nat),
    (row, op) ∈ [(Instr.convert, 0x01), (Instr.quantise, 0x02), (Instr.dequantise, 0x03), (Instr.rotate, 0x04),
      (Instr.fold, 0x05), (Instr.reduce, 0x06), (Instr.stats, 0x07), (Instr.sample, 0x08), (Instr.fillRandom, 0x09),
      (Instr.recipe, 0x0A)] →
    Admits s c op d s1 par → s.desc? c d.seq = some d → d.count ≠ 0 →
    ∃ t, exec (row c) s = .next t ∧ t.desc? c d.seq = some (admittedAs d par (s.eng (s.engOf c)).epoch) ∧
      t.mem = s.mem ∧ SameSetup s t ∧ t.links = s.links ∧ t.err = s.err ∧ t.trace = s.trace ∧ t.outputs = s1.outputs ∧
      (∀ x, x ≠ c → t.ctx x = s.ctx x)) ∧
  (∀ (row : Nat → Instr) (op c : Nat) (s s1 : State) (d : Desc) (par : List Nat),
    (row, op) ∈ [(Instr.convert, 0x01), (Instr.quantise, 0x02), (Instr.dequantise, 0x03), (Instr.rotate, 0x04),
      (Instr.reduce, 0x06), (Instr.fillRandom, 0x09), (Instr.recipe, 0x0A)] →
    Admits s c op d s1 par → s.desc? c d.seq = some d → d.started = false → d.count = 0 →
    (d.watchCfg.active = true → (s.eng (s.engOf c)).watchFn = .on) →
    ∃ t, exec (row c) s = .next t ∧
      t.desc? c d.seq = some { admittedAs d par (s.eng (s.engOf c)).epoch with started := true, finished := true } ∧
      SameSetup s t ∧ t.links = s.links ∧ (s.trace.on = false → t.mem = s.mem) ∧ (∀ x, x ≠ c → t.ctx x = s.ctx x))

/-- A descriptor of any opcode whose first failing check has status `st` is admitted with that status as its ending,
before any element is read, flag claimed or tile touched (R181): memory, the windows and every other context stay. A
COLLECTIVE or REBOND that ends with PROTECTION sends the abort to the members of its group (R241); else nothing is sent. -/
def Obligations.AdmissionCheckFails : Prop :=
  ∀ (row : Nat → Instr) (op c st : Nat) (s s1 : State) (d : Desc) (par : List Nat),
    (row, op) ∈ [(Instr.convert, 0x01), (Instr.quantise, 0x02), (Instr.dequantise, 0x03), (Instr.rotate, 0x04),
      (Instr.fold, 0x05), (Instr.reduce, 0x06), (Instr.stats, 0x07), (Instr.sample, 0x08), (Instr.fillRandom, 0x09),
      (Instr.recipe, 0x0A), (Instr.collective, 0x10), (Instr.rebond, 0x11), (Instr.ticketLease, 0x12),
      (Instr.signature, 0x18), (Instr.fence, 0x20), (Instr.ribbon, 0x21), (Instr.saveContext, 0x22),
      (Instr.restoreContext, 0x23), (Instr.drain, 0x24), (Instr.nop, 0x30)] →
    nextAdmit s c = some d → d.op = op → loadParam s c d = some (s1, par) →
    tilesWait ((s.ctx c).descs.takeWhile (fun x => x.seq != d.seq)) { d with par := par } = false →
    Desc.check s1 { d with par := par } c d.seq
      (if ({ d with par := par } : Desc).isColl && d.pb && isPe (s.engOf c) then
        groupFor s1 (s.engOf c - 96) { d with par := par } else {}) = some st →
    s.desc? c d.seq = some d →
    ∃ u t, exec (row c) s = .next t ∧
      u.desc? c d.seq = some { admittedAs d par (s.eng (s.engOf c)).epoch with early := true, status := some st } ∧
      u.mem = s.mem ∧ SameSetup s u ∧ u.links = s.links ∧ u.outputs = s1.outputs ∧ (∀ x, x ≠ c → u.ctx x = s.ctx x) ∧
      t = (if d.isColl && d.pb && decide (st = 0x11) then abortGroup u c (u.desc c d.seq) else u) ∧ EndsOnly c u t

/-- NOP and FENCE that pass their checks are finished at once (R189). The row of NOP also admits an opcode that Table 0.4 does
not hold (log 23): it ends with BAD_DESCRIPTOR, and nothing else changes but the outputs and the recipe cache. -/
def Obligations.AdmitNopFence : Prop :=
  (∀ (row : Nat → Instr) (op c : Nat) (s s1 : State) (d : Desc) (par : List Nat),
     (row, op) ∈ [(Instr.fence, 0x20), (Instr.nop, 0x30)] →
     Admits s c op d s1 par → s.desc? c d.seq = some d → d.started = false →
     ∃ t, exec (row c) s = .next t ∧
       t.desc? c d.seq = some { admittedAs d par (s.eng (s.engOf c)).epoch with started := true, finished := true } ∧
       SameSetup s t ∧ t.links = s.links ∧ (s.trace.on = false → t.mem = s.mem) ∧ (∀ x, x ≠ c → t.ctx x = s.ctx x)) ∧
  (∀ (c : Nat) (s s1 : State) (d : Desc) (par : List Nat),
     nextAdmit s c = some d → d.op ∉ [0x01, 0x02, 0x03, 0x04, 0x05, 0x06, 0x07, 0x08, 0x09, 0x0A, 0x10, 0x11, 0x12, 0x18, 0x20,
       0x21, 0x22, 0x23, 0x24, 0x30] → loadParam s c d = some (s1, par) → s.desc? c d.seq = some d →
     ∃ t, exec (.nop c) s = .next t ∧
       t.desc? c d.seq = some { admittedAs d par (s.eng (s.engOf c)).epoch with early := true, status := some 0x12 } ∧
       t.mem = s.mem ∧ SameSetup s t ∧ t.links = s.links ∧ t.err = s.err ∧ t.trace = s.trace ∧ t.outputs = s1.outputs ∧
       (∀ x, x ≠ c → t.ctx x = s.ctx x))

/-- An admitted DRAIN asks for the drain of the region that its block names, with its own accumulator type, tile, extent
and OUT (R99), and writes nothing yet. An admitted RIBBON asks the always-on island for the cut: it joins the requests
that wait there, in order of arrival (R331). -/
def Obligations.AdmitDrainRibbon : Prop :=
  (∀ (c : Nat) (s s1 : State) (d : Desc) (par : List Nat),
     Admits s c 0x24 d s1 par → s.desc? c d.seq = some d → d.started = false →
     ∃ t, exec (.drain c) s = .next t ∧
       t.desc? c d.seq = some { admittedAs d par (s.eng (s.engOf c)).epoch with
         started := true
         drains := [{ bf16 := ({ d with par := par } : Desc).facc, tile := ({ d with par := par } : Desc).ftile
                      m := ({ d with par := par } : Desc).fm, n := ({ d with par := par } : Desc).fn
                      out := ({ d with par := par } : Desc).fout }] } ∧
       SameSetup s t ∧ t.links = s.links ∧ (s.trace.on = false → t.mem = s.mem) ∧ (∀ x, x ≠ c → t.ctx x = s.ctx x)) ∧
  (∀ (c : Nat) (s s1 : State) (d : Desc) (par : List Nat),
     Admits s c 0x21 d s1 par → s.desc? c d.seq = some d → d.started = false →
     ∃ t, exec (.ribbon c) s = .next t ∧ t.trace.ribbons = s.trace.ribbons ++ [(c, d.seq)] ∧
       t.desc? c d.seq = some { admittedAs d par (s.eng (s.engOf c)).epoch with started := true } ∧
       SameSetup s t ∧ t.links = s.links ∧ (s.trace.on = false → t.mem = s.mem) ∧ (∀ x, x ≠ c → t.ctx x = s.ctx x))

/-- An admitted TICKET_LEASE of a device that does not issue tickets waits for a grant: it stands among the device's
leases (R264), and memory, windows and the domain words stay. -/
def Obligations.AdmitLease : Prop :=
  ∀ (c : Nat) (s s1 : State) (d : Desc) (par : List Nat),
    Admits s c 0x12 d s1 par → s.desc? c d.seq = some d → d.started = false → s.isIssuer = false →
    ∃ t, exec (.ticketLease c) s = .next t ∧
      t.desc? c d.seq = some { admittedAs d par (s.eng (s.engOf c)).epoch with started := true, leaseAsked := true } ∧
      SameSetup s t ∧ (s.trace.on = false → t.mem = s.mem) ∧ (∀ x, x ≠ c → t.ctx x = s.ctx x)

/-- An admitted SAVE_CONTEXT stops its target (R289). -/
def Obligations.AdmitSave : Prop :=
  ∀ (c : Nat) (s s1 : State) (d : Desc) (par : List Nat),
    Admits s c 0x22 d s1 par → s.desc? c d.seq = some d → d.started = false → bits d.soff 11 0 ≠ c →
    ∃ t, exec (.saveContext c) s = .next t ∧ (t.ctx (bits d.soff 11 0)).saving = true ∧
      t.desc? c d.seq = some { admittedAs d par (s.eng (s.engOf c)).epoch with started := true } ∧
      SameSetup s t ∧ (s.trace.on = false → t.mem = s.mem)

/-- An admitted SIGNATURE runs at once, with its own descriptor started, unless its watch waits for the watch unit (R346);
once the chunks of its 512 destination bytes may be touched, and without COMPARE, it writes the links' signatures for its job
there (R242). -/
def Obligations.AdmitSignature : Prop :=
  ∀ (c : Nat) (s s1 : State) (d : Desc) (par : List Nat),
    Admits s c 0x18 d s1 par → s.desc? c d.seq = some d → d.started = false →
    ∃ r : State, exec (.signature c) s = .next (if d.watchCfg.active = true ∧ (s.eng (s.engOf c)).watchFn ≠ .on then r
        else runSignature r c d.seq) ∧
      r.desc? c d.seq = some { admittedAs d par (s.eng (s.engOf c)).epoch with started := true } ∧
      SameSetup s r ∧ r.links = s.links ∧ (s.trace.on = false → r.mem = s.mem) ∧ (∀ x, x ≠ c → r.ctx x = s.ctx x) ∧
      ∀ u : State, bitAt d.sub 0 = false → d.over = false →
        gate r c d.seq [{ win := d.dwin, lo := d.doff, hi := d.doff + 512, wr := true }] = (u, true) →
        (runSignature r c d.seq).mem = Mem.wrBytes u.mem (u.addrOf d.dwin d.doff) (signatureBytes u d.job)

/-- An admitted RESTORE_CONTEXT stops its target and runs at once, with its own descriptor started (R287, R294). A
RESTORE_CONTEXT whose source chunks may be touched and whose image passes every check of R294 finishes with no status of
its own: its target takes up the image, and is free again once the RESTORE_CONTEXT has completed (R295). -/
def Obligations.AdmitRestore : Prop :=
  (∀ (c : Nat) (s s1 : State) (d : Desc) (par : List Nat),
     Admits s c 0x23 d s1 par → s.desc? c d.seq = some d → d.started = false → bits d.doff 11 0 ≠ c →
     ∃ r : State, exec (.restoreContext c) s = .next (runRestore r c d.seq) ∧ (r.ctx (bits d.doff 11 0)).restoring = true ∧
       r.desc? c d.seq = some { admittedAs d par (s.eng (s.engOf c)).epoch with started := true } ∧
       SameSetup s r ∧ r.links = s.links ∧ (s.trace.on = false → r.mem = s.mem) ∧
       (∀ x, x ≠ c → x ≠ bits d.doff 11 0 → r.ctx x = s.ctx x)) ∧
  (∀ (c q : Nat) (s u v : State) (d : Desc),
     s.desc? c q = some d → d.over = false →
     gate s c q [{ win := d.swin, lo := d.soff, hi := min (s.win d.swin).bytes (d.soff + 0x4000) }] = (u, true) →
     d.soff + 0x4000 ≤ (s.win d.swin).bytes →
     d.soff + Mem.rd u.mem (u.addrOf d.swin d.soff + 0x0C) 4 ≤ (s.win d.swin).bytes →
     gate u c q [{ win := d.swin, lo := d.soff, hi := d.soff + Mem.rd u.mem (u.addrOf d.swin d.soff + 0x0C) 4 }] = (v, true) →
     imageCheck v (bits d.doff 11 0) ((s.win d.swin).bytes - d.soff)
       (Mem.bytes v.mem (u.addrOf d.swin d.soff) (Mem.rd u.mem (u.addrOf d.swin d.soff + 0x0C) 4)) = none →
     runRestore s c q = loadImage
       ((postReads v c
         [{ win := d.swin, lo := d.soff, hi := d.soff + Mem.rd u.mem (u.addrOf d.swin d.soff + 0x0C) 4 }]).modDesc c q
           (fun d => { d with status := none, finished := true }))
       (bits d.doff 11 0)
       (Mem.bytes v.mem (u.addrOf d.swin d.soff) (Mem.rd u.mem (u.addrOf d.swin d.soff + 0x0C) 4)))

/-- The first COLLECTIVE or REBOND of an instance that passes its checks makes the instance present with its group, and
clears the job's signatures (R236, R242); the descriptor knows its group, and nothing is sent or written. -/
def Obligations.AdmitCollective : Prop :=
  ∀ (row : Nat → Instr) (op c : Nat) (s s1 : State) (d : Desc) (par : List Nat) (A : Desc) (g : Group) (l : Link),
    (row, op) ∈ [(Instr.collective, 0x10), (Instr.rebond, 0x11)] →
    nextAdmit s c = some d → d.op = op → d.pb = true → isPe (s.engOf c) = true → loadParam s c d = some (s1, par) →
    s.desc? c d.seq = some d → A = admittedAs d par (s.eng (s.engOf c)).epoch → l = s.link (s.engOf c - 96) →
    tilesWait ((s.ctx c).descs.takeWhile (fun x => x.seq != d.seq)) { d with par := par } = false →
    g = groupFor s1 (s.engOf c - 96) { d with par := par } →
    Desc.check s1 { d with par := par } c d.seq g = none →
    l.inst? A.job A.ticket = none →
    l.insts.any (fun i => (i.job == A.job && decide (A.ticket < i.ticket)) || (i.job != A.job && i.ticket == A.ticket)) = false →
    g.members.any (fun m => l.lost.contains m) = false →
    l.ann.any (fun a => a.job == A.job && a.ticket == A.ticket && a.bucket == A.bucket) = false →
    ∃ t, exec (row c) s = .next t ∧
      t.desc? c d.seq = some { A with coll := { members := g.members, self := g.self } } ∧
      (t.link (s.engOf c - 96)).insts = l.insts ++
        [{ job := A.job, ticket := A.ticket, pd := g.pd, members := g.members, self := g.self, kind := A.kind }] ∧
      (t.link (s.engOf c - 96)).tx = l.tx ∧ (t.link (s.engOf c - 96)).rx = l.rx ∧
      (SMap.wf l.jobs {} = true → ((t.link (s.engOf c - 96)).job A.job).sentSig = 0 ∧
        ((t.link (s.engOf c - 96)).job A.job).recvSig = 0) ∧
      t.mem = s.mem ∧ SameSetup s t ∧ t.outputs = s1.outputs ∧ t.err = s.err ∧ (∀ x, x ≠ c → t.ctx x = s.ctx x)

/-! ## Strips, claims and drains -/

/-- A context whose engine issues runs the next strip of its one descriptor, whatever the opcode, once the strip's chunks may be
touched; where they may not, the claims alone are made (R188, R148). Where every chunk of the strip is held CLAIMED already,
memory is what the opcode's strip leaves, its sources read as they stood before the command wrote over them (log 85), and STATS
writes its record after its last strip; the set-up, the links, the error ring and every other context stay, and the trace too
once the descriptor has started. A SIGNATURE or RESTORE_CONTEXT that waited goes on (R313). A strip in which a residue check of
a quire fails for the first time is not run (R298): its record goes to the error ring where that has room, and the unit is to be
tested (R301, R302); every context stays. -/
def Obligations.StripIssues : Prop :=
  (∀ (c : Nat) (s u : State) (d : Desc) (sp : List Acc) (ok : Bool),
     issues s (s.engOf c) = true → (s.ctx c).resident = true → (s.ctx c).descs = [d] → mayStrip s c d = true → d.count ≠ 0 →
     gateStrip s c d = (u, sp, ok) →
     exec (.stripIssue c none) s = .next (if ok then runStrip u c (u.desc c d.seq) sp else u)) ∧
  (∀ (c : Nat) (s u : State) (d x : Desc) (sp : List Acc) (r : Strip),
     issues s (s.engOf c) = true → (s.ctx c).resident = true → (s.ctx c).descs = [d] → d.count ≠ 0 →
     mayStrip s c d = true → d.op ≠ 0x08 →
     sp = d.stripSpan (d.nextStrip (lanes (s.engOf c))).1 (d.nextStrip (lanes (s.engOf c))).2 → HeldAll s d sp →
     u = issueWork s c d sp → x = Desc.keepBefore u { d with started := true } sp →
     r = stripWork u { x with pos := min d.count (max d.pos d.cursor + lanes (s.engOf c)) } (s.ctx c).live (lanes (s.engOf c))
       (d.nextStrip (lanes (s.engOf c))) →
     ∃ t, exec (.stripIssue c none) s = .next t ∧
       (d.op ≠ 0x07 → t.mem = r.mem) ∧
       (d.op = 0x07 → t.mem = if r.d.stripsDone = true ∧ r.d.drains = [] then
           Mem.wrBytes r.mem (s.addrOf d.dwin d.doff) (watchRecord r.d.watch d.statsCfg d.seq false) else r.mem) ∧
       (t.ctx c).live = r.live ∧ (t.ctx c).shadow = (s.ctx c).shadow ∧
       SameSetup s t ∧ t.links = s.links ∧ t.err = s.err ∧ (d.started = true → t.trace = s.trace) ∧
       (∀ y, y ≠ c → t.ctx y = s.ctx y)) ∧
  (∀ (c : Nat) (s : State) (d : Desc),
     issues s (s.engOf c) = true → (s.ctx c).resident = true → (s.ctx c).descs = [d] → d.admitted = true → d.over = false →
     watchReady s c d = true →
     (d.op = 0x18 → exec (.stripIssue c none) s = .next (runSignature s c d.seq)) ∧
     (d.op = 0x23 → exec (.stripIssue c none) s = .next (runRestore s c d.seq))) ∧
  (∀ (c : Nat) (s : State) (d : Desc) (k : Detection),
     issues s (s.engOf c) = true → (s.ctx c).resident = true → (s.ctx c).descs = [d] → d.isColl = false →
     mayStrip s c d = true → d.op ≠ 0x08 →
     HeldAll s d (d.stripSpan (d.nextStrip (lanes (s.engOf c))).1 (d.nextStrip (lanes (s.engOf c))).2) →
     k.kind = .residue → k.unit = 0 → k.inside = false → k.seq = none → k.eng = none →
     repeated s (s.engOf c) 0 (theQuire k) = false →
     ∃ (t : State) (x : SelfTest), exec (.stripIssue c (some k)) s = .next t ∧ x.unit = 0 ∧ x.quire = theQuire k ∧
       x.started = false ∧ x.record.kind = 3 ∧ x.record.cls = 0 ∧
       (t.eng (s.engOf c)).tests = (s.eng (s.engOf c)).tests ++ [x] ∧ t.ctxs = s.ctxs ∧ SameSetup s t ∧ t.links = s.links ∧
       t.mem = if s.err.room then
           Mem.wr s.mem (s.err.base * 64 + 32 * (s.err.tail % s.err.size)) 32 (errNat { x.record with phase := s.err.phase })
         else s.mem)

/-- The work of CONVERT on the elements from its cursor up to `hi` writes, for each, the code that `convert` gives for the source
element (R53), whatever the strips and the chunks that the work is cut into (R13, R14): the sources are read as they stood
before the command wrote over them (log 85). The cursor moves to `hi`; the tiles stay. -/
def Obligations.ConvertStrip : Prop :=
  ∀ (s : State) (d : Desc) (live : List (Nat × Byte)) (l hi : Nat), d.op = 0x01 → d.cursor ≤ hi → hi ≤ d.count → d.held = [] →
    (stripWork s d live l (d.cursor, hi)).mem =
      writeElems s.mem (d.dst s) d.cursor ((range2 d.cursor hi).map (fun i =>
        (convert ((d.src s).value (d.sourceMem s.mem) i) d.dfmt.fmt false d.infnan d.mode (d.rbyte 0 i)).1)) ∧
    (stripWork s d live l (d.cursor, hi)).d.cursor = hi ∧ (stripWork s d live l (d.cursor, hi)).live = live

/-- A poll of a flag on which a descriptor waits (log 18): READY asks for the compare-and-swap to CLAIMED of the word as
read, any other value leaves the chunk waiting (R148). A chunk that a descriptor holds, with nothing of it left to touch
and every write acknowledged (R149, R150): in a flagged window it asks for the compare-and-swap from CLAIMED to DONE, in
another the chunk is finished at once. The request's data is the word expected, then the word wanted (log 98). -/
def Obligations.FlagSwaps : Prop :=
  (∀ (c q a : Nat) (word : Word32) (s u : State) (d : Desc) (k : Claim),
     s.desc? c q = some d → carries s (s.engOf c) = true → (s.eng (s.engOf c)).isOn = true ∨ runsOn d = true →
     d.over = false → s.mayClaim c d = true → before32 d.tag (s.eng (s.engOf c)).epoch = false →
     d.claims.find? (fun k => k.phase == 4) = some k → s.mayTrack c q = true →
     a = (s.win k.win).flagAddr k.chunk → u = readMem s (s.engOf c) a 4 →
     (flagOf word.toNat k.chunk = 2 →
       exec (.flagPoll c q word) s = .next ((u.modDesc c q (·.setPhase k.win k.chunk 0)).sendReqs (s.engOf c)
         [{ net := true, kind := 1, ctx := c, seq := q, win := k.win, chunk := k.chunk, addr := a
            expect := withFlag word.toNat k.chunk 2
            data := leBytes 4 (withFlag word.toNat k.chunk 2) ++ leBytes 4 (withFlag word.toNat k.chunk 3) }])) ∧
     (flagOf word.toNat k.chunk ≠ 2 →
       exec (.flagPoll c q word) s = .next (u.modDesc c q (·.setPhase k.win k.chunk 4)))) ∧
  (∀ (c q w k : Nat) (s : State) (d : Desc),
     s.desc? c q = some d → carries s (s.engOf c) = true → d.phaseOf w k = some 1 → writePending s c q w k = false →
     touchesStill s c d w k = false →
     ((s.win w).flagged = true →
       exec (.chunkDone c q w k) s = .next ((s.modDesc c q (·.setPhase w k 2)).sendReqs (s.engOf c)
         [{ net := true, kind := 2, ctx := c, seq := q, win := w, chunk := k, addr := (s.win w).flagAddr k
            expect := withFlag (s.flagWord w k) k 3
            data := leBytes 4 (withFlag (s.flagWord w k) k 3) ++ leBytes 4 (withFlag (s.flagWord w k) k 4) }])) ∧
     ((s.win w).flagged = false → exec (.chunkDone c q w k) s = .next (s.modDesc c q (·.setPhase w k 5))))

/-- Responses, as their rows bring them (log 19): the acknowledgement of a write takes its request away, and its tag serves the
next; a swap that found the word it expected leaves CLAIMED (DONE, FAULTED) in the word and in the claim (R148, R149, R152); one
from CLAIMED that found another value of its flag is a violation (R151); an error in data read for a descriptor's chunk is
recorded, faults the chunk and ends the descriptor (R307). The engine's link then goes on. -/
def Obligations.Responses : Prop :=
  ∀ (e : Nat) (s : State), (s.eng e).holding = false → (s.eng e).heldResp = [] →
    (∀ t net r (w : Word32) (u : State),
      (s.eng e).reqs.find? (fun r => r.sent && r.tag == t && r.net == net && r.kind != 5) = some r →
      u = issueReqs (s.modEng e (fun x => { x with reqs := x.reqs.erase r })) e →
      (r.kind = 0 →
        exec (if net then .networkResponse e (.tag t) .ok w else .stackResponse e (.tag t) .ok) s = .next (linkOn u e)) ∧
      (net = true → r.kind = 1 ∨ r.kind = 2 ∨ r.kind = 3 → w.toNat = r.expect →
        exec (.networkResponse e (.tag t) .ok w) s =
          .next (linkOn ((u.setMem (Mem.wr u.mem r.addr 4 (withFlag w.toNat r.chunk
              (if r.kind = 1 then 3 else if r.kind = 2 then 4 else 14)))).modDesc r.ctx r.seq
            (·.setPhase r.win r.chunk (if r.kind = 1 then 1 else if r.kind = 2 then 5 else 6))) e)) ∧
      (net = true → r.kind = 2 ∨ r.kind = 3 → w.toNat ≠ r.expect → flagOf w.toNat r.chunk ≠ 3 →
        exec (.networkResponse e (.tag t) .ok w) s =
          .next (linkOn (flagViolation (u.setMem (Mem.wr u.mem r.addr 4 w.toNat)) r.ctx r.seq r.win r.chunk) e))) ∧
    (∀ c q w k d, s.desc? c q = some d → s.engOf c = e →
      s.usesNet e ((s.win w).addr + k * (s.win w).chunkBytes) = false →
      exec (.stackResponse e (.read c q w k) .error) s = .next (linkOn (externalRead s c q w k false) e))

/-- The next drain of a descriptor, when no other has its region: the live region goes to the shadow set and reads +0
after (R99); with OUT the drain waits for its output stage, without it the drain is over. An uncorrectable check that fails in
the exchange or in an output stage is recorded, and the step is not made (R94, R297). -/
def Obligations.DrainExchange : Prop :=
  (∀ (c q : Nat) (s : State) (d : Desc) (r : DrainReq),
    s.desc? c q = some d → d.drains.find? (fun r => !r.exchanged) = some r → carries s (s.engOf c) = true → d.over = false →
    drainBlocked s c d r = false → heldByTest (s.eng (s.engOf c)) c q = false →
    exec (.drainExchange c { seq := q }) s =
      .next ((s.modCtx c (fun x => exchange x r.bf16 r.tile)).modDesc c q (fun d =>
        if r.out then { d with drains := d.drains.map (fun y => if y = r then { r with exchanged := true } else y) }
        else dropDrain d r)) ∧
    ∀ k, k < tileBytes r.bf16 →
      SMap.wf (s.ctx c).live 0 = true →
      SMap.get (exchange (s.ctx c) r.bf16 r.tile).live 0 (tileBase r.bf16 r.tile + k) = 0) ∧
  (∀ (c q : Nat) (s : State) (k : Detection), k.kind ≠ .secdedCorr →
    exec (.drainExchange c { seq := q, det := some k }) s = .next (checkFails s c { k with seq := some q }) ∧
    exec (.outputStage c { seq := q, det := some k }) s = .next (checkFails s c { k with seq := some q }))

/-- The output stage of an exchanged region of a FOLD or DRAIN writes what its stage computes from the shadow set (R91,
R100), once its chunks are held; the set-up, the links, the trace and every other context stay. -/
def Obligations.OutputStage : Prop :=
  ∀ (c q : Nat) (s : State) (d : Desc) (r : DrainReq),
    (s.ctx c).descs = [d] → d.seq = q → d.op ≠ 0x0A → d.drains.find? (fun r => r.exchanged) = some r →
    carries s (s.engOf c) = true → (s.eng (s.engOf c)).testing = false → d.over = false → watchReady s c d = true →
    heldByTest (s.eng (s.engOf c)) c q = false → d.started = true → HeldAll s d d.outSpan →
    ∃ t, exec (.outputStage c { seq := q }) s = .next t ∧
      t.mem = ((d.foldOut s).run (s.ctx c).shadow s.mem d true).1 ∧
      SameSetup s t ∧ t.links = s.links ∧ t.err = s.err ∧ t.trace = s.trace ∧ (t.ctx c).live = (s.ctx c).live ∧
      (t.ctx c).shadow = (s.ctx c).shadow ∧ (∀ x, x ≠ c → t.ctx x = s.ctx x)

/-! ## Completion, contexts and doorbells -/

/-- A descriptor that may complete does, whatever its opcode. It writes its 32-byte completion record at index CQTAIL of the
completion ring; CQTAIL rises by one modulo 2^16, PHASE changes when the ring wraps (R172); the descriptor is gone, and with
NOTIFY a completion event goes out after the requests that carry the record. A context that is leaving then leaves. The details
are stated for descriptors without a watch record and of opcodes that give nothing back outside their context. -/
def Obligations.CompletionWrite : Prop :=
  ∀ (c q : Nat) (s : State) (d : Desc),
    s.desc? c q = some d → mayComplete s c d = true → (s.eng (s.engOf c)).heldResp = [] →
    exec (.completionWrite c q) s = .next (complete s c d) ∧
    (d.watchCfg.active = false → d.isColl = false → d.op ∉ [0x07, 0x12, 0x21, 0x22, 0x23] → d.held = [] →
    ∃ u l, complete s c d = leaveIfDone (linkOn u (s.engOf c)) c ∧
      (s.trace.on = false → u.mem = Mem.wrBytes s.mem
        ((s.ctx c).use.cqBase * 64 + 32 * ((s.ctx c).cqTail % 2 ^ (s.ctx c).use.cqLog2))
        (leBytes 32 (completionNat d.reported (s.engOf c) d.finalStatus none (s.ctx c).phase))) ∧
      u.outputs = s.outputs ++ l ++ (if d.notify then [.event 0 c] else []) ∧ l.all Output.isRequest = true ∧
      SameSetup s u ∧ u.links = s.links ∧ u.err = s.err ∧
      (u.ctx c).cqTail = ((s.ctx c).cqTail + 1) % 65536 ∧
      (u.ctx c).descs = (s.ctx c).descs.filter (fun y => y.seq != q) ∧
      (u.ctx c).phase = (if ((s.ctx c).cqTail + 1) % 2 ^ (s.ctx c).use.cqLog2 = 0 then !(s.ctx c).phase else (s.ctx c).phase) ∧
      (∀ x, x ≠ c → u.ctx x = s.ctx x))

/-- When every descriptor of a SAVE_CONTEXT's target has stopped, the groups that they only began are finished and the image is
written, or given up where it does not fit (R289). With no group begun and an image that fits its window, the image of the
target is written at DOFF, the SAVE_CONTEXT finishes with the image's length in AUX, and the target leaves its engine (R290,
R291). -/
def Obligations.ContextImageWrite : Prop :=
  ∀ (c q tgt : Nat) (s : State) (d : Desc) (a : Acc),
    s.desc? c q = some d → d.op = 0x22 → d.admitted = true → d.over = false → carries s (s.engOf c) = true →
    tgt = bits d.soff 11 0 → (s.ctx tgt).saving = true → (s.eng (s.ctx tgt).use.engine).works = true →
    (s.ctx tgt).descs.all (stoppedDesc s tgt) = true →
    exec (.contextImageWrite c q) s = .next (writeImage s c d tgt) ∧
    ((s.ctx tgt).descs.all (fun x => x.held.isEmpty && decide (x.pos ≤ x.cursor)) = true →
    d.doff + (contextImage s tgt).length ≤ (s.win d.dwin).bytes →
    a = { win := d.dwin, lo := d.doff, hi := d.doff + (contextImage s tgt).length, wr := true } → HeldAll s d [a] →
    ∃ u, writeImage s c d tgt = leaveCtx
        (u.modCtx tgt (fun x => { x with enable := false, saving := false })) tgt false ∧
      u.mem = Mem.wrBytes s.mem (s.addrOf d.dwin d.doff) (contextImage s tgt) ∧
      u.desc? c q = some { d with aux := (contextImage s tgt).length, finished := true } ∧
      SameSetup s u ∧ u.links = s.links ∧ u.err = s.err ∧ u.trace = s.trace ∧ (∀ x, x ≠ c → u.ctx x = s.ctx x))

/-- R173 and R174: a 4- or 8-byte doorbell write at the start of an enabled context's page takes SQTAIL and CQHEAD when
both pass, sets RINGERR when one does not, and is answered; with an unchanged P the flags on which the context waits are read
again; a context with RINGERR fetches nothing more. A write to a context that is disabled, fenced or being saved, a write
elsewhere in the page or of another size is dropped and counted; one to the target of a RESTORE_CONTEXT, or to a context whose
engine is stopped in a ribbon hold, is kept, of the latter sixteen. A read at the start of the page gives SQHEAD in bits 15:0
and CQTAIL in bits 31:16, and elsewhere, or during fabric reset, 0. A request with bad parity is recorded and answered with code
2, and has no other effect but that a write counts as dropped (R347). -/
def Obligations.DoorbellAccess : Prop :=
  ∀ (c size : Nat) (v : Word64) (s : State) (x : Ctx), s.pins.aonPg = true → c < 4096 → x = s.ctx c →
    (s.pins.fabRstN = true → (size = 4 ∨ size = 8) →
      (x.enable = true → x.reEnable = false → x.saving = false → (s.eng x.use.engine).fenced = false →
        (x.restoring = false → (x.resident && (s.eng x.use.engine).isOn && (s.eng x.use.engine).holding) = false →
          let p := bits v.toNat 15 0
          let h := bits v.toNat 31 16
          let y := s.setCtx c { x with sqTail := p, cqHead := h, rang := true }
          (sub16 p x.sqHead < 2 ^ x.use.sqLog2 → sub16 p x.sqTail < 2 ^ x.use.sqLog2 →
            sub16 x.cqTail h ≤ sub16 x.cqTail x.cqHead →
            (p ≠ x.sqTail → exec (.doorbell true true (c * 0x1000) size v) s = .next (busOk y)) ∧
            (p = x.sqTail → (s.eng x.use.engine).works = true →
              exec (.doorbell true true (c * 0x1000) size v) s = .next (busOk (reReadFlags y c)))) ∧
          ((2 ^ x.use.sqLog2 ≤ sub16 p x.sqHead ∨ 2 ^ x.use.sqLog2 ≤ sub16 p x.sqTail ∨
              sub16 x.cqTail x.cqHead < sub16 x.cqTail h) →
            exec (.doorbell true true (c * 0x1000) size v) s = .next (busOk (s.setCtx c { x with ringErr := true })))) ∧
        (x.restoring = true ∨ (x.resident = true ∧ (s.eng x.use.engine).isOn = true ∧ (s.eng x.use.engine).holding = true ∧
            x.heldDb.length < 16) →
          exec (.doorbell true true (c * 0x1000) size v) s =
            .next (busOk (s.setCtx c { x with heldDb := x.heldDb ++ [bits v.toNat 31 0] }))) ∧
        (x.restoring = false → x.resident = true → (s.eng x.use.engine).isOn = true → (s.eng x.use.engine).holding = true →
            16 ≤ x.heldDb.length →
          exec (.doorbell true true (c * 0x1000) size v) s = .next (busOk (dropDoorbell s c)))) ∧
      (x.enable = false ∨ x.reEnable = true ∨ x.saving = true ∨ (s.eng x.use.engine).fenced = true →
        exec (.doorbell true true (c * 0x1000) size v) s = .next (busOk (dropDoorbell s c)))) ∧
    (∀ o, o < 0x1000 → o ≠ 0 ∨ (size ≠ 4 ∧ size ≠ 8) ∨ s.pins.fabRstN = false →
      exec (.doorbell true true (c * 0x1000 + o) size v) s = .next (busOk (dropDoorbell s c))) ∧
    (dropDoorbell s c).dbDrop = satInc32 s.dbDrop 1 ∧
    (x.ringErr = true → exec (.descriptorFetch c) s = .next s) ∧
    (s.pins.fabRstN = true →
      exec (.doorbell false true (c * 0x1000) size v) s = .next (s.out (.bus (x.sqHead + x.cqTail * 65536) 0))) ∧
    (∀ o, o < 0x1000 → o ≠ 0 ∨ s.pins.fabRstN = false →
      exec (.doorbell false true (c * 0x1000 + o) size v) s = .next (s.out (.bus 0 0))) ∧
    exec (.doorbell false false (c * 0x1000) size v) s = .next ((external s 0 true { noctx := true }).out (.bus 0 2)) ∧
    exec (.doorbell true false (c * 0x1000) size v) s =
      .next ((external (dropDoorbell s c) 0 true { noctx := true }).out (.bus 0 2))

/-! ## Inline service -/

/-- An inline read of one part that its engine serves: the part's bytes are those that `blockRead` gives for the block,
which are 0 in a block of state 0 (Table 8.3); memory stays when no buffered write has to be merged first, and the response
follows the reads that the engine makes of its stack. Without the right the response is PROTECTION (2); data that the stack
answers with an error or bad parity is recorded, discards the block's buffered writes and gives DATA (3) (R157, R161, R347).
An access outside every active window is answered UNMAPPED (1) and changes nothing else (R155); one of an engine that is not
ON, or of an absent fabric, FABRIC_ABSENT (4), one of a fenced engine DATA (R309, R311, Table 8.4); an engine in a self-test or
a hold keeps the access (R304, R333); a request with bad parity is recorded and gets DATA (R347). -/
def Obligations.InlineRead : Prop :=
  (∀ (addr len i : Nat) (l : List PartStatus) (who : Asker) (s : State) (p : Part) (x : InlineSet),
     s.absent = false → s.accesses.find? (fun a => a.id == s.accNext + 1) = none →
     s.parts len addr len = [p] → p.addr = addr → x = (s.inl i).use → p.win = some i →
     ((s.eng p.se).isOn = false →
       exec (.inlineRead true l addr who len) s = .next (s.out (.inlineResp who.tag 4 []))) ∧
     ((s.eng p.se).isOn = true → (s.eng p.se).fenced = true →
       exec (.inlineRead true l addr who len) s = .next (s.out (.inlineResp who.tag 3 []))) ∧
     ((s.eng p.se).isOn = true → (s.eng p.se).fenced = false →
       (s.eng p.se).testing = true ∨ (s.eng p.se).holding = true →
       exec (.inlineRead true l addr who len) s = .next (holdPart s p.se 1
         { tag := who.tag, addr := addr, pd := who.pd, len := p.len, epoch := (s.eng p.se).epoch, part := nth l 0 .ok
           acc := s.accNext + 1 })) ∧
     ((s.eng p.se).isOn = true → (s.eng p.se).fenced = false → (s.eng p.se).testing = false → (s.eng p.se).holding = false →
       nth l 0 .ok = .ok →
       (s.inlineMay (s.eng p.se).epoch i who.pd true = false →
         exec (.inlineRead true l addr who len) s = .next (s.out (.inlineResp who.tag 2 []))) ∧
       (s.inlineMay (s.eng p.se).epoch i who.pd true = true → (s.inl i).lost.contains p.block = false →
         (s.eng p.se).entry? i p.block = none →
         ∃ t k, exec (.inlineRead true l addr who len) s = .next t ∧ k.all Output.isRequest = true ∧
           t.outputs = s.outputs ++ k ++ [.inlineResp who.tag 0 ((((blockRead s x p.block (p.off / x.viewBytes)
             (ceilDiv (p.off + p.len) x.viewBytes)).map (fun q => leBytes x.viewBytes q.1)).flatten.drop
               (p.off - p.off / x.viewBytes * x.viewBytes)).take p.len)] ∧
           t.mem = s.mem ∧ t.ctxs = s.ctxs ∧ t.windows = s.windows ∧ t.links = s.links ∧ t.err = s.err ∧ t.trace = s.trace)) ∧
     ((s.eng p.se).isOn = true → (s.eng p.se).fenced = false → (s.eng p.se).testing = false → (s.eng p.se).holding = false →
       s.inlineMay (s.eng p.se).epoch i who.pd true = true → (s.inl i).lost.contains p.block = false →
       (nth l 0 .ok = .stackErr → exec (.inlineRead true l addr who len) s =
         .next ((inlineStackErr s p.se i p.block false).out (.inlineResp who.tag 3 []))) ∧
       (nth l 0 .ok = .parity → exec (.inlineRead true l addr who len) s =
         .next ((inlineStackErr s p.se i p.block true).out (.inlineResp who.tag 3 [])))) ∧
     (Mem.rdBits s.mem (s.inlBase x + x.stateOff) (2 * p.block) 2 = 0 →
       ∀ lo hi, ∀ r ∈ blockRead s x p.block lo hi, r.1 = 0)) ∧
  (∀ (addr len : Nat) (l : List PartStatus) (who : Asker) (data : List (Option Byte)) (s : State), data.length = len →
     (s.absent = true →
       exec (.inlineRead true l addr who len) s = .next (s.out (.inlineResp who.tag 4 [])) ∧
       exec (.inlineWrite true l addr who data) s = .next (s.out (.inlineResp who.tag 4 []))) ∧
     (∀ p, s.absent = false → s.parts len addr len = [p] → p.win = none →
       (s.accesses.find? (fun a => a.id == s.accNext + 1) = none →
         exec (.inlineRead true l addr who len) s = .next (s.out (.inlineResp who.tag 1 [])) ∧
         exec (.inlineWrite true l addr who data) s = .next (s.out (.inlineResp who.tag 1 []))) ∧
       ∀ u : State, u = (external s p.se true { lockind := 2, loc := p.block, win := 0, noctx := true }).out
           (.inlineResp who.tag 3 []) →
         exec (.inlineRead false l addr who len) s = .next u ∧ exec (.inlineWrite false l addr who data) s = .next u))

/-- An inline write of one part that its engine serves enters its enabled bytes in a new entry of the write-combining
buffer, when the buffer has room and the entry does not hold its whole block: memory stays, and the response is OK (R158).
Without the right the response is PROTECTION, and nothing is written (R161). -/
def Obligations.InlineWrite : Prop :=
  ∀ (addr i : Nat) (l : List PartStatus) (who : Asker) (data : List (Option Byte)) (s : State) (p : Part) (y : Engine)
    (b : List (Nat × Byte)),
    s.absent = false → s.accesses.find? (fun a => a.id == s.accNext + 1) = none →
    s.parts data.length addr data.length = [p] → p.addr = addr → p.win = some i → y = s.eng p.se →
    y.isOn = true → y.fenced = false → y.testing = false → y.holding = false → nth l 0 .ok = .ok →
    (s.inlineMay y.epoch i who.pd false = false →
      exec (.inlineWrite true l addr who data) s = .next (s.out (.inlineResp who.tag 2 []))) ∧
    (s.inlineMay y.epoch i who.pd false = true → (s.inl i).lost.contains p.block = false →
    y.entry? i p.block = none → y.wc.length < 64 →
    b = (List.range p.len).filterMap (fun k => (nth data k none).map (fun v => (p.off + k, v))) →
    WcEntry.mask { data := b } (s.inl i).use.viewBytes ≠ 2 ^ (s.inl i).use.blockC - 1 →
    exec (.inlineWrite true l addr who data) s = .next ((s.setEng p.se { y with
        issued := true, cnt := { y.cnt with inlineCnt := y.cnt.inlineCnt + 1 }, wcStamp := y.wcStamp + 1
        wc := y.wc ++ [{ win := i, block := p.block, data := b, stamp := y.wcStamp + 1 }] }).out (.inlineResp who.tag 0 [])))

/-- A merge of an entry that a flush covers, or whose engine is quiescing, takes the entry out of the buffer and merges it, after
which the flush may end (R158 to R160, R345); where the read of its block fails or has bad parity, the entry is lost, and the
error is recorded (R161, R307, R347); where a check of the fabric fails, it is recorded and the entry is not merged (R297, R298).
R155: the block states of a window whose enable was accepted take INITST, bit by bit of the block-state plane, and then ACTIVE
becomes 1. -/
def Obligations.InlineMerge : Prop :=
  (∀ (e i b : Nat) (s : State) (w : WcEntry),
     (s.eng e).entry? i b = some w →
     ((s.eng e).isOn = true ∧ w.inFlush = true ∧ (s.eng e).testing = false ∧ (s.eng e).holding = false) ∨
       (s.eng e).st = .quiescing →
     exec (.merge e i b .ok) s = .next ((mergeEntry (dropEntry s e i b) e w).flushEnd i) ∧
     exec (.merge e i b .stackErr) s =
       .next ((dropEntry (external s e false { lockind := 2, loc := b, win := i, noctx := true }) e i b).flushEnd i) ∧
     exec (.merge e i b .parity) s =
       .next ((dropEntry (external s e true { lockind := 2, loc := b, win := i, noctx := true }) e i b).flushEnd i) ∧
     ∀ k : Detection, k.kind ≠ .secdedCorr → exec (.merge e i b (.failed k)) s = .next (inlineFails s e i b k)) ∧
  (∀ (i : Nat) (s : State) (x : InlineWin), x = s.inl i → x.initPending = true →
     exec (.inlineActivate i) s = .next ((s.setMem ((List.range x.use.blocks).foldl (fun m k =>
         Mem.wrBits m (s.inlBase x.use + x.use.stateOff) (2 * k) 2 (bit x.use.initSt)) s.mem)).setInl i
       { x with initPending := false, active := true }))

/-! ## Frames -/

/-- R249: a frame with a bad FCS, or with bad parity in one of its beats (R347), is dropped and counted in DROP_FCS; one with a
wrong EtherType or UDP port, another version, or TYPE 0xE or 0xF in DROP_HDR; one of another domain, for another device or from
no member in DROP_ADDR. A dropped frame has no other effect. A failed UDP checksum counts in DROP_FCS (the model's choice, log
96), and of several reasons the first of these counters is raised (log 102). In a ribbon hold every frame but a HEARTBEAT is
counted in HOLDDROP instead (R333). -/
def Obligations.FramesDropped : Prop :=
  ∀ (row : Nat → RxFrame → Instr) (ty p : Nat) (f : RxFrame) (s : State),
    (row, ty) ∈ [(Instr.data, 0), (Instr.ack, 1), (Instr.nak, 2), (Instr.credit, 3), (Instr.announce, 4), (Instr.abort, 5),
      (Instr.heartbeat, 6), (Instr.leaseReq, 7), (Instr.leaseGrant, 8), (Instr.mark, 9), (Instr.markAck, 10), (Instr.join, 11),
      (Instr.joined, 12), (Instr.elected, 13)] →
    (f.frame.hdr.ftype = ty ∨ 14 ≤ f.frame.hdr.ftype) →
    (Hears s p f.frame.hdr.ftype → fcsBad s p f = true → exec (row p f) s = .next (dropFcs s p)) ∧
    (Hears s p f.frame.hdr.ftype → fcsBad s p f = false →
      (protoOk s p f = false ∨ f.frame.hdr.version ≠ 1 ∨ 14 ≤ f.frame.hdr.ftype) →
      exec (row p f) s = .next (dropHdr s p)) ∧
    (Hears s p f.frame.hdr.ftype → fcsBad s p f = false → protoOk s p f = true → f.frame.hdr.version = 1 →
      f.frame.hdr.ftype < 14 →
      (f.frame.hdr.domain ≠ s.dom.domain ∨ f.frame.hdr.dst ≠ s.dom.deviceId ∨ memberValid s f.frame.hdr.src = false) →
      exec (row p f) s = .next (dropAddr s p)) ∧
    (p < 32 → linkLive s p = true → (s.eng (peEng p)).fenced = false → (s.eng (peEng p)).holding = true →
      f.frame.hdr.ftype ≠ 6 → exec (row p f) s = .next (s.modLink p (fun l =>
        { l with cnt := { l.cnt with holdDrop := satInc32 l.cnt.holdDrop 1 } })))

/-- A frame for a device of the domain, handed to a link that may send it at once, with nothing waiting, goes to the MAC on the
priority of its class with its bytes; a frame for a device without a VALID entry is not sent (R244). Contexts, windows and the
domain words stay, and with the trace off nothing but links and outputs changes (R243, R250). -/
def Obligations.FrameGoesOut : Prop :=
  ∀ (s : State) (p : Nat) (f : Frame), SendOnly s (sendFrame s p f) ∧
    (maySend s p f.hdr = true → (s.link p).txq = [] → memberValid s f.hdr.dst = true →
      ∃ l, (sendFrame s p f).outputs = s.outputs ++ [frameOut s p f] ++ l ∧ l.all Output.isRequest = true ∧
        (s.trace.on = false → l = [])) ∧
    (memberValid s f.hdr.dst = false → sendFrame s p f = s)

/-- ACK, CREDIT and NAK. An ACK releases the unacknowledged frames before its SEQ (R254); a CREDIT with a higher limit is
taken with its reserved bucket, any other is ignored (R252, R253); a NAK is counted, and where its SEQ is unacknowledged has
that frame and those after it sent again with RETX (R255), which a WAITING instance does not (R236). TICKET_SEEN rises
(R261). -/
def Obligations.StreamFrames : Prop :=
  ∀ (p : Nat) (f : RxFrame) (s u v : State) (h : FrameHdr) (x : TxStream),
    h = f.frame.hdr → u = seeTicket (heard s p f) h.ticket → x = (u.link p).txOf h.job h.ticket h.src →
    (Accepts s p 1 f → x.unacked.any (fun g => before16 g.hdr.seq h.seq) = true →
      exec (.ack p f) s = .next (leaveCtl (workLink (takeAck u p h) p) p) ∧
        ((takeAck u p h).link p).txOf h.job h.ticket h.src =
          { x with unacked := x.unacked.filter (fun g => !before16 g.hdr.seq h.seq) }) ∧
    (Accepts s p 3 f → ((u.link p).inst? h.job h.ticket).isSome = true →
      (before16 x.limit h.seq = true →
        exec (.credit p f) s = .next (leaveCtl (workLink (u.modLink p (fun l => l.setTx
          { x with limit := h.seq, lres := if bitAt h.flags 5 then some h.bucket else none })) p) p)) ∧
      (before16 x.limit h.seq = false → exec (.credit p f) s = .next (leaveCtl (workLink u p) p))) ∧
    (Accepts s p 2 f →
      v = u.modLink p (fun l => { l with cnt := { l.cnt with nakRx := satInc32 l.cnt.nakRx 1 } }) →
      (x.unacked.any (fun g => g.hdr.seq == h.seq) = true → (u.link p).permitted h.ticket = true →
        exec (.nak p f) s = .next (leaveCtl ((x.unacked.filter (fun g => !before16 g.hdr.seq h.seq)).foldl (fun s g =>
          sendFrame s p { g with hdr := { g.hdr with flags := g.hdr.flags ||| 8 } }) v) p)) ∧
      (x.unacked.any (fun g => g.hdr.seq == h.seq) = false ∨ (u.link p).permitted h.ticket = false →
        exec (.nak p f) s = .next (leaveCtl v p)))

/-- ANNOUNCE is kept, and the link goes on, where the bucket's own descriptor does not disagree; where it does, that descriptor
ends with TICKET_ABORT (R257); ABORT ends the descriptor of its bucket with TICKET_ABORT (R241). -/
def Obligations.BucketFrames : Prop :=
  ∀ (p : Nat) (f : RxFrame) (s u v : State) (h : FrameHdr),
    h = f.frame.hdr → u = seeTicket (heard s p f) h.ticket → v = u.modLink p (fun l => l.putAnn (annOf f.frame)) →
    (Accepts s p 4 f → ((u.link p).inst? h.job h.ticket).isSome = true →
      ((∀ x, u.bucketDesc p h.job h.ticket h.bucket = some x → x.2.over = true ∨ annAgrees x.2 (annOf f.frame) = true) →
        exec (.announce p f) s = .next (leaveCtl (workLink v p) p)) ∧
      (∀ c d, u.bucketDesc p h.job h.ticket h.bucket = some (c, d) → d.over = false → annAgrees d (annOf f.frame) = false →
        exec (.announce p f) s = .next (leaveCtl (workLink (abortBucket v p c d) p) p))) ∧
    (∀ c d, Accepts s p 5 f → u.bucketDesc p h.job h.ticket h.bucket = some (c, d) →
      exec (.abort p f) s = .next (leaveCtl (workLink (endDesc u c d.seq 0x21) p) p) ∧ EndsOnly c u (endDesc u c d.seq 0x21))

/-- A DATA frame for a present instance. One that is next in its stream, within its limit, for an announced bucket that it
fits, is accepted: EXPECT rises by one, the frame waits in the stream's buffer, RXFRAMES, RXBYTES and the job's count rise, its
digest enters the received signature, after every 8 an ACK goes, and the link goes on (R242, R254). A frame of an earlier
sequence is counted as a duplicate and acknowledged again; one of a later sequence asks for a retransmission, unless a NAK went
less than 8 µs ago (R255); one beyond its limit is ignored; one that its bucket's descriptor cannot have ends it (R241). A frame
of no present instance counts in STALE, or in PROTO (R257). -/
def Obligations.DataFrames : Prop :=
  ∀ (p : Nat) (f : RxFrame) (s u yes no : State) (h : FrameHdr),
    h = f.frame.hdr → Accepts s p 0 f →
    u = seeTicket (s.modLink p (fun l => { l with lost := l.lost.filter (· ≠ h.src) })) h.ticket →
    yes = traceFrame u (peEng p) h true true → no = traceFrame u (peEng p) h true false →
    ((s.link p).inst? h.job h.ticket = none →
      (isStale s p h.job h.ticket = true → exec (.data p f) s = .next (no.modLink p countStale)) ∧
      (isStale s p h.job h.ticket = false → otherTicket s p h = none →
        exec (.data p f) s = .next (no.modLink p countProto))) ∧
    (∀ (i : Inst) (r r' : RxStream), (s.link p).inst? h.job h.ticket = some i → (s.link p).rx? h.job h.ticket h.src = some r →
      r' = { r with expect := (r.expect + 1) % 65536, unackedRx := r.unackedRx + 1, nak := 0, buf := r.buf ++ [f.frame] } →
      (before16 h.seq r.expect = true →
        exec (.data p f) s = .next (sendFrame (no.modLink p (fun l => (countDup l).setRx { r with unackedRx := 0 })) p
          { hdr := { ctrlHdr s 1 r.src with job := r.job, ticket := r.ticket, seq := r.expect } })) ∧
      (before16 h.seq r.expect = false → bucketKnown i (s.bucketDesc p h.job h.ticket h.bucket) h.bucket = true →
        (∀ c d, s.bucketDesc p h.job h.ticket h.bucket = some (c, d) → d.over = false → frameFits d f.frame = false →
          exec (.data p f) s = .next (abortBucket no p c d)) ∧
        ((∀ x, s.bucketDesc p h.job h.ticket h.bucket = some x → x.2.over = true ∨ frameFits x.2 f.frame = true) →
          (h.seq ≠ r.expect →
            exec (.data p f) s = .next (if r.nak ≠ 0 ∧ s.time + 1 < r.nak + 8000 then no
              else sendFrame (no.modLink p (fun l => l.setRx { r with nak := s.time + 1 })) p
                { hdr := { ctrlHdr s 2 r.src with job := r.job, ticket := r.ticket, seq := r.expect } })) ∧
          (h.seq = r.expect → before16 h.seq r.limit = false → exec (.data p f) s = .next no) ∧
          (h.seq = r.expect → before16 h.seq r.limit = true →
            ∃ v j, j = (s.link p).job h.job ∧
              exec (.data p f) s = .next (workLink (if 8 ≤ r'.unackedRx then
                  sendFrame (v.modLink p (fun l => l.setRx { r' with unackedRx := 0 })) p
                    { hdr := { ctrlHdr s 1 r.src with job := r.job, ticket := r.ticket, seq := r'.expect } }
                else v) p) ∧
              v = { yes with links := v.links } ∧ (v.link p).rx? h.job h.ticket h.src = some r' ∧
              (v.link p).tx = (s.link p).tx ∧
              (v.link p).cnt = { (s.link p).cnt with
                rxFrames := (s.link p).cnt.rxFrames + 1, rxBytes := (s.link p).cnt.rxBytes + f.frame.payload.length } ∧
              (v.link p).job h.job = { j with
                rx := j.rx + 1, recvPart := (sigStep j.recvPart h.src (rankOf i.members h.src) f.frame).1
                recvSig := j.recvSig ^^^ (sigStep j.recvPart h.src (rankOf i.members h.src) f.frame).2 }))))

/-- HEARTBEAT, JOIN, JOINED, MARK: while JOIN is 1 a HEARTBEAT that is not an echo, with nothing sent to its sender in the last 2
µs, is answered with ECHO (R258, R263); the keystone answers JOIN with JOINED and its published mark (R263), and sends a deputy
that joins the MARK too (the model's reading, log 100); JOINED from the keystone sets MEMBER (R263); a member acknowledges its
keystone's MARK (R264). TICKET_SEEN rises with every ticket seen (R261). -/
def Obligations.DomainFrames : Prop :=
  ∀ (p : Nat) (f : RxFrame) (s u : State) (h : FrameHdr),
    h = f.frame.hdr → u = heard s p f →
    (Accepts s p 6 f → s.dom.join = true → bitAt h.flags 6 = false → sentLately u p h.src = false →
      exec (.heartbeat p f) s = .next (leaveCtl (sendFrame u p { hdr := { ctrlHdr u 6 h.src with flags := 64 } }) p)) ∧
    (∀ v, Accepts s p 11 f → s.isIssuer = true →
      v = sendFrame u p { hdr := { ctrlHdr u 12 h.src with ticket := s.dom.mark } } →
      exec (.join p f) s = .next (leaveCtl (if h.src ∈ s.dom.deputies then
        sendFrame v s.dom.kport { hdr := { ctrlHdr u 9 h.src with ticket := s.dom.mark } } else v) p)) ∧
    (Accepts s p 12 f → s.dom.join = true → s.dom.member = false → h.src = s.dom.keystone →
      exec (.joined p f) s = .next (leaveCtl { u with dom := { s.dom with
        ticketSeen := max s.dom.ticketSeen h.ticket, member := true } } p)) ∧
    (Accepts s p 9 f → s.dom.member = true → h.src = s.dom.keystone →
      exec (.mark p f) s = .next (leaveCtl (sendFrame (seeTicket u h.ticket) p
        { hdr := { ctrlHdr u 10 h.src with ticket := h.ticket } }) p))

/-- Leases and elections: the keystone gives a new request the next 256 tickets when its limit lets it, and records the
grant (R264); a grant from the keystone completes the lease that waits for it on this PE; MARK_ACK of a deputy raises its
mark; a device with JOIN 1 that receives ELECTED takes its sender for its keystone and ends the leases that waited (R265). -/
def Obligations.LeaseFrames : Prop :=
  ∀ (p : Nat) (f : RxFrame) (s u : State) (h : FrameHdr),
    h = f.frame.hdr → u = heard s p f →
    (Accepts s p 7 f → s.isIssuer = true → h.src ≠ s.dom.deviceId → mayIssue u = true →
      s.dom.served.find? (fun r => r.1 == h.src && r.2.1 == h.job && r.2.2.1 == h.seq) = none →
      exec (.leaseReq p f) s = .next (leaveCtl (
        let t := s.dom.nextTicket
        let v := takeBlock u
        sendGrant { v with dom := { v.dom with served := v.dom.served ++ [(h.src, h.job, h.seq, t)] } } p h.src h.job h.seq t) p)) ∧
    (Accepts s p 8 f → h.src = s.dom.keystone → u.leases.contains (h.job, h.seq) = true → u.engOf h.job = peEng p →
      exec (.leaseGrant p f) s = .next (leaveCtl ((seeTicket u (h.ticket + 255)).modDesc h.job h.seq
        (fun d => if d.over then d else { d with leaseTicket := some h.ticket, finished := true })) p)) ∧
    (Accepts s p 10 f → s.isIssuer = true → s.dom.deputies.contains h.src = true → s.dom.waiting = [] →
      ∃ v : State, v = { u with dom := { s.dom with
          ticketSeen := max s.dom.ticketSeen h.ticket
          acks := SMap.set s.dom.acks 0 h.src (max (SMap.get s.dom.acks 0 h.src) h.ticket) } } ∧
        exec (.markAck p f) s = .next (leaveCtl (if markDue v then publishMark v else v) p)) ∧
    (Accepts s p 13 f → s.dom.join = true → h.src ≠ s.dom.keystone →
      ∃ v : State, v = abortLeases (seeTicket u h.ticket) ∧
        exec (.elected p f) s = .next (leaveCtl { v with dom := { v.dom with
          keystone := h.src, issuing := false, served := [], waiting := []
          deputies := v.twoLowest h.src (fun d => !v.isLost d), acks := [] } } p))

/-- A bucket that may issue (R236) becomes OPEN: its descriptor's phase is OPEN, each upstream member has a receive stream and is
sent an ANNOUNCE of the bucket (R237, Table 12.4), an all-to-all over no elements leaves its counts of zero (R234, R365), and the
link goes on. A chain of an OPEN bucket that the member starts, with room granted by its neighbour and its chunks held CLAIMED,
is marked as started: of a reduce kind the frames of its first course wait in the stream to the neighbour (R224, R238); of a
distribution kind its elements are written and their frames wait there. -/
def Obligations.BucketsAndChains : Prop :=
  ∀ (c q p : Nat) (s : State) (d : Desc), s.desc? c q = some d → isPe (s.engOf c) = true → p = s.engOf c - 96 →
    (bucketMayIssue s p c d = true →
      ∃ w, exec (.bucketIssue c q) s = .next (workLink ((d.upstream.map (fun k => nth d.coll.members k 0)).foldl (fun w m =>
          sendFrame w p { hdr := { ctrlHdr s 4 m with job := d.job, ticket := d.ticket, bucket := d.bucket, kind := d.kind,
                                                      pfmt := d.annFmt, flags := if d.pairSum then 16 else 0, plen := 16 }
                          payload := leBytes 8 d.count ++ leBytes 8 d.sfmtW }) w) p) ∧
        w.desc? c q = some { d with coll := { d.coll with phase := 1 } } ∧ SameSetup s w ∧ w.err = s.err ∧ w.trace = s.trace ∧
        (w.link p).tx = (s.link p).tx ∧ (w.link p).insts = (s.link p).insts ∧ (∀ x, x ≠ c → w.ctx x = s.ctx x) ∧
        (∀ k ∈ d.upstream, ((w.link p).rx? d.job d.ticket (nth d.coll.members k 0)).isSome = true) ∧
        w.mem = if d.kind = 5 ∧ d.count = 0 then
            Mem.wrBytes s.mem (s.addrOf d.dwin d.doff) (List.replicate (4 * d.cn) 0) else s.mem) ∧
    (∀ (k nx dest : Nat) (r : Nat × Nat), bucketWorks s p c d = true → d.starts.contains k = true →
      d.coll.started.contains k = false → d.started = true ∨ s.trace.on = false → d.cn ≠ 1 →
      nx = (d.cr + 1) % d.cn → dest = nth d.coll.members nx 0 → r = d.chainRange d.cn k →
      (d.kind = 0 ∨ d.kind = 2 → mayStart s p d nx false = true →
        HeldAll s d (d.srcRun (d.srcIx d.cn d.cr r.1) r.2) →
        ∃ v w, exec (.chainStart c q k) s = .next (workLink v p) ∧
          (v.desc c q).coll = { d.coll with started := d.coll.started ++ [k] } ∧ SameSetup s v ∧ v.mem = s.mem ∧
          w.mem = s.mem ∧ SameSetup s w ∧
          ((v.link p).txOf d.job d.ticket dest).waiting = ((s.link p).txOf d.job d.ticket dest).waiting ++
            chunkFrames s d dest false k 0 false (courseFirst w d d.cn d.cr r.1 r.2)) ∧
      (d.kind = 1 ∨ d.kind = 3 ∨ d.kind = 4 → mayStart s p d nx true = true →
        HeldAll s d (d.srcRun (d.srcIx d.cn d.cr r.1) r.2 ++ d.dstRun (d.dstIx d.cn d.cr r.1) r.2) →
        ∃ v w, exec (.chainStart c q k) s = .next (workLink v p) ∧
          (v.desc c q).coll.started = d.coll.started ++ [k] ∧ SameSetup s v ∧ w.mem = s.mem ∧ SameSetup s w ∧
          v.mem = writeRaw s.mem (d.collDst w d.cn) (d.dstIx d.cn d.cr r.1) (originRun w d d.cn d.cr r.1 r.2).run ∧
          ((v.link p).txOf d.job d.ticket dest).waiting = ((s.link p).txOf d.job d.ticket dest).waiting ++
            chunkFrames s d dest true k 1 false (originRun w d d.cn d.cr r.1 r.2).run)) ∧
    (∀ k, bucketWorks s p c d = true → d.starts.contains k = true → d.coll.started.contains k = false →
      (d.kind = 5 → exec (.chainStart c q k) s = .next (workLink (startSegment s p c d k) p)) ∧
      (d.kind = 6 → exec (.chainStart c q k) s = .next (workLink (startPiece s p c d k) p)))

/-! ## Timers of the link and the domain -/

/-- What goes out when a timer of the link or the domain runs out: while JOIN is 1, HEARTBEAT to a watched device that has been
sent nothing for 2 µs (R258) and a probe of a lost device (R259); JOIN while JOIN is 1 and MEMBER is 0 (R263); LEASE_REQ for a
lease that still waits, which ends with TICKET_ABORT after a millisecond without a grant (R264). -/
def Obligations.TimersSend : Prop :=
  ∀ (s : State) (p dev c q : Nat),
    (s.dom.join = true → (watchSet s p).contains dev = true → sentLately s p dev = false →
      exec (.heartbeatTimer p dev) s = .next (sendFrame s p { hdr := ctrlHdr s 6 dev })) ∧
    (s.dom.join = true → (s.link p).lost.contains dev = true →
      exec (.lostProbe p dev) s = .next (sendFrame s p { hdr := ctrlHdr s 6 dev })) ∧
    (s.dom.join = false → exec (.heartbeatTimer p dev) s = .next s ∧ exec (.lostProbe p dev) s = .next s) ∧
    (s.dom.join = true → s.dom.member = false →
      exec .joinRetry s = .next (sendFrame s s.dom.kport { hdr := ctrlHdr s 11 s.dom.keystone })) ∧
    (s.leases.contains (c, q) = true → s.isIssuer = false →
      exec (.leaseRetry c q) s = .next (sendFrame s (s.engOf c - 96)
        { hdr := { ctrlHdr s 7 s.dom.keystone with job := c, seq := q } })) ∧
    (s.leases.contains (c, q) = true →
      exec (.leaseTimeout c q) s = .next (endDesc { s with dom := { s.dom with
        waiting := s.dom.waiting.filter (fun r => !(r.1 == s.dom.deviceId && r.2.1 == c && r.2.2.1 == q)) } } c q 0x21))

/-- The stream timers of a present instance (R252 to R255): the acknowledgement that is owed, with the next sequence
expected; CREDIT when the limit is above the one last sent, and again while credit is unused, with bucket L reserved on a
stream that may hold more than four buffers (the model's choice, log 16); every unacknowledged frame again when the oldest is
not acknowledged in time, unless its instance is WAITING (R236). -/
def Obligations.StreamTimers : Prop :=
  ∀ (s : State) (p job ticket dev : Nat) (r : RxStream) (l : Link), l = s.link p → l.rx? job ticket dev = some r →
    linkLive s p = true → (s.eng (peEng p)).holding = false →
    (0 < r.unackedRx → exec (.ackTimer p job ticket dev) s =
      .next (sendFrame (s.modLink p (fun l => l.setRx { r with unackedRx := 0 })) p
        { hdr := { ctrlHdr s 1 dev with job := job, ticket := ticket, seq := r.expect } })) ∧
    (∀ i u, l.inst? job ticket = some i → l.permitted ticket = true →
      u = sendFrame (s.modLink p (fun l => l.setRx { r with sent := r.limit })) p
          { hdr := { ctrlHdr s 3 dev with job := job, ticket := ticket, seq := r.limit,
                                          flags := if 4 < streamShare s p i dev then 32 else 0,
                                          bucket := if 4 < streamShare s p i dev then i.low else 0 } } →
      (r.limit ≠ r.sent → exec (.creditDelay p job ticket dev) s = .next u) ∧
      (before16 r.expect r.limit = true → exec (.creditRepeat p job ticket dev) s = .next u)) ∧
    (∀ f rest, (l.txOf job ticket dev).unacked = f :: rest → l.permitted ticket = true →
      exec (.retransmitTimeout p job ticket dev) s = .next (
        ((f :: rest).filter (fun g => !before16 g.hdr.seq f.hdr.seq)).foldl (fun s g =>
          sendFrame s p { g with hdr := { g.hdr with flags := g.hdr.flags ||| 8 } }) s))

/-- R259: a watched device that has been silent is marked lost and counted; every descriptor of a present instance whose
group holds it ends with PEER_LOST, on the domain port the succession of R265 follows, and the link goes on. R260 and
R250: a link that goes down changes LINKUP alone; one that comes up, or a priority that the peer pauses or releases, lets
out what may now go. -/
def Obligations.LinkEvents : Prop :=
  (∀ (s u : State) (p dev : Nat), linkLive s p = true →
     (watchSet s p).contains dev = true → (s.link p).lost.contains dev = false →
     u = loseInstances (s.modLink p (fun l => { l with
       lost := l.lost ++ [dev], cnt := { l.cnt with lost := satInc32 l.cnt.lost 1 } })) p dev →
     exec (.declareLost p dev) s = .next (workLink (if p = s.dom.kport then succession u else u) p)) ∧
  (∀ (s : State) (p n : Nat),
     exec (.linkDown p) s = .next (s.setEng (96 + p) { s.eng (96 + p) with linkUp := false }) ∧
     exec (.linkUp p) s = .next (pump (s.setEng (96 + p) { s.eng (96 + p) with linkUp := true }) p) ∧
     ((s.link p).paused.contains n = false →
       exec (.pauseIn p n true) s = .next (pump (s.modLink p (fun l => { l with paused := l.paused ++ [n] })) p)) ∧
     exec (.pauseIn p n false) s = .next (pump (s.modLink p (fun l => { l with paused := l.paused.filter (· ≠ n) })) p))

/-! ## Engines, power and clocks -/

/-- R345: STARTING is left by power good, PLL lock (from which FCUR is the lower of FREQ and a ceiling in force), the
clearing of the SRAMs and a boot self-test that passes, which makes the engine ON with its counters at 0, its trace unit
following TRON (R346); an engine whose ENABLE reads 0 by then goes on to QUIESCING. -/
def Obligations.EngineStarts : Prop :=
  ∀ (e : Nat) (s : State) (x : Engine), x = s.eng e → x.st = .starting →
    (x.startStep = 0 → exec (.islandPowerGood e) s = .next (s.setEng e { x with startStep := 1 })) ∧
    (x.startStep = 1 → exec (.pllLock e) s = .next (s.setEng e { x with
      startStep := 2, fcur := if s.pwr.capEn then min x.freq s.pwr.ceiling else x.freq })) ∧
    (x.startStep = 2 → exec (.sramClearDone e) s = .next (s.setEng e { x with startStep := 3 })) ∧
    (x.startStep = 3 → ∀ unit quire pattern us,
      (x.enable = true → exec (.bootSelfTestEnd e true unit quire pattern us) s =
        .next (traceUnit (s.setEng e { x with st := .on, startStep := 0, bootFail := false, cnt := {} }) e)) ∧
      (x.enable = false → ∃ t, exec (.bootSelfTestEnd e true unit quire pattern us) s = .next t ∧
        (t.eng e).st = .quiescing ∧ (t.eng e).bootFail = false ∧ (t.eng e).linkEn = false))

/-- A boot self-test that fails sets BOOTFAIL, FENCED and DEGRADED, writes one LASTING record, and the engine goes OFF
(R345, R367). An engine leaves QUIESCING for OFF when no descriptor, no request, no write-combining entry, no self-test, no
held access and no hold is left, and starts again at once where ENABLE reads 1 (R302, R304, R345); with any of them left it
stays. -/
def Obligations.EngineStops : Prop :=
  (∀ (e unit quire pattern us : Nat) (s u : State), (s.eng e).st = .starting → (s.eng e).startStep = 3 →
     u = s.modEng e (fun x => { x with
       bootFail := true, fenced := true
       unitErr := SMap.set x.unitErr 0 (unitKey unit quire) (min 0xFFFF (SMap.get x.unitErr 0 (unitKey unit quire) + 1)) }) →
     exec (.bootSelfTestEnd e false unit quire pattern us) s = .next (goOff
       (writeErr { u with err := { u.err with degraded := true } }
         { time := s.time, ref := s.err.tail, synd := pattern % 65536 * 65536 + us % 65536
           uniterr := min 0xFFFF (SMap.get (s.eng e).unitErr 0 (unitKey unit quire) + 1), engine := e, unit := unit
           quire := if unit = 0 then quire else 0, kind := 5, cls := 2, noctx := true, type := 2 }) e)) ∧
  (∀ (e : Nat) (s : State), (s.eng e).st = .quiescing → (s.eng e).wc = [] → (s.eng e).reqs = [] → (s.eng e).tests = [] →
     (s.eng e).heldIn = [] → (s.eng e).holding = false → (∀ c ∈ s.residents e, (s.ctx c).descs = []) →
     exec (.quiesceEnd e) s = .next (maybeStart (goOff s e) e)) ∧
  (∀ (e : Nat) (s : State), ((s.eng e).tests ≠ [] ∨ (s.eng e).heldIn ≠ [] ∨ (s.eng e).holding = true ∨ (s.eng e).wc ≠ [] ∨
     (s.eng e).reqs ≠ [] ∨ ∃ c ∈ s.residents e, (s.ctx c).descs ≠ []) →
     exec (.quiesceEnd e) s = .next s)

/-- ENABLE, LINKEN and FREQ of an engine's control word, written while fabric power runs (R245, R339, R344, R345): a 1 in
ENABLE of an OFF engine that is not fenced, with an image adopted and its rail good, starts it under the present epoch; a
0 in ENABLE of an ON engine quiesces it; LINKEN of an ON PE becomes 1 where the two priorities of LINKCFG differ; FREQ is
taken on its grid. -/
def Obligations.EngineControl : Prop :=
  ∀ (e m : Nat) (v : Word64) (be : BitVec 8) (s : State) (x : Engine),
    BusTakes s be → s.pins.fabRstN = true → x = s.eng e → m = merged (engctlRead x e) v be →
    (isPe e = false → x.st = .off → x.enable = false → x.linkEn = false → bitAt m 63 = true → bitAt m 58 = false →
      s.img.adopted.isSome = true → x.fenced = false → railGood s e = true →
      exec (.engineEnable e v be) s = .next (busOk (s.setEng e { x with
        enable := true, freq := freqGrid (bits m 43 32), st := .starting, startStep := 0, epoch := s.epoch, chan := [] }))) ∧
    (isPe e = false → x.st = .on → bitAt m 63 = false → bitAt m 58 = false →
      exec (.engineDisable e v be) s = .next (busOk (startQuiesce
        (s.setEng e { x with enable := false, linkEn := false, freq := freqGrid (bits m 43 32) }) e))) ∧
    (isPe e = false → x.st = .on → x.enable = true → x.linkEn = false → bitAt m 63 = true → bitAt m 58 = false →
      exec (.freq e v be) s = .next (busOk (s.setEng e { x with freq := freqGrid (bits m 43 32) }))) ∧
    (∀ p, e = 96 + p → p < 32 → x.st = .on → x.enable = true → bitAt m 63 = true → x.linkEn = false → bitAt m 58 = true →
      railGood s e = true → lcPrioData x.linkCfg ≠ lcPrioCtrl x.linkCfg →
      ∃ u, u = s.setEng e { x with linkEn := true, freq := freqGrid (bits m 43 32) } ∧
        exec (.linken p v be) s = .next (busOk (workLink (pump u p) p)))

/-- The power cap (R340): every 10 µs PWREST is formed, linear in each engine's FCUR and ACTIVE fraction over the period, at
least 5.6 W and at most 300 W, so that a CAP of 3,000 never lowers the ceiling; above CAP the ceiling falls by 25 MHz to no
less than 800; after ten periods in a row below 0.95 of CAP it rises by 25 MHz to no more than 1,700; with CAPEN 0 it stays.
The coefficients are the model's free values, and its units and bound are the model's (log 6). A change of FREQ or of the ceiling takes effect at an engine whose clock runs: FCUR is the lower of FREQ and the ceiling while CAPEN is 1, else
FREQ (R339, R340). -/
def Obligations.PowerCapAndClock : Prop :=
  (∀ s : State, ∃ (est : Nat) (prev : List (Nat × Nat × Nat)) (use : List (Nat × Nat × Nat × Nat)),
     56 ≤ est ∧ est ≤ 3000 ∧ est = pwrEstimate (imgSection (s.img.adopted.getD []) 6) use ∧
     use.map (fun u => (u.1, u.2.1)) = s.engines.map (fun p => (p.1, p.2.fcur)) ∧
     exec .powerCapPeriod s = .next { s with pwr := { s.pwr with
       rest := est, prev := prev
       ceiling := if s.pwr.capEn then
           (if s.pwr.capEff < est then max 800 (s.pwr.ceiling - 25)
           else if est * 100 < 95 * s.pwr.capEff && s.pwr.low + 1 = 10 then min 1700 (s.pwr.ceiling + 25) else s.pwr.ceiling)
         else s.pwr.ceiling
       low := if s.pwr.capEn && !decide (s.pwr.capEff < est) && est * 100 < 95 * s.pwr.capEff && s.pwr.low + 1 ≠ 10
         then s.pwr.low + 1 else 0 } }) ∧
  (∀ (e : Nat) (s : State), (s.eng e).st ≠ .off → (s.eng e).fcur ≠ 0 →
     exec (.clockChange e) s = .next (s.setEng e { s.eng e with
       fcur := if s.pwr.capEn then min (s.eng e).freq s.pwr.ceiling else (s.eng e).freq }))

/-! ## Self-tests -/

/-- A targeted self-test starts for a unit with a PENDING detection; when it ends, the pattern sources of the unit's lanes have
run, and its outcome record repeats the detection record: after a pass as TRANSIENT, its REDO saying whether a chunk is redone,
the TRANSIENT count raised, and what the engine held goes on; after a failure as LASTING, and the engine is fenced (R302 to
R305, R308; which chunks are redone is the model's reading, log 103). The watch unit and the trace port (R346, R352): the watch
unit of an ON or QUIESCING engine goes from STARTING to ON, and the commands that waited for it run; it goes back to OFF after its
idle time with no active watch in use, its QUIESCING one instant (log 29); the port goes from training to sending. -/
def Obligations.UnitEvents : Prop :=
  (∀ (e unit quire pattern us : Nat) (s u v : State) (t : SelfTest) (redo : Bool),
     exec (.selfTestStart e unit quire) s = .next (s.setEng e { s.eng e with
       tests := (s.eng e).tests.map (fun t =>
         if unitKey t.unit t.quire = unitKey unit quire then { t with started := true } else t) }) ∧
     ((s.eng e).tests.find? (fun t => t.started && unitKey t.unit t.quire == unitKey unit quire) = some t →
       u = runSources s e t.unit t.quire →
       (v, redo) = redoAfter u e t →
       (∃ w y, w = writeErr v { t.record with type := 2, cls := 1, redo := redo, time := v.time, synd := us % 65536 } ∧
         y = { w.setEng e { w.eng e with
             tests := (w.eng e).tests.filter (fun x => unitKey x.unit x.quire != unitKey t.unit t.quire) } with
           err := { w.err with trans := (w.err.trans + 1) % 2 ^ 40 } } ∧
         exec (.selfTestEnd e unit quire true pattern us) s = .next (
           if (y.eng e).tests.any (·.started) = true ∨ (y.eng e).fenced = true ∨ (y.eng e).holding = true then y
           else linkOn (releaseInline y e) e)) ∧
       (∃ w y, w = writeErr u { t.record with
             type := 2, cls := 2, redo := false, time := u.time, synd := pattern % 65536 * 65536 + us % 65536 } ∧
         y = fence (w.setEng e { w.eng e with
             tests := (w.eng e).tests.filter (fun x => unitKey x.unit x.quire != unitKey t.unit t.quire) }) e t.unit ∧
         exec (.selfTestEnd e unit quire false pattern us) s = .next (
           if (y.eng e).tests.any (·.started) = true ∨ (y.eng e).fenced = true ∨ (y.eng e).holding = true then y
           else linkOn (releaseInline y e) e))) ∧
     ((s.eng e).tests.find? (fun t => t.started && unitKey t.unit t.quire == unitKey unit quire) = none → ∀ pass,
       exec (.selfTestEnd e unit quire pass pattern us) s = .next s)) ∧
  (∀ (e : Nat) (s : State) (x : Engine), x = s.eng e →
     (x.st = .on ∨ x.st = .quiescing → x.watchFn = .starting →
       exec (.watchStartingEnd e) s = .next (linkOn ((s.residents e).foldl (fun v c =>
         ((v.ctx c).descs.map (·.seq)).foldl (fun v q => runWhole v c q) v) (s.setEng e { x with watchFn := .on })) e)) ∧
     (x.watchFn = .on → watchInUse s e = false →
       exec (.watchIdleTimeout e) s = .next (s.setEng e { x with watchFn := .off })) ∧
     (s.trace.port = .training →
       exec .tracePortTraining s = .next { s with trace := { s.trace with port := .sending } }))

/-! ## Counters, trace and the ribbon -/

/-- R316: at a sample point of an engine whose sampling is on and whose context records are off, the periodic record goes
to the next slot of the engine's segment, and its two record numbers rise; the set-up words stay, and only requests to memory
go out. That the record counts itself in SAMPLE is log 12, and that a point stands at the next multiple of 2^20 fclk log 63. -/
def Obligations.SamplePoint : Prop :=
  ∀ (e : Nat) (s u : State), (s.eng e).works = true → (s.eng e).holding = false → s.samp.on = true →
    s.samp.ctxOn = false → (s.eng e).ctxEff = false →
    u = fixCut (passFclk s e (nextPoint (s.eng e) - (s.eng e).cnt.fclk)) e →
    ∃ t, exec (.samplePoint e) s = .next t ∧
      t.mem = Mem.wrBytes s.mem (s.samp.base * 256 + 256 * (e * s.samp.slots + (s.eng e).recNo % s.samp.slots))
        (sampleBytes (u.eng e).cnt s.time (((s.eng e).sampleNo + 1) % 2 ^ 32) e 1 0 (s.eng e).fcur
          (if isPe e then (u.eng e).cnt.rescales else 0) (s.eng e).recNo) ∧
      (t.eng e).recNo = ((s.eng e).recNo + 1) % 2 ^ 32 ∧ (t.eng e).sampleNo = ((s.eng e).sampleNo + 1) % 2 ^ 32 ∧
      (t.eng e).sampEff = true ∧ (t.eng e).cnt.fclk = nextPoint (s.eng e) ∧ (t.eng e).lastPoint = nextPoint (s.eng e) ∧
      SameSetup s t ∧ t.links = s.links ∧ t.err = s.err ∧ t.trace = s.trace ∧
      ∃ l, t.outputs = s.outputs ++ l ∧ ∀ o ∈ l, Output.isRequest o = true

/-- R322: SNAP written 1 while BUSY is 0 sets BUSY and takes the sum of the engines' counters as they stand (log 20); SNAP
while BUSY is 1 is ignored; when every engine has answered the aggregate record of kind 4 is written and BUSY clears. -/
def Obligations.Snapshot : Prop :=
  ∀ (v : Word64) (be : BitVec 8) (s : State), BusTakes s be →
    (bitAt (pulses v be) 63 = true → s.samp.busy = false →
      exec (.snap v be) s = .next (busOk { s with samp := { s.samp with
        busy := true, sums := s.engines.foldl (fun a p => a.add p.2.snapCounters) {} } })) ∧
    (s.samp.busy = true → exec (.snap v be) s = .next (busOk s) ∧
      exec .aggregateRecord s = .next { s with samp := { s.samp with
        busy := false, sums := {}, agg := sampleBytes s.samp.sums s.time 0 0 4 0 0 s.samp.sums.rescales 0 } })

/-- The ribbon (R331 to R336): the island grants the first RIBBON that still waits, and the marker, with its tag and the HOLD
bit, goes out on the channel of every engine that works; an engine takes its marker after what its channel carries before it,
which fixes t_c, and sends it on its own request channels; an engine whose response channels have returned the marker captures:
its counters stand as at the end of fclk t_c, and its cut sample and CUT trace record are written. -/
def Obligations.RibbonCut : Prop :=
  ∀ (e : Nat) (s : State) (x : Engine), x = s.eng e →
    (∀ (c q : Nat) (d : Desc) (rest : List (Nat × Nat)), s.trace.cutBusy = false → s.trace.ribbons = (c, q) :: rest →
      (∀ r ∈ rest, (s.desc? r.1 r.2).isSome = true ∧ (s.desc r.1 r.2).over = false) →
      s.desc? c q = some d → d.over = false →
      exec .ribbonGrant s = .next (cutCheck { s with
        trace := { s.trace with
          ribbons := rest, granted := some (c, q), cutBusy := true, cutDone := false, lastTag := bits (d.w 2) 63 56
          cutHold := s.trace.hold }
        engines := SMap.mapVals s.engines {} (fun y =>
          if y.works then { y with
            cut := { part := true, tag := bits (d.w 2) 63 56, hold := s.trace.hold }
            chan := y.chan ++ [.marker (bits (d.w 2) 63 56) s.trace.hold] }
          else { y with cut := {} }) })) ∧
    (∀ tag hold l, x.cut.part = true → x.cut.marked = false → x.works = true → x.chan = .marker tag hold :: l →
      exec (.ribbonMarker e) s = .next ((s.setEng e { x with
        chan := l, cut := { x.cut with marked := true, tag := tag, hold := hold, tc := s.time } }).sendReqs e
          (markerReqs e tag))) ∧
    (∀ n l, x.cut.part = true → x.cut.marked = false → x.works = true → x.chan = .epoch n :: l →
      exec (.ribbonMarker e) s = .next (match ((takeAhead s e).eng e).chan with
        | .marker tag hold :: _ => cutPoint (takeAhead s e) e tag hold
        | _ => takeAhead s e)) ∧
    (x.cut.part = true → x.cut.marked = true → x.cut.captured = false → marksIn x e = true → ∃ u w,
      u = (if x.cut.fixed then s else fixCut (passFclk s e 1) e) ∧
      w = traceEmitAt (if (u.eng e).sampEff then
            writeSample u e 2 (u.eng e).cut.tag (u.eng e).cut.tc (u.eng e).cut.frozen else u) (u.eng e).cut.tc e 5 5
          (place s.time 64 128 + place (u.eng e).cut.tag 8 120 + place (bit (u.eng e).cut.hold) 1 119) ∧
      exec (.cutCapture e) s =
        .next (cutCheck (w.setEng e { w.eng e with cut := { (w.eng e).cut with captured := true } })))

/-- The end of a hold (R334): RELEASE finishes the RIBBON, STOPALL ends every fetched descriptor that has not completed with
STOPPED, whatever it has done, unless R184 puts another pending ending first (log 22); either clears CUTBUSY, and the engines that
were stopped go on. Both pulses of one write act as STOPALL (R363). With no hold to end, a second RELEASE among them, both pulses
change HOLD at most (log 65). -/
def Obligations.HoldEnds : Prop :=
  ∀ (v : Word64) (be : BitVec 8) (s u : State), BusTakes s be →
    u = { s with trace := { s.trace with hold := bitAt (merged (traceRead s.trace 4) v be) 63 } } →
    (s.trace.cutBusy = true → s.trace.cutDone = true → s.trace.cutHold = true →
      (∀ c q, bitAt (pulses v be) 62 = true → bitAt (pulses v be) 61 = false → s.trace.granted = some (c, q) →
        exec (.release v be) s = .next (busOk (endHold (u.modDesc c q (fun d => { d with finished := true }))))) ∧
      (bitAt (pulses v be) 61 = true →
        exec (.stopall v be) s = .next (busOk (endHold
          ((s.ctxs.map (·.1)).foldl stopCtx u))))) ∧
    ((s.trace.cutBusy && s.trace.cutDone && s.trace.cutHold) = false →
      exec (.release v be) s = .next (busOk u) ∧ exec (.stopall v be) s = .next (busOk u))

/-- TRON (R327, R334, R346, R352): from 0 to 1 the mode, the segment fields and TYPEMASK are taken, every segment starts afresh,
and in mode 1 the lanes train; while it stays 1 only TYPEMASK changes; from 1 to 0 a port that sends empties its queue before it
goes idle (logs 65, 101). -/
def Obligations.TraceControl : Prop :=
  ∀ (v : Word64) (be : BitVec 8) (s : State) (m : Nat), BusTakes s be → m = merged (traceRead s.trace 0) v be →
    (s.trace.on = false → bitAt m 63 = true →
      exec (.traceOn v be) s = .next (busOk (traceUnits { s with
        trace := { s.trace with
          on := true, mode := bitAt m 62, wrap := bitAt m 61, segLog2 := bits m 60 56, base := bits m 47 12
          mask := bits m 6 1 * 2, since := [], checkSeq := 0, lanes := [0, 1, 2, 3], blocks := [0, 0, 0, 0]
          port := if bitAt m 62 then .training else if s.trace.port = .closing then .closing else .idle }
        engines := SMap.mapVals s.engines {} (fun x => { x with trFill := 0, trLost := 0 }) }))) ∧
    (s.trace.on = true → bitAt m 63 = true →
      exec (.traceOn v be) s = .next (busOk { s with trace := { s.trace with mask := bits m 6 1 * 2 } })) ∧
    (s.trace.on = true → bitAt m 63 = false →
      exec (.traceOff v be) s = .next (busOk (traceUnits { s with trace := { s.trace with
        on := false, mode := bitAt m 62, wrap := bitAt m 61, segLog2 := bits m 60 56, base := bits m 47 12
        mask := bits m 6 1 * 2
        port := if s.trace.port = .sending ∧ s.trace.queue ≠ [] then .closing else .idle } })))

/-! ## The protection epoch -/

/-- R283 to R285 with R18 and R333: the oldest epoch on the channel of an engine that is not OFF and in no hold arrives; the
engine and its inline path take it, and each resident's descriptors at a boundary are evaluated again. A descriptor whose tag
is below the epoch is retagged where its windows and rights still pass R280, and else ends with REVOKED. With a marker or
nothing at the head of the channel, in OFF and in a hold, nothing changes. EPOCH_DONE rises to the lowest epoch, by signed
difference, under which an engine that is neither OFF nor fenced, or an access that it holds, may still issue; nothing but it and
the edits still to be adopted changes. What stands for an access that may still be issued, and the order on the channel, are
log 64. -/
def Obligations.EpochDelivery : Prop :=
  ∀ (e : Nat) (s : State) (x : Engine), x = s.eng e →
    (∀ n l, x.st ≠ .off → x.holding = false → x.chan = .epoch n :: l →
      exec (.epochDelivery e) s = .next ((s.residents e).foldl (fun v c =>
        ((v.ctx c).descs.filter Desc.atBoundary).foldl (fun v d => reEvaluate v c d.seq) v)
          (s.setEng e { x with epoch := n, chan := l }))) ∧
    (x.st = .off ∨ x.holding = true ∨ x.chan = [] ∨ (∃ tag hold l, x.chan = .marker tag hold :: l) →
      exec (.epochDelivery e) s = .next s) ∧
    (∀ c q d, s.desc? c q = some d → s.engOf c = e →
      (before32 d.tag x.epoch = false → reEvaluate s c q = s) ∧
      (before32 d.tag x.epoch = true → d.rightsOk s c d.coll.members.length d.coll.self = true →
        reEvaluate s c q = s.modDesc c q (fun d => { d with tag := x.epoch })) ∧
      (before32 d.tag x.epoch = true → d.rightsOk s c d.coll.members.length d.coll.self = false →
        reEvaluate s c q = endDesc s c q 0x10)) ∧
    exec .epochDoneRise s = .next { s with
      epochDone := if before32 s.epochDone (epochFloor s) then epochFloor s else s.epochDone
      pdHist := s.pdHist.filter (fun h => s.engines.any (fun p => isSe p.1 && p.2.st != .off &&
        (before32 p.2.epoch h.1 || p.2.heldIn.any (fun y => before32 y.epoch h.1)))) } ∧
    epochFloor s = (s.engines.filter (fun p => p.2.st != .off && !p.2.fenced)).foldl (fun a p =>
      (((s.residents p.1).map (fun c => ((s.ctx c).descs.filter (fun d =>
          d.admitted && (!d.over || s.hasReq c d.seq))).map (·.tag))).flatten ++ (s.eng p.1).heldIn.map (·.epoch)).foldl
        (fun a b => if before32 b a then b else a) (if before32 p.2.epoch a then p.2.epoch else a)) s.epoch

/-- R282: a write of a word of a window or PD entry either sets REFUSED and leaves EPOCH, or is accepted; EPOCH then rises
by one modulo 2^32 for word 0 or 3 of a window entry and for every word of a PD entry, and stays for another word. PEPOCH
reads EPOCH above EPOCH_DONE (Table 14.2), and epochs are compared as signed 32-bit differences. The new epoch goes out on the
channel of every engine that is not OFF (R283). -/
def Obligations.EpochCounts : Prop :=
  ∀ (v : Word64) (be : BitVec 8) (s : State), BusTakes s be →
    (∀ w k, exec (.windowEdit w k v be) s = .next (busOk (s.setWin w { s.win w with refused := true })) ∨
      ∃ y : Window, y.refused = false ∧ exec (.windowEdit w k v be) s =
        .next (busOk (if k = 0 ∨ k = 3 then raiseEpoch (s.setWin w y) else s.setWin w y))) ∧
    (∀ d k, exec (.pdWrite d k v be) s = .next (busOk (s.setPd d { s.pdt d with refused := true })) ∨
      ∃ (y : PdEntry) (l : List (Nat × Nat × Bool)), y.refused = false ∧ exec (.pdWrite d k v be) s =
        .next (busOk { raiseEpoch (s.setPd d y) with pdHist := l })) ∧
    (∀ u : State, raiseEpoch u = { u with
      epoch := (u.epoch + 1) % 2 ^ 32
      engines := SMap.mapVals u.engines {} (fun x =>
        if x.st = .off then x else { x with chan := x.chan ++ [.epoch ((u.epoch + 1) % 2 ^ 32)] }) }) ∧
    (s.epoch < 2 ^ 32 → s.epochDone < 2 ^ 32 → regRead s (regAt 0x20) = s.epoch * 2 ^ 32 + s.epochDone) ∧
    (∀ a b : Word32, before32 a.toNat b.toNat = (a - b).msb)

/-- R363: a write of trace word 4 with RELEASE and STOPALL acts as STOPALL; a write of inline word 0 with FLUSH that clears
ENABLE acts as the disable alone; a FLUSH while FLUSHING is 1 waits, and when the first flush ends the second covers the
entries held at that moment. -/
def Obligations.PulsePairs : Prop :=
  ∀ (v : Word64) (be : BitVec 8) (s : State), BusTakes s be →
    (bitAt (pulses v be) 62 = true → bitAt (pulses v be) 61 = true →
      exec (.release v be) s = exec (.stopall (v &&& ~~~((1 : Word64) <<< 62)) be) s) ∧
    (∀ i, (s.inl i).enable = true → bitAt (merged (inlRead (s.inl i) 0) v be) 63 = false →
      exec (.flush i v be) s = exec (.inlineDisable i (v &&& ~~~((1 : Word64) <<< 61)) be) s) ∧
    (∀ i m x, x = s.inl i → m = merged (inlRead x 0) v be → x.enable = true → x.heldEnable = false → x.flushing = true →
      inlReserved 0 m = false → bitAt m 63 = true → inlSet x.reg 0 m = x.reg → bitAt (pulses v be) 61 = true →
      exec (.flush i v be) s = .next (busOk (s.setInl i { x with refused := false, flushAgain := true }))) ∧
    (∀ i x u, x = s.inl i → x.flushing = true → s.flushPending i = false → x.disabling = false → x.flushAgain = true →
      u = (s.setInl i { x with flushAgain := false }).coverFlush i →
      s.flushEnd i = if u.flushPending i then u else u.modInl i (fun x => { x with flushing := false }))

/-- The three rows of the window table; EPOCH rises as R282 says. Defining an entry checks it (R144); withdrawing it clears VALID; an edit of another word of a VALID
entry is accepted for the grants alone (R357). -/
def Obligations.WindowWrites : Prop :=
  ∀ (w m : Nat) (v : Word64) (be : BitVec 8) (s : State) (x y : Window), BusTakes s be → x = s.win w →
    (m = merged (winRead x 0) v be → winReserved 0 m = false →
      y = { x with valid := bitAt m 63, flagged := bitAt m 62, refused := false, chunk := bits m 51 48
                   owner := bits m 47 40, size := bits m 28 0 } →
      (x.valid = false → y.valid = true → windowOk s y = true →
        exec (.windowDefine w v be) s = .next (busOk (raiseEpoch (s.setWin w y)))) ∧
      (x.valid = true → y.valid = false →
        exec (.windowWithdraw w v be) s = .next (busOk (raiseEpoch (s.setWin w y)))) ∧
      (x.valid = false → y.valid = true → windowOk s y = false →
        exec (.windowDefine w v be) s = .next (busOk (s.setWin w { x with refused := true })))) ∧
    (m = merged (winRead x 3) v be → winReserved 3 m = false →
      exec (.windowEdit w 3 v be) s =
        .next (busOk (raiseEpoch (s.setWin w { x with grants := bits m 47 0, refused := false })))) ∧
    (m = merged (winRead x 1) v be → x.valid = true → winReserved 1 m = false → bits m 47 12 ≠ x.base →
      exec (.windowEdit w 1 v be) s = .next (busOk (s.setWin w { x with refused := true })))

/-- A write of a PD entry (R278, R282): with its reserved bits 0 the entry takes VALID, CTXADM and RIBBON, EPOCH rises,
and an edit of VALID is remembered under the new epoch for the inline paths that have not adopted it (R285, log 35); with one
set the entry keeps its fields and sets REFUSED. -/
def Obligations.PdWrites : Prop :=
  ∀ (d m : Nat) (v : Word64) (be : BitVec 8) (s : State) (x : PdEntry), BusTakes s be → x = s.pdt d →
    m = merged (pdRead x 0) v be →
    (bits m 59 0 ≠ 0 → exec (.pdWrite d 0 v be) s = .next (busOk (s.setPd d { x with refused := true }))) ∧
    (bits m 59 0 = 0 → exec (.pdWrite d 0 v be) s = .next (busOk { raiseEpoch (s.setPd d
        { valid := bitAt m 63, ctxAdm := bitAt m 62, ribbon := bitAt m 61 }) with
      pdHist := if x.valid = bitAt m 63 then s.pdHist else s.pdHist ++ [((s.epoch + 1) % 2 ^ 32, d, x.valid)] }))

/-- Inline windows (R155, R160): an enable that passes the checks is accepted and waits for its block states; one that
does not is refused; a disable stops accesses and flushes, a FLUSH pulse flushes. -/
def Obligations.InlineSetup : Prop :=
  ∀ (i m : Nat) (v : Word64) (be : BitVec 8) (s : State) (x : InlineWin) (r : InlineSet), BusTakes s be → x = s.inl i →
    m = merged (inlRead x 0) v be → inlReserved 0 m = false →
    r = { x.reg with initSt := bitAt m 58, sharedRd := bitAt m 57, stack := bits m 55 52, view := bits m 51 50
                     pd := bits m 47 40 } →
    x.heldEnable = false →
    (x.enable = false → bitAt m 63 = true → x.flushing = false → s.inlineOk i r = true →
      exec (.inlineEnable i v be) s = .next (busOk (s.setInl i { x with
        reg := r, use := r, refused := false, enable := true, initPending := true, lost := [] }))) ∧
    (x.enable = false → bitAt m 63 = true → x.flushing = false → s.inlineOk i r = false →
      exec (.inlineEnable i v be) s = .next (busOk (s.setInl i { x with refused := true }))) ∧
    (x.enable = true → bitAt m 63 = false →
      exec (.inlineDisable i v be) s =
        .next (busOk ((s.setInl i { x with reg := r, refused := false }).inlineDisable i))) ∧
    (x.enable = true → bitAt m 63 = true → r = x.reg → bitAt (pulses v be) 61 = true →
      exec (.flush i v be) s = .next (busOk ((s.setInl i { x with refused := false }).flushStart i)))

/-- Contexts (R166 to R168): an enable that passes the checks sets the ring indices to 0 and the context waits for
residency; one that does not is refused; ENABLE written 0 takes a waiting context from the queue, and ends the fetched
descriptors of a resident one with CANCELLED. R167 with R97: the first context that waits for an engine that works becomes
resident when a context slot and its tile slots are free; its tiles read +0 and its counters are 0. -/
def Obligations.ContextSetup : Prop :=
  (∀ (c m : Nat) (v : Word64) (be : BitVec 8) (s : State) (x : Ctx) (r : CtxSet), BusTakes s be → x = s.ctx c →
     m = merged (ctxRead x 0) v be → ctxReserved 0 m = false →
     r = { x.reg with pd := bits m 55 48, engine := bits m 47 41, tileSlots := bits m 40 32 } →
     SMap.wf s.ctxs {} = true →
     (x.enable = false → bitAt m 63 = true → x.resident = false → contextOk s r = true →
       exec (.contextEnable c v be) s = .next (busOk { s.setCtx c { x with
           reg := r, use := r, refused := false, enable := true, sqTail := 0, sqHead := 0, cqTail := 0, cqHead := 0
           ringErr := false, phase := true, rang := false, reEnable := false, heldDb := [] } with waitQ := s.waitQ ++ [c] })) ∧
     (x.enable = false → bitAt m 63 = true → contextOk s r = false →
       exec (.contextEnable c v be) s = .next (busOk (s.setCtx c { x with refused := true }))) ∧
     (x.enable = true → bitAt m 63 = false → x.resident = true → ∃ u,
       u = s.setCtx c { x with reg := r, refused := false, enable := false, reEnable := false } ∧
       exec (.contextDisable c v be) s = .next (busOk (leaveIfDone (endCtx u c 0x41 (fun _ => true)) c))) ∧
     (x.enable = true → bitAt m 63 = false → x.resident = false →
       exec (.contextDisable c v be) s = .next (busOk { s.setCtx c { x with
         reg := r, refused := false, enable := false, reEnable := false } with waitQ := s.waitQ.filter (· ≠ c) }))) ∧
  (∀ (e c : Nat) (s : State), s.firstWaiting e = some c → (s.eng e).works = true → (s.residents e).length < 64 →
     (s.ctx c).use.tileSlots ≤ s.tileFree e →
     exec (.contextResident e) s = .next { s.setCtx c { s.ctx c with
         resident := true, cnt := {}, dbDrop := 0, live := [], shadow := [] } with waitQ := s.waitQ.filter (· ≠ c) })

/-- JOIN (R261 to R263): a device that names itself keystone, with a valid entry of its own, joins at once as its domain's
keystone, its first ticket TICKET_START; another joins when the keystone answers its JOIN; JOIN written 0 leaves the
domain, and the other fields are taken. That leaving ends its descriptors with STOPPED, and that a refused JOIN stores nothing, is
the model's reading, log 45. -/
def Obligations.DomainSetup : Prop :=
  ∀ (m : Nat) (v : Word64) (be : BitVec 8) (s t : State), BusTakes s be → m = merged (globRead s 8) v be →
    t = { s with dom := { s.dom with kname := bitAt m 60, kport := bits m 59 55, deviceId := bits m 46 32
                                     domain := bits m 31 16, knamed := bits m 14 0 } } →
    (s.dom.join = false → bitAt m 63 = true → memberValid t t.dom.deviceId = true → memberZeroOk t t.dom.deviceId = true →
      t.dom.kname = true →
      (t.dom.knamed = t.dom.deviceId →
        ∃ u : State, exec (.domainJoin v be) s = .next (busOk u) ∧ u.dom.join = true ∧ u.dom.member = true ∧
          u.dom.keystone = t.dom.deviceId ∧ u.dom.nextTicket = s.dom.ticketStart * 256 ∧ { u with dom := s.dom } = s) ∧
      (t.dom.knamed ≠ t.dom.deviceId →
        ∃ u : State, u.dom.join = true ∧ u.dom.member = false ∧ u.dom.keystone = t.dom.knamed ∧ { u with dom := s.dom } = s ∧
          exec (.domainJoin v be) s =
            .next (busOk (sendFrame u t.dom.kport { hdr := ctrlHdr u 11 t.dom.knamed })))) ∧
    (s.dom.join = false → bitAt m 63 = true → memberValid t t.dom.deviceId = false →
      exec (.domainJoin v be) s = .next (busOk s)) ∧
    (s.dom.join = true → bitAt m 63 = false → ∃ u : State,
      u = (s.ctxs.map (·.1)).foldl (fun s c =>
        endCtx s c 0x40 (fun d => d.admitted && (d.isColl || d.op == 0x12))) s ∧
      exec (.domainLeave v be) s = .next (busOk { u with dom := { t.dom with
        join := false, member := false, issuing := false, deputies := [], acks := [], served := [], waiting := [] } }))

/-- ERRON (R299): from 0 to 1 the ring's size and base are taken and the ring starts empty on its first lap; while it
stays 1 the word is locked. The configuration image (R341, R342, R360): LOAD with every engine OFF begins a load and
discards a partly loaded image; IMGDATA with every byte enabled appends eight bytes to a load in progress; COMMIT of bytes
that fail a check gives REASON and adopts nothing; of bytes that pass, it applies the defaults and adopts them. The REASON that
LOAD sets, and what a rejected load leaves, are the model's choices, log 68. -/
def Obligations.ErrorRingAndImage : Prop :=
  (∀ (m : Nat) (v : Word64) (be : BitVec 8) (s : State), BusTakes s be → m = merged (globRead s 12) v be →
     (s.err.on = false → bitAt m 63 = true →
       exec (.erron v be) s = .next (busOk { s with err := { s.err with
         on := true, log2 := bits m 60 56, base := bits m 47 6, tail := 0, head := 0, phase := true } })) ∧
     (s.err.on = true → bitAt m 63 = true → exec (.erron v be) s = .next (busOk s)) ∧
     (s.err.on = true → bitAt m 63 = false →
       exec (.erron v be) s = .next (busOk { s with err := { s.err with
         on := false, log2 := bits m 60 56, base := bits m 47 6 } }))) ∧
  (∀ (v : Word64) (be : BitVec 8) (s : State), BusTakes s be →
     (s.anyEngine = false → bitAt (pulses v be) 63 = true → bitAt (pulses v be) 62 = false →
       exec (.load v be) s = .next (busOk { s with img := { s.img with stat := 1, reason := 0, loading := [] } })) ∧
     (s.img.stat = 1 → be = 0xFF →
       exec (.imgdata v be) s = .next (busOk { s with img := { s.img with
         loading := s.img.loading ++ leBytes 8 v.toNat } })) ∧
     (s.img.stat = 1 → bitAt (pulses v be) 63 = false → bitAt (pulses v be) 62 = true →
       (imgReason s.img.loading ≠ 0 →
         exec (.commit v be) s = .next (busOk { s with img := { s.img with
           stat := 3, reason := imgReason s.img.loading, loading := [] } })) ∧
       (imgReason s.img.loading = 0 →
         exec (.commit v be) s = .next (busOk (fabReadyNow { applyDefaults s (imgSection s.img.loading 1) with
           img := { stat := 2, reason := 0, version := leAt s.img.loading 8 4, loading := []
                    adopted := some s.img.loading } })))))

/-! ## The aperture and test access -/

/-- The aperture (R5, R347, R351, R355): a read answers with the word and clears its counters; a write with no byte
enabled has no effect; one with bad parity is discarded, recorded and answered with code 2; a write of PWRCAP, ARBCFG or
GROUPCFG takes its fields. Test access writes are kept with FAB_RST_N low or in a captured hold (R353). -/
def Obligations.ApertureAccess : Prop :=
  ∀ (off m : Nat) (v : Word64) (be : BitVec 8) (s : State), s.pins.aonPg = true →
    exec (.rcRead off) s = .next ((regClear s (regAt off)).out (.bus (regRead s (regAt off)) 0)) ∧
    exec (.registerWrite true off v 0) s = .next (busOk s) ∧
    exec (.registerWrite false off v be) s = .next ((external s 0 true { noctx := true }).out (.bus 0 2)) ∧
    (be ≠ 0 → m = merged (globRead s 3) v be → exec (.registerWrite true 0x18 v be) s =
      .next (busOk { s with pwr := { s.pwr with capEn := bitAt m 63, cap := bits m 43 32 } })) ∧
    (be ≠ 0 → m = merged (globRead s 5) v be → exec (.registerWrite true 0x28 v be) s =
      .next (busOk { s with coreWeight := bits m 7 0 })) ∧
    (be ≠ 0 → m = merged (globRead s 6) v be → exec (.registerWrite true 0x30 v be) s =
      .next (busOk { s with groupBase := bits m 47 6 })) ∧
    (∀ e sel, e < 128 → s.pins.fabRstN = false → exec (.testAccessWrite e sel v) s =
      .next { s with testRegs := SMap.set s.testRegs 0 (sel * 128 + e) v.toNat })

/-! ## Resets and rails -/

/-- R344, the always-on island: AON_RST_N or the always-on rail low puts every register and table at its reset value and
discards the adopted image; memory, what waits, what has been presented, the package's maps and the inputs stay. The release of
AON_RST_N with the rail good and stable starts the timebase from 0, and AON_PG high follows it. A release too soon, or a rail
that rises with AON_RST_N high, leaves the island undefined: its registers, tables and timebase are free values (log 7). That the
rail's fall leaves the level of AON_RST_N, an input, is the model's reading, log 70. -/
def Obligations.AlwaysOnReset : Prop :=
  ∀ s : State,
    (∀ low : State, low = { State.reset with
        pending := s.pending, mem := s.mem, outputs := s.outputs, devMap := s.devMap, apBase := s.apBase
        apSize := s.apSize, freeCount := s.freeCount, pins := { s.pins with aonPg := false, fabReady := false } } →
      exec .aonRstAssert s = .next { low with pins := { low.pins with aonRstN := false } } ∧
      exec .vddAonPgLow s = .next { low with pins := { low.pins with vddAon := false } }) ∧
    (s.pins.vddAon = true → exec .vddAonPgHigh s = .next s) ∧
    (s.pins.vddAon = false → s.pins.aonRstN = false →
      exec .vddAonPgHigh s = .next { s with pins := { s.pins with vddAon := true } }) ∧
    (∀ stable, s.pins.aonRstN = true → exec (.aonRstRelease stable) s = .next s) ∧
    (s.pins.vddAon = true → s.pins.aonRstN = false →
      exec (.aonRstRelease true) s = .next { s with time := 0, pins := { s.pins with aonRstN := true } }) ∧
    (∀ c : Instr, (c = .vddAonPgHigh ∧ s.pins.vddAon = false ∧ s.pins.aonRstN = true) ∨
        (c = .aonRstRelease false ∧ s.pins.aonRstN = false) ∨
        (c = .aonRstRelease true ∧ s.pins.aonRstN = false ∧ s.pins.vddAon = false) →
      ∃ t, exec c s = .next t ∧ t.pending = s.pending ∧ t.mem = s.mem ∧ t.outputs = s.outputs ∧ t.pins.aonRstN = true ∧
        t.pins.fabRstN = s.pins.fabRstN ∧ t.pins.vddFab = s.pins.vddFab ∧
        (t.pins.vddAon = true ∨ s.pins.vddAon = false ∧ c ≠ .vddAonPgHigh)) ∧
    (s.pins.vddAon = true → s.pins.aonRstN = true →
      exec .aonPgRise s = .next { s with pins := { s.pins with
        aonPg := true, fabReady := s.pins.fabRstN && s.img.adopted.isSome } }) ∧
    (s.pins.vddAon = false ∨ s.pins.aonRstN = false → exec .aonPgRise s = .next s)

/-- R344, fabric reset and the engine rails: FAB_RST_N low puts every engine OFF and clears what R344 lists and what engines
held; memory, the image, the timebase, the other fields of the tables and of the domain, error, sampling and trace words stay,
and of a link JOBSEL and the level of PAUSE_IN. Its release lets FAB_READY rise. A rail that falls puts its die's engines OFF
with ENABLE and LINKEN 0, and their contexts read ENABLE and RESIDENT 0; FENCED, DEGRADED and the tables stay. One that returns
changes its pin alone. -/
def Obligations.FabricReset : Prop :=
  ∀ s : State, SMap.wf s.engines {} = true → SMap.wf s.ctxs {} = true → SMap.wf s.inlines {} = true →
      SMap.wf s.links {} = true →
    (∃ t, exec .fabRstAssert s = .next t ∧ t.pins = { s.pins with fabRstN := false, fabReady := false } ∧ t.mem = s.mem ∧
      t.img = s.img ∧ t.time = s.time ∧ t.pwr = s.pwr ∧ t.coreWeight = s.coreWeight ∧ t.groupBase = s.groupBase ∧
      t.epoch = s.epoch ∧ t.epochDone = s.epochDone ∧ t.windows = s.windows ∧ t.pds = s.pds ∧ t.pdHist = [] ∧
      t.waitQ = [] ∧ t.accesses = [] ∧ t.stackDef = [] ∧ t.testRegs = s.testRegs ∧ t.pending = s.pending ∧
      t.dom = { s.dom with join := false, member := false, issuing := false, served := [], waiting := [], acks := [] } ∧
      t.err = { s.err with on := false, degraded := false, unitErr := 0 } ∧
      t.samp = { s.samp with on := false, ctxOn := false } ∧
      t.trace = { s.trace with
        on := false, port := .idle, queue := [], since := [], cutBusy := false, granted := none, ribbons := [] } ∧
      (∀ p, t.link p = { jobSel := (s.link p).jobSel, paused := (s.link p).paused }) ∧
      (∀ e, t.eng e = {
        bootFail := (s.eng e).bootFail, linkUp := (s.eng e).linkUp, freq := (s.eng e).freq, linkCfg := (s.eng e).linkCfg }) ∧
      (∀ c, (t.ctx c).enable = false ∧ (t.ctx c).resident = false ∧ (t.ctx c).descs = [] ∧ (t.ctx c).reg = (s.ctx c).reg ∧
        (t.ctx c).refused = (s.ctx c).refused ∧ (t.ctx c).sqTail = (s.ctx c).sqTail ∧
        (t.ctx c).sqHead = (s.ctx c).sqHead ∧ (t.ctx c).cqTail = (s.ctx c).cqTail ∧ (t.ctx c).cqHead = (s.ctx c).cqHead ∧
        (t.ctx c).ringErr = (s.ctx c).ringErr) ∧
      (∀ i, (t.inl i).enable = false ∧ (t.inl i).active = false ∧ (t.inl i).flushing = false ∧
        (t.inl i).reg = (s.inl i).reg ∧ (t.inl i).refused = (s.inl i).refused)) ∧
    exec .fabRstRelease s = .next { s with pins := { s.pins with
      fabRstN := true, fabReady := s.pins.aonPg && s.img.adopted.isSome } } ∧
    (∀ d, ∃ t, exec (.vddFabPgLow d) s = .next t ∧ t.pins = { s.pins with vddFab := s.pins.vddFab.set d false } ∧
      t.img = s.img ∧ t.time = s.time ∧ t.epoch = s.epoch ∧ t.windows = s.windows ∧ t.pds = s.pds ∧ t.err = s.err ∧
      t.dom = s.dom ∧ t.samp = s.samp ∧
      (∀ e, e < 128 → dieOf e = d → (t.eng e).st = .off ∧ (t.eng e).enable = false ∧ (t.eng e).linkEn = false ∧
        (t.eng e).fenced = (s.eng e).fenced ∧ (t.eng e).bootFail = (s.eng e).bootFail ∧ (t.eng e).freq = (s.eng e).freq) ∧
      (∀ c, (s.ctx c).use.engine < 128 → dieOf (s.ctx c).use.engine = d → (t.ctx c).enable = false ∧ (t.ctx c).resident = false)) ∧
    (∀ d, exec (.vddFabPgHigh d) s = .next { s with pins := { s.pins with vddFab := s.pins.vddFab.set d true } })
end

