-- ==== Sys2Proof/Laws/SMap.lean ====
section
/-! SUPPORT. Laws of the sparse table: a read after a write, and the canonical form. -/

namespace Sys2Proof.Machine.SMap

variable {α : Type}

/-- Below every listed key a canonical table reads as the default. -/
theorem get_of_lt [DecidableEq α] (m : List (Nat × α)) (d : α) (lo k : Nat) (h : wfFrom m d lo = true)
    (hk : k < lo) : get m d k = d := by
  cases m with
  | nil => rfl
  | cons p r =>
    simp only [wfFrom, Bool.and_eq_true, decide_eq_true_eq] at h
    simp only [get]
    rw [if_pos (by omega)]

/-- A read at the key just written gives the value written. -/
theorem get_set_same [DecidableEq α] (m : List (Nat × α)) (d : α) (k : Nat) (v : α) (lo : Nat)
    (h : wfFrom m d lo = true) : get (set m d k v) d k = v := by
  induction m generalizing lo with
  | nil => by_cases hv : v = d <;> simp [set, get, hv]
  | cons p r ih =>
    obtain ⟨a, w⟩ := p
    simp only [wfFrom, Bool.and_eq_true, decide_eq_true_eq] at h
    obtain ⟨⟨h1, h2⟩, h3⟩ := h
    by_cases hka : k < a
    · by_cases hv : v = d <;> simp [set, get, hka, hv]
    · by_cases he : k = a
      · by_cases hv : v = d
        · simp only [set, hv, he, Nat.lt_irrefl, if_true, if_false]
          exact get_of_lt r d (a + 1) a h3 (Nat.lt_succ_self a)
        · simp [set, get, he, hv]
      · simp only [set, get, hka, he, if_false]
        exact ih (a + 1) h3

/-- A write leaves every other key as it was. -/
theorem get_set_other [DecidableEq α] (m : List (Nat × α)) (d : α) (k j : Nat) (v : α) (lo : Nat)
    (h : wfFrom m d lo = true) (hj : j ≠ k) : get (set m d k v) d j = get m d j := by
  induction m generalizing lo with
  | nil =>
    by_cases hv : v = d
    · simp [set, hv]
    · simp only [set, if_neg hv, get, hj, if_false]
      split <;> rfl
  | cons p r ih =>
    obtain ⟨a, w⟩ := p
    simp only [wfFrom, Bool.and_eq_true, decide_eq_true_eq] at h
    obtain ⟨⟨h1, h2⟩, h3⟩ := h
    by_cases hka : k < a
    · by_cases hv : v = d
      · simp [set, hka, hv]
      · simp only [set, hka, hv, if_true, if_false, get, hj]
        by_cases hjk : j < k
        · simp [hjk, show j < a by omega]
        · simp [hjk]
    · by_cases he : k = a
      · subst he
        by_cases hv : v = d
        · simp only [set, hv, Nat.lt_irrefl, if_true, if_false, get, hj]
          by_cases hjk : j < k
          · simp only [hjk, if_true]
            exact get_of_lt r d (k + 1) j h3 (by omega)
          · simp [hjk]
        · simp only [set, hv, Nat.lt_irrefl, if_true, if_false, get, hj]
      · simp only [set, hka, he, if_false, get]
        rw [ih (a + 1) h3]

/-- A value other than the default reads back from any table. -/
theorem get_set_ne [DecidableEq α] (m : List (Nat × α)) (d : α) (k : Nat) (v : α) (h : v ≠ d) :
    get (set m d k v) d k = v := by
  induction m with
  | nil => simp [set, get, h]
  | cons p r ih =>
    obtain ⟨a, w⟩ := p
    by_cases hka : k < a
    · simp [set, get, hka, h]
    · by_cases he : k = a
      · simp [set, get, he, h]
      · simp only [set, get, hka, he, if_false]
        exact ih

/-- Writing a value other than the default leaves every other key of any table as it was. -/
theorem get_set_ne_other [DecidableEq α] (m : List (Nat × α)) (d : α) (k j : Nat) (v : α) (h : v ≠ d) (hj : j ≠ k) :
    get (set m d k v) d j = get m d j := by
  induction m with
  | nil =>
    simp only [set, if_neg h, get, hj, if_false]
    split <;> rfl
  | cons p r ih =>
    obtain ⟨a, w⟩ := p
    by_cases hka : k < a
    · simp only [set, hka, h, if_true, if_false, get, hj]
      by_cases hjk : j < k
      · simp [hjk, show j < a by omega]
      · simp [hjk]
    · by_cases he : k = a
      · subst he
        simp only [set, h, Nat.lt_irrefl, if_true, if_false, get, hj]
      · simp only [set, hka, he, if_false, get]
        rw [ih]

/-- A write keeps the canonical form. -/
theorem wfFrom_set [DecidableEq α] (m : List (Nat × α)) (d : α) (k : Nat) (v : α) (lo : Nat)
    (h : wfFrom m d lo = true) (hk : lo ≤ k) : wfFrom (set m d k v) d lo = true := by
  induction m generalizing lo with
  | nil => by_cases hv : v = d <;> simp [set, wfFrom, hv, hk]
  | cons p r ih =>
    obtain ⟨a, w⟩ := p
    have h' := h
    simp only [wfFrom, Bool.and_eq_true, decide_eq_true_eq] at h
    obtain ⟨⟨h1, h2⟩, h3⟩ := h
    by_cases hka : k < a
    · by_cases hv : v = d
      · simpa [set, hka, hv] using h'
      · simp only [set, hka, hv, if_true, if_false, wfFrom, Bool.and_eq_true, decide_eq_true_eq]
        exact ⟨⟨hk, hv⟩, ⟨by omega, h2⟩, h3⟩
    · by_cases he : k = a
      · subst he
        by_cases hv : v = d
        · simp only [set, hv, Nat.lt_irrefl, if_true, if_false]
          exact wfFrom_mono r d (k + 1) lo h3 (by omega)
        · simp only [set, hv, Nat.lt_irrefl, if_true, if_false, wfFrom, Bool.and_eq_true, decide_eq_true_eq]
          exact ⟨⟨h1, hv⟩, h3⟩
      · simp only [set, hka, he, if_false, wfFrom, Bool.and_eq_true, decide_eq_true_eq]
        exact ⟨⟨h1, h2⟩, ih (a + 1) h3 (by omega)⟩
where
  wfFrom_mono (m : List (Nat × α)) (d : α) (hi lo : Nat) (h : wfFrom m d hi = true) (hl : lo ≤ hi) :
      wfFrom m d lo = true := by
    cases m with
    | nil => rfl
    | cons p r =>
      simp only [wfFrom, Bool.and_eq_true, decide_eq_true_eq] at h ⊢
      exact ⟨⟨by omega, h.1.2⟩, h.2⟩

/-- A write keeps the canonical form of a whole table. -/
theorem wf_set [DecidableEq α] (m : List (Nat × α)) (d : α) (k : Nat) (v : α) (h : wf m d = true) :
    wf (set m d k v) d = true := wfFrom_set m d k v 0 h (Nat.zero_le k)

/-- Of two writes of one key the second counts, where the first wrote no default. -/
theorem set_set [DecidableEq α] (m : List (Nat × α)) (d : α) (k : Nat) (v w : α) (h : v ≠ d) :
    set (set m d k v) d k w = set m d k w := by
  induction m with
  | nil => simp [set, h]
  | cons p r ih =>
    obtain ⟨a, u⟩ := p
    simp only [set]
    by_cases h1 : k < a
    · simp [h1, h, set]
    · by_cases h2 : k = a
      · simp [h2, h, set]
      · simp [h1, h2, set, ih]

/-- A property of keys that the key written has holds of the table after the write. -/
theorem all_set [DecidableEq α] (m : List (Nat × α)) (d : α) (k : Nat) (v : α) (p : Nat → Bool)
    (h : m.all (fun c => p c.1) = true) (hk : p k = true) : (set m d k v).all (fun c => p c.1) = true := by
  induction m with
  | nil => by_cases hv : v = d <;> simp [set, hv, hk]
  | cons q r ih =>
    obtain ⟨a, w⟩ := q
    simp only [List.all_cons, Bool.and_eq_true] at h
    simp only [set]
    split
    · split <;> simp [h.1, h.2, hk]
    · split
      · split <;> simp [h.2, hk]
      · simp only [List.all_cons, Bool.and_eq_true]
        exact ⟨h.1, ih h.2⟩

end Sys2Proof.Machine.SMap
end

