-- ==== Sys2Proof/Laws/State.lean ====
section
/-! SUPPORT. What each update of the state leaves as it was: one lemma per field per update, and a read after a write of a
table. No proof unfolds a record update. -/

namespace Sys2Proof.Machine.State

section setEng
variable (s : State) (e : Nat) (v : Engine)
@[simp] theorem setEng_pending : (s.setEng e v).pending = s.pending := rfl
@[simp] theorem setEng_pins : (s.setEng e v).pins = s.pins := rfl
@[simp] theorem setEng_time : (s.setEng e v).time = s.time := rfl
@[simp] theorem setEng_img : (s.setEng e v).img = s.img := rfl
@[simp] theorem setEng_pwr : (s.setEng e v).pwr = s.pwr := rfl
@[simp] theorem setEng_epoch : (s.setEng e v).epoch = s.epoch := rfl
@[simp] theorem setEng_epochDone : (s.setEng e v).epochDone = s.epochDone := rfl
@[simp] theorem setEng_coreWeight : (s.setEng e v).coreWeight = s.coreWeight := rfl
@[simp] theorem setEng_groupBase : (s.setEng e v).groupBase = s.groupBase := rfl
@[simp] theorem setEng_dbDrop : (s.setEng e v).dbDrop = s.dbDrop := rfl
@[simp] theorem setEng_dom : (s.setEng e v).dom = s.dom := rfl
@[simp] theorem setEng_err : (s.setEng e v).err = s.err := rfl
@[simp] theorem setEng_links : (s.setEng e v).links = s.links := rfl
@[simp] theorem setEng_ctxs : (s.setEng e v).ctxs = s.ctxs := rfl
@[simp] theorem setEng_waitQ : (s.setEng e v).waitQ = s.waitQ := rfl
@[simp] theorem setEng_windows : (s.setEng e v).windows = s.windows := rfl
@[simp] theorem setEng_pds : (s.setEng e v).pds = s.pds := rfl
@[simp] theorem setEng_inlines : (s.setEng e v).inlines = s.inlines := rfl
@[simp] theorem setEng_samp : (s.setEng e v).samp = s.samp := rfl
@[simp] theorem setEng_trace : (s.setEng e v).trace = s.trace := rfl
@[simp] theorem setEng_testRegs : (s.setEng e v).testRegs = s.testRegs := rfl
@[simp] theorem setEng_mem : (s.setEng e v).mem = s.mem := rfl
@[simp] theorem setEng_outputs : (s.setEng e v).outputs = s.outputs := rfl
@[simp] theorem setEng_devMap : (s.setEng e v).devMap = s.devMap := rfl
@[simp] theorem setEng_apBase : (s.setEng e v).apBase = s.apBase := rfl
@[simp] theorem setEng_apSize : (s.setEng e v).apSize = s.apSize := rfl
@[simp] theorem setEng_freeCount : (s.setEng e v).freeCount = s.freeCount := rfl
@[simp] theorem setEng_stackDef : (s.setEng e v).stackDef = s.stackDef := rfl
@[simp] theorem setEng_accesses : (s.setEng e v).accesses = s.accesses := rfl
@[simp] theorem setEng_accNext : (s.setEng e v).accNext = s.accNext := rfl
@[simp] theorem setEng_pdHist : (s.setEng e v).pdHist = s.pdHist := rfl
@[simp] theorem setEng_link (p' : Nat) : (s.setEng e v).link p' = s.link p' := rfl
@[simp] theorem setEng_ctx (c' : Nat) : (s.setEng e v).ctx c' = s.ctx c' := rfl
@[simp] theorem setEng_win (w' : Nat) : (s.setEng e v).win w' = s.win w' := rfl
@[simp] theorem setEng_pdt (d' : Nat) : (s.setEng e v).pdt d' = s.pdt d' := rfl
@[simp] theorem setEng_inl (i' : Nat) : (s.setEng e v).inl i' = s.inl i' := rfl
end setEng

section modEng
variable (s : State) (e : Nat) (f : Engine → Engine)
@[simp] theorem modEng_pending : (s.modEng e f).pending = s.pending := rfl
@[simp] theorem modEng_pins : (s.modEng e f).pins = s.pins := rfl
@[simp] theorem modEng_time : (s.modEng e f).time = s.time := rfl
@[simp] theorem modEng_img : (s.modEng e f).img = s.img := rfl
@[simp] theorem modEng_pwr : (s.modEng e f).pwr = s.pwr := rfl
@[simp] theorem modEng_epoch : (s.modEng e f).epoch = s.epoch := rfl
@[simp] theorem modEng_epochDone : (s.modEng e f).epochDone = s.epochDone := rfl
@[simp] theorem modEng_coreWeight : (s.modEng e f).coreWeight = s.coreWeight := rfl
@[simp] theorem modEng_groupBase : (s.modEng e f).groupBase = s.groupBase := rfl
@[simp] theorem modEng_dbDrop : (s.modEng e f).dbDrop = s.dbDrop := rfl
@[simp] theorem modEng_dom : (s.modEng e f).dom = s.dom := rfl
@[simp] theorem modEng_err : (s.modEng e f).err = s.err := rfl
@[simp] theorem modEng_links : (s.modEng e f).links = s.links := rfl
@[simp] theorem modEng_ctxs : (s.modEng e f).ctxs = s.ctxs := rfl
@[simp] theorem modEng_waitQ : (s.modEng e f).waitQ = s.waitQ := rfl
@[simp] theorem modEng_windows : (s.modEng e f).windows = s.windows := rfl
@[simp] theorem modEng_pds : (s.modEng e f).pds = s.pds := rfl
@[simp] theorem modEng_inlines : (s.modEng e f).inlines = s.inlines := rfl
@[simp] theorem modEng_samp : (s.modEng e f).samp = s.samp := rfl
@[simp] theorem modEng_trace : (s.modEng e f).trace = s.trace := rfl
@[simp] theorem modEng_testRegs : (s.modEng e f).testRegs = s.testRegs := rfl
@[simp] theorem modEng_mem : (s.modEng e f).mem = s.mem := rfl
@[simp] theorem modEng_outputs : (s.modEng e f).outputs = s.outputs := rfl
@[simp] theorem modEng_devMap : (s.modEng e f).devMap = s.devMap := rfl
@[simp] theorem modEng_apBase : (s.modEng e f).apBase = s.apBase := rfl
@[simp] theorem modEng_apSize : (s.modEng e f).apSize = s.apSize := rfl
@[simp] theorem modEng_freeCount : (s.modEng e f).freeCount = s.freeCount := rfl
@[simp] theorem modEng_stackDef : (s.modEng e f).stackDef = s.stackDef := rfl
@[simp] theorem modEng_accesses : (s.modEng e f).accesses = s.accesses := rfl
@[simp] theorem modEng_accNext : (s.modEng e f).accNext = s.accNext := rfl
@[simp] theorem modEng_pdHist : (s.modEng e f).pdHist = s.pdHist := rfl
@[simp] theorem modEng_link (p' : Nat) : (s.modEng e f).link p' = s.link p' := rfl
@[simp] theorem modEng_ctx (c' : Nat) : (s.modEng e f).ctx c' = s.ctx c' := rfl
@[simp] theorem modEng_win (w' : Nat) : (s.modEng e f).win w' = s.win w' := rfl
@[simp] theorem modEng_pdt (d' : Nat) : (s.modEng e f).pdt d' = s.pdt d' := rfl
@[simp] theorem modEng_inl (i' : Nat) : (s.modEng e f).inl i' = s.inl i' := rfl
end modEng

section setLink
variable (s : State) (p : Nat) (v : Link)
@[simp] theorem setLink_pending : (s.setLink p v).pending = s.pending := rfl
@[simp] theorem setLink_pins : (s.setLink p v).pins = s.pins := rfl
@[simp] theorem setLink_time : (s.setLink p v).time = s.time := rfl
@[simp] theorem setLink_img : (s.setLink p v).img = s.img := rfl
@[simp] theorem setLink_pwr : (s.setLink p v).pwr = s.pwr := rfl
@[simp] theorem setLink_epoch : (s.setLink p v).epoch = s.epoch := rfl
@[simp] theorem setLink_epochDone : (s.setLink p v).epochDone = s.epochDone := rfl
@[simp] theorem setLink_coreWeight : (s.setLink p v).coreWeight = s.coreWeight := rfl
@[simp] theorem setLink_groupBase : (s.setLink p v).groupBase = s.groupBase := rfl
@[simp] theorem setLink_dbDrop : (s.setLink p v).dbDrop = s.dbDrop := rfl
@[simp] theorem setLink_dom : (s.setLink p v).dom = s.dom := rfl
@[simp] theorem setLink_err : (s.setLink p v).err = s.err := rfl
@[simp] theorem setLink_engines : (s.setLink p v).engines = s.engines := rfl
@[simp] theorem setLink_ctxs : (s.setLink p v).ctxs = s.ctxs := rfl
@[simp] theorem setLink_waitQ : (s.setLink p v).waitQ = s.waitQ := rfl
@[simp] theorem setLink_windows : (s.setLink p v).windows = s.windows := rfl
@[simp] theorem setLink_pds : (s.setLink p v).pds = s.pds := rfl
@[simp] theorem setLink_inlines : (s.setLink p v).inlines = s.inlines := rfl
@[simp] theorem setLink_samp : (s.setLink p v).samp = s.samp := rfl
@[simp] theorem setLink_trace : (s.setLink p v).trace = s.trace := rfl
@[simp] theorem setLink_testRegs : (s.setLink p v).testRegs = s.testRegs := rfl
@[simp] theorem setLink_mem : (s.setLink p v).mem = s.mem := rfl
@[simp] theorem setLink_outputs : (s.setLink p v).outputs = s.outputs := rfl
@[simp] theorem setLink_devMap : (s.setLink p v).devMap = s.devMap := rfl
@[simp] theorem setLink_apBase : (s.setLink p v).apBase = s.apBase := rfl
@[simp] theorem setLink_apSize : (s.setLink p v).apSize = s.apSize := rfl
@[simp] theorem setLink_freeCount : (s.setLink p v).freeCount = s.freeCount := rfl
@[simp] theorem setLink_stackDef : (s.setLink p v).stackDef = s.stackDef := rfl
@[simp] theorem setLink_accesses : (s.setLink p v).accesses = s.accesses := rfl
@[simp] theorem setLink_accNext : (s.setLink p v).accNext = s.accNext := rfl
@[simp] theorem setLink_pdHist : (s.setLink p v).pdHist = s.pdHist := rfl
@[simp] theorem setLink_eng (e' : Nat) : (s.setLink p v).eng e' = s.eng e' := rfl
@[simp] theorem setLink_ctx (c' : Nat) : (s.setLink p v).ctx c' = s.ctx c' := rfl
@[simp] theorem setLink_win (w' : Nat) : (s.setLink p v).win w' = s.win w' := rfl
@[simp] theorem setLink_pdt (d' : Nat) : (s.setLink p v).pdt d' = s.pdt d' := rfl
@[simp] theorem setLink_inl (i' : Nat) : (s.setLink p v).inl i' = s.inl i' := rfl
end setLink

section modLink
variable (s : State) (p : Nat) (f : Link → Link)
@[simp] theorem modLink_pending : (s.modLink p f).pending = s.pending := rfl
@[simp] theorem modLink_pins : (s.modLink p f).pins = s.pins := rfl
@[simp] theorem modLink_time : (s.modLink p f).time = s.time := rfl
@[simp] theorem modLink_img : (s.modLink p f).img = s.img := rfl
@[simp] theorem modLink_pwr : (s.modLink p f).pwr = s.pwr := rfl
@[simp] theorem modLink_epoch : (s.modLink p f).epoch = s.epoch := rfl
@[simp] theorem modLink_epochDone : (s.modLink p f).epochDone = s.epochDone := rfl
@[simp] theorem modLink_coreWeight : (s.modLink p f).coreWeight = s.coreWeight := rfl
@[simp] theorem modLink_groupBase : (s.modLink p f).groupBase = s.groupBase := rfl
@[simp] theorem modLink_dbDrop : (s.modLink p f).dbDrop = s.dbDrop := rfl
@[simp] theorem modLink_dom : (s.modLink p f).dom = s.dom := rfl
@[simp] theorem modLink_err : (s.modLink p f).err = s.err := rfl
@[simp] theorem modLink_engines : (s.modLink p f).engines = s.engines := rfl
@[simp] theorem modLink_ctxs : (s.modLink p f).ctxs = s.ctxs := rfl
@[simp] theorem modLink_waitQ : (s.modLink p f).waitQ = s.waitQ := rfl
@[simp] theorem modLink_windows : (s.modLink p f).windows = s.windows := rfl
@[simp] theorem modLink_pds : (s.modLink p f).pds = s.pds := rfl
@[simp] theorem modLink_inlines : (s.modLink p f).inlines = s.inlines := rfl
@[simp] theorem modLink_samp : (s.modLink p f).samp = s.samp := rfl
@[simp] theorem modLink_trace : (s.modLink p f).trace = s.trace := rfl
@[simp] theorem modLink_testRegs : (s.modLink p f).testRegs = s.testRegs := rfl
@[simp] theorem modLink_mem : (s.modLink p f).mem = s.mem := rfl
@[simp] theorem modLink_outputs : (s.modLink p f).outputs = s.outputs := rfl
@[simp] theorem modLink_devMap : (s.modLink p f).devMap = s.devMap := rfl
@[simp] theorem modLink_apBase : (s.modLink p f).apBase = s.apBase := rfl
@[simp] theorem modLink_apSize : (s.modLink p f).apSize = s.apSize := rfl
@[simp] theorem modLink_freeCount : (s.modLink p f).freeCount = s.freeCount := rfl
@[simp] theorem modLink_stackDef : (s.modLink p f).stackDef = s.stackDef := rfl
@[simp] theorem modLink_accesses : (s.modLink p f).accesses = s.accesses := rfl
@[simp] theorem modLink_accNext : (s.modLink p f).accNext = s.accNext := rfl
@[simp] theorem modLink_pdHist : (s.modLink p f).pdHist = s.pdHist := rfl
@[simp] theorem modLink_eng (e' : Nat) : (s.modLink p f).eng e' = s.eng e' := rfl
@[simp] theorem modLink_ctx (c' : Nat) : (s.modLink p f).ctx c' = s.ctx c' := rfl
@[simp] theorem modLink_win (w' : Nat) : (s.modLink p f).win w' = s.win w' := rfl
@[simp] theorem modLink_pdt (d' : Nat) : (s.modLink p f).pdt d' = s.pdt d' := rfl
@[simp] theorem modLink_inl (i' : Nat) : (s.modLink p f).inl i' = s.inl i' := rfl
end modLink

section setCtx
variable (s : State) (c : Nat) (v : Ctx)
@[simp] theorem setCtx_pending : (s.setCtx c v).pending = s.pending := rfl
@[simp] theorem setCtx_pins : (s.setCtx c v).pins = s.pins := rfl
@[simp] theorem setCtx_time : (s.setCtx c v).time = s.time := rfl
@[simp] theorem setCtx_img : (s.setCtx c v).img = s.img := rfl
@[simp] theorem setCtx_pwr : (s.setCtx c v).pwr = s.pwr := rfl
@[simp] theorem setCtx_epoch : (s.setCtx c v).epoch = s.epoch := rfl
@[simp] theorem setCtx_epochDone : (s.setCtx c v).epochDone = s.epochDone := rfl
@[simp] theorem setCtx_coreWeight : (s.setCtx c v).coreWeight = s.coreWeight := rfl
@[simp] theorem setCtx_groupBase : (s.setCtx c v).groupBase = s.groupBase := rfl
@[simp] theorem setCtx_dbDrop : (s.setCtx c v).dbDrop = s.dbDrop := rfl
@[simp] theorem setCtx_dom : (s.setCtx c v).dom = s.dom := rfl
@[simp] theorem setCtx_err : (s.setCtx c v).err = s.err := rfl
@[simp] theorem setCtx_engines : (s.setCtx c v).engines = s.engines := rfl
@[simp] theorem setCtx_links : (s.setCtx c v).links = s.links := rfl
@[simp] theorem setCtx_waitQ : (s.setCtx c v).waitQ = s.waitQ := rfl
@[simp] theorem setCtx_windows : (s.setCtx c v).windows = s.windows := rfl
@[simp] theorem setCtx_pds : (s.setCtx c v).pds = s.pds := rfl
@[simp] theorem setCtx_inlines : (s.setCtx c v).inlines = s.inlines := rfl
@[simp] theorem setCtx_samp : (s.setCtx c v).samp = s.samp := rfl
@[simp] theorem setCtx_trace : (s.setCtx c v).trace = s.trace := rfl
@[simp] theorem setCtx_testRegs : (s.setCtx c v).testRegs = s.testRegs := rfl
@[simp] theorem setCtx_mem : (s.setCtx c v).mem = s.mem := rfl
@[simp] theorem setCtx_outputs : (s.setCtx c v).outputs = s.outputs := rfl
@[simp] theorem setCtx_devMap : (s.setCtx c v).devMap = s.devMap := rfl
@[simp] theorem setCtx_apBase : (s.setCtx c v).apBase = s.apBase := rfl
@[simp] theorem setCtx_apSize : (s.setCtx c v).apSize = s.apSize := rfl
@[simp] theorem setCtx_freeCount : (s.setCtx c v).freeCount = s.freeCount := rfl
@[simp] theorem setCtx_stackDef : (s.setCtx c v).stackDef = s.stackDef := rfl
@[simp] theorem setCtx_accesses : (s.setCtx c v).accesses = s.accesses := rfl
@[simp] theorem setCtx_accNext : (s.setCtx c v).accNext = s.accNext := rfl
@[simp] theorem setCtx_pdHist : (s.setCtx c v).pdHist = s.pdHist := rfl
@[simp] theorem setCtx_eng (e' : Nat) : (s.setCtx c v).eng e' = s.eng e' := rfl
@[simp] theorem setCtx_link (p' : Nat) : (s.setCtx c v).link p' = s.link p' := rfl
@[simp] theorem setCtx_win (w' : Nat) : (s.setCtx c v).win w' = s.win w' := rfl
@[simp] theorem setCtx_pdt (d' : Nat) : (s.setCtx c v).pdt d' = s.pdt d' := rfl
@[simp] theorem setCtx_inl (i' : Nat) : (s.setCtx c v).inl i' = s.inl i' := rfl
end setCtx

section modCtx
variable (s : State) (c : Nat) (f : Ctx → Ctx)
@[simp] theorem modCtx_pending : (s.modCtx c f).pending = s.pending := rfl
@[simp] theorem modCtx_pins : (s.modCtx c f).pins = s.pins := rfl
@[simp] theorem modCtx_time : (s.modCtx c f).time = s.time := rfl
@[simp] theorem modCtx_img : (s.modCtx c f).img = s.img := rfl
@[simp] theorem modCtx_pwr : (s.modCtx c f).pwr = s.pwr := rfl
@[simp] theorem modCtx_epoch : (s.modCtx c f).epoch = s.epoch := rfl
@[simp] theorem modCtx_epochDone : (s.modCtx c f).epochDone = s.epochDone := rfl
@[simp] theorem modCtx_coreWeight : (s.modCtx c f).coreWeight = s.coreWeight := rfl
@[simp] theorem modCtx_groupBase : (s.modCtx c f).groupBase = s.groupBase := rfl
@[simp] theorem modCtx_dbDrop : (s.modCtx c f).dbDrop = s.dbDrop := rfl
@[simp] theorem modCtx_dom : (s.modCtx c f).dom = s.dom := rfl
@[simp] theorem modCtx_err : (s.modCtx c f).err = s.err := rfl
@[simp] theorem modCtx_engines : (s.modCtx c f).engines = s.engines := rfl
@[simp] theorem modCtx_links : (s.modCtx c f).links = s.links := rfl
@[simp] theorem modCtx_waitQ : (s.modCtx c f).waitQ = s.waitQ := rfl
@[simp] theorem modCtx_windows : (s.modCtx c f).windows = s.windows := rfl
@[simp] theorem modCtx_pds : (s.modCtx c f).pds = s.pds := rfl
@[simp] theorem modCtx_inlines : (s.modCtx c f).inlines = s.inlines := rfl
@[simp] theorem modCtx_samp : (s.modCtx c f).samp = s.samp := rfl
@[simp] theorem modCtx_trace : (s.modCtx c f).trace = s.trace := rfl
@[simp] theorem modCtx_testRegs : (s.modCtx c f).testRegs = s.testRegs := rfl
@[simp] theorem modCtx_mem : (s.modCtx c f).mem = s.mem := rfl
@[simp] theorem modCtx_outputs : (s.modCtx c f).outputs = s.outputs := rfl
@[simp] theorem modCtx_devMap : (s.modCtx c f).devMap = s.devMap := rfl
@[simp] theorem modCtx_apBase : (s.modCtx c f).apBase = s.apBase := rfl
@[simp] theorem modCtx_apSize : (s.modCtx c f).apSize = s.apSize := rfl
@[simp] theorem modCtx_freeCount : (s.modCtx c f).freeCount = s.freeCount := rfl
@[simp] theorem modCtx_stackDef : (s.modCtx c f).stackDef = s.stackDef := rfl
@[simp] theorem modCtx_accesses : (s.modCtx c f).accesses = s.accesses := rfl
@[simp] theorem modCtx_accNext : (s.modCtx c f).accNext = s.accNext := rfl
@[simp] theorem modCtx_pdHist : (s.modCtx c f).pdHist = s.pdHist := rfl
@[simp] theorem modCtx_eng (e' : Nat) : (s.modCtx c f).eng e' = s.eng e' := rfl
@[simp] theorem modCtx_link (p' : Nat) : (s.modCtx c f).link p' = s.link p' := rfl
@[simp] theorem modCtx_win (w' : Nat) : (s.modCtx c f).win w' = s.win w' := rfl
@[simp] theorem modCtx_pdt (d' : Nat) : (s.modCtx c f).pdt d' = s.pdt d' := rfl
@[simp] theorem modCtx_inl (i' : Nat) : (s.modCtx c f).inl i' = s.inl i' := rfl
end modCtx

section modDesc
variable (s : State) (c q : Nat) (f : Desc → Desc)
@[simp] theorem modDesc_pending : (s.modDesc c q f).pending = s.pending := rfl
@[simp] theorem modDesc_pins : (s.modDesc c q f).pins = s.pins := rfl
@[simp] theorem modDesc_time : (s.modDesc c q f).time = s.time := rfl
@[simp] theorem modDesc_img : (s.modDesc c q f).img = s.img := rfl
@[simp] theorem modDesc_pwr : (s.modDesc c q f).pwr = s.pwr := rfl
@[simp] theorem modDesc_epoch : (s.modDesc c q f).epoch = s.epoch := rfl
@[simp] theorem modDesc_epochDone : (s.modDesc c q f).epochDone = s.epochDone := rfl
@[simp] theorem modDesc_coreWeight : (s.modDesc c q f).coreWeight = s.coreWeight := rfl
@[simp] theorem modDesc_groupBase : (s.modDesc c q f).groupBase = s.groupBase := rfl
@[simp] theorem modDesc_dbDrop : (s.modDesc c q f).dbDrop = s.dbDrop := rfl
@[simp] theorem modDesc_dom : (s.modDesc c q f).dom = s.dom := rfl
@[simp] theorem modDesc_err : (s.modDesc c q f).err = s.err := rfl
@[simp] theorem modDesc_engines : (s.modDesc c q f).engines = s.engines := rfl
@[simp] theorem modDesc_links : (s.modDesc c q f).links = s.links := rfl
@[simp] theorem modDesc_waitQ : (s.modDesc c q f).waitQ = s.waitQ := rfl
@[simp] theorem modDesc_windows : (s.modDesc c q f).windows = s.windows := rfl
@[simp] theorem modDesc_pds : (s.modDesc c q f).pds = s.pds := rfl
@[simp] theorem modDesc_inlines : (s.modDesc c q f).inlines = s.inlines := rfl
@[simp] theorem modDesc_samp : (s.modDesc c q f).samp = s.samp := rfl
@[simp] theorem modDesc_trace : (s.modDesc c q f).trace = s.trace := rfl
@[simp] theorem modDesc_testRegs : (s.modDesc c q f).testRegs = s.testRegs := rfl
@[simp] theorem modDesc_mem : (s.modDesc c q f).mem = s.mem := rfl
@[simp] theorem modDesc_outputs : (s.modDesc c q f).outputs = s.outputs := rfl
@[simp] theorem modDesc_devMap : (s.modDesc c q f).devMap = s.devMap := rfl
@[simp] theorem modDesc_apBase : (s.modDesc c q f).apBase = s.apBase := rfl
@[simp] theorem modDesc_apSize : (s.modDesc c q f).apSize = s.apSize := rfl
@[simp] theorem modDesc_freeCount : (s.modDesc c q f).freeCount = s.freeCount := rfl
@[simp] theorem modDesc_stackDef : (s.modDesc c q f).stackDef = s.stackDef := rfl
@[simp] theorem modDesc_accesses : (s.modDesc c q f).accesses = s.accesses := rfl
@[simp] theorem modDesc_accNext : (s.modDesc c q f).accNext = s.accNext := rfl
@[simp] theorem modDesc_pdHist : (s.modDesc c q f).pdHist = s.pdHist := rfl
@[simp] theorem modDesc_eng (e' : Nat) : (s.modDesc c q f).eng e' = s.eng e' := rfl
@[simp] theorem modDesc_link (p' : Nat) : (s.modDesc c q f).link p' = s.link p' := rfl
@[simp] theorem modDesc_win (w' : Nat) : (s.modDesc c q f).win w' = s.win w' := rfl
@[simp] theorem modDesc_pdt (d' : Nat) : (s.modDesc c q f).pdt d' = s.pdt d' := rfl
@[simp] theorem modDesc_inl (i' : Nat) : (s.modDesc c q f).inl i' = s.inl i' := rfl
end modDesc

section setWin
variable (s : State) (w : Nat) (v : Window)
@[simp] theorem setWin_pending : (s.setWin w v).pending = s.pending := rfl
@[simp] theorem setWin_pins : (s.setWin w v).pins = s.pins := rfl
@[simp] theorem setWin_time : (s.setWin w v).time = s.time := rfl
@[simp] theorem setWin_img : (s.setWin w v).img = s.img := rfl
@[simp] theorem setWin_pwr : (s.setWin w v).pwr = s.pwr := rfl
@[simp] theorem setWin_epoch : (s.setWin w v).epoch = s.epoch := rfl
@[simp] theorem setWin_epochDone : (s.setWin w v).epochDone = s.epochDone := rfl
@[simp] theorem setWin_coreWeight : (s.setWin w v).coreWeight = s.coreWeight := rfl
@[simp] theorem setWin_groupBase : (s.setWin w v).groupBase = s.groupBase := rfl
@[simp] theorem setWin_dbDrop : (s.setWin w v).dbDrop = s.dbDrop := rfl
@[simp] theorem setWin_dom : (s.setWin w v).dom = s.dom := rfl
@[simp] theorem setWin_err : (s.setWin w v).err = s.err := rfl
@[simp] theorem setWin_engines : (s.setWin w v).engines = s.engines := rfl
@[simp] theorem setWin_links : (s.setWin w v).links = s.links := rfl
@[simp] theorem setWin_ctxs : (s.setWin w v).ctxs = s.ctxs := rfl
@[simp] theorem setWin_waitQ : (s.setWin w v).waitQ = s.waitQ := rfl
@[simp] theorem setWin_pds : (s.setWin w v).pds = s.pds := rfl
@[simp] theorem setWin_inlines : (s.setWin w v).inlines = s.inlines := rfl
@[simp] theorem setWin_samp : (s.setWin w v).samp = s.samp := rfl
@[simp] theorem setWin_trace : (s.setWin w v).trace = s.trace := rfl
@[simp] theorem setWin_testRegs : (s.setWin w v).testRegs = s.testRegs := rfl
@[simp] theorem setWin_mem : (s.setWin w v).mem = s.mem := rfl
@[simp] theorem setWin_outputs : (s.setWin w v).outputs = s.outputs := rfl
@[simp] theorem setWin_devMap : (s.setWin w v).devMap = s.devMap := rfl
@[simp] theorem setWin_apBase : (s.setWin w v).apBase = s.apBase := rfl
@[simp] theorem setWin_apSize : (s.setWin w v).apSize = s.apSize := rfl
@[simp] theorem setWin_freeCount : (s.setWin w v).freeCount = s.freeCount := rfl
@[simp] theorem setWin_stackDef : (s.setWin w v).stackDef = s.stackDef := rfl
@[simp] theorem setWin_accesses : (s.setWin w v).accesses = s.accesses := rfl
@[simp] theorem setWin_accNext : (s.setWin w v).accNext = s.accNext := rfl
@[simp] theorem setWin_pdHist : (s.setWin w v).pdHist = s.pdHist := rfl
@[simp] theorem setWin_eng (e' : Nat) : (s.setWin w v).eng e' = s.eng e' := rfl
@[simp] theorem setWin_link (p' : Nat) : (s.setWin w v).link p' = s.link p' := rfl
@[simp] theorem setWin_ctx (c' : Nat) : (s.setWin w v).ctx c' = s.ctx c' := rfl
@[simp] theorem setWin_pdt (d' : Nat) : (s.setWin w v).pdt d' = s.pdt d' := rfl
@[simp] theorem setWin_inl (i' : Nat) : (s.setWin w v).inl i' = s.inl i' := rfl
end setWin

section setPd
variable (s : State) (d : Nat) (v : PdEntry)
@[simp] theorem setPd_pending : (s.setPd d v).pending = s.pending := rfl
@[simp] theorem setPd_pins : (s.setPd d v).pins = s.pins := rfl
@[simp] theorem setPd_time : (s.setPd d v).time = s.time := rfl
@[simp] theorem setPd_img : (s.setPd d v).img = s.img := rfl
@[simp] theorem setPd_pwr : (s.setPd d v).pwr = s.pwr := rfl
@[simp] theorem setPd_epoch : (s.setPd d v).epoch = s.epoch := rfl
@[simp] theorem setPd_epochDone : (s.setPd d v).epochDone = s.epochDone := rfl
@[simp] theorem setPd_coreWeight : (s.setPd d v).coreWeight = s.coreWeight := rfl
@[simp] theorem setPd_groupBase : (s.setPd d v).groupBase = s.groupBase := rfl
@[simp] theorem setPd_dbDrop : (s.setPd d v).dbDrop = s.dbDrop := rfl
@[simp] theorem setPd_dom : (s.setPd d v).dom = s.dom := rfl
@[simp] theorem setPd_err : (s.setPd d v).err = s.err := rfl
@[simp] theorem setPd_engines : (s.setPd d v).engines = s.engines := rfl
@[simp] theorem setPd_links : (s.setPd d v).links = s.links := rfl
@[simp] theorem setPd_ctxs : (s.setPd d v).ctxs = s.ctxs := rfl
@[simp] theorem setPd_waitQ : (s.setPd d v).waitQ = s.waitQ := rfl
@[simp] theorem setPd_windows : (s.setPd d v).windows = s.windows := rfl
@[simp] theorem setPd_inlines : (s.setPd d v).inlines = s.inlines := rfl
@[simp] theorem setPd_samp : (s.setPd d v).samp = s.samp := rfl
@[simp] theorem setPd_trace : (s.setPd d v).trace = s.trace := rfl
@[simp] theorem setPd_testRegs : (s.setPd d v).testRegs = s.testRegs := rfl
@[simp] theorem setPd_mem : (s.setPd d v).mem = s.mem := rfl
@[simp] theorem setPd_outputs : (s.setPd d v).outputs = s.outputs := rfl
@[simp] theorem setPd_devMap : (s.setPd d v).devMap = s.devMap := rfl
@[simp] theorem setPd_apBase : (s.setPd d v).apBase = s.apBase := rfl
@[simp] theorem setPd_apSize : (s.setPd d v).apSize = s.apSize := rfl
@[simp] theorem setPd_freeCount : (s.setPd d v).freeCount = s.freeCount := rfl
@[simp] theorem setPd_stackDef : (s.setPd d v).stackDef = s.stackDef := rfl
@[simp] theorem setPd_accesses : (s.setPd d v).accesses = s.accesses := rfl
@[simp] theorem setPd_accNext : (s.setPd d v).accNext = s.accNext := rfl
@[simp] theorem setPd_pdHist : (s.setPd d v).pdHist = s.pdHist := rfl
@[simp] theorem setPd_eng (e' : Nat) : (s.setPd d v).eng e' = s.eng e' := rfl
@[simp] theorem setPd_link (p' : Nat) : (s.setPd d v).link p' = s.link p' := rfl
@[simp] theorem setPd_ctx (c' : Nat) : (s.setPd d v).ctx c' = s.ctx c' := rfl
@[simp] theorem setPd_win (w' : Nat) : (s.setPd d v).win w' = s.win w' := rfl
@[simp] theorem setPd_inl (i' : Nat) : (s.setPd d v).inl i' = s.inl i' := rfl
end setPd

section setInl
variable (s : State) (i : Nat) (v : InlineWin)
@[simp] theorem setInl_pending : (s.setInl i v).pending = s.pending := rfl
@[simp] theorem setInl_pins : (s.setInl i v).pins = s.pins := rfl
@[simp] theorem setInl_time : (s.setInl i v).time = s.time := rfl
@[simp] theorem setInl_img : (s.setInl i v).img = s.img := rfl
@[simp] theorem setInl_pwr : (s.setInl i v).pwr = s.pwr := rfl
@[simp] theorem setInl_epoch : (s.setInl i v).epoch = s.epoch := rfl
@[simp] theorem setInl_epochDone : (s.setInl i v).epochDone = s.epochDone := rfl
@[simp] theorem setInl_coreWeight : (s.setInl i v).coreWeight = s.coreWeight := rfl
@[simp] theorem setInl_groupBase : (s.setInl i v).groupBase = s.groupBase := rfl
@[simp] theorem setInl_dbDrop : (s.setInl i v).dbDrop = s.dbDrop := rfl
@[simp] theorem setInl_dom : (s.setInl i v).dom = s.dom := rfl
@[simp] theorem setInl_err : (s.setInl i v).err = s.err := rfl
@[simp] theorem setInl_engines : (s.setInl i v).engines = s.engines := rfl
@[simp] theorem setInl_links : (s.setInl i v).links = s.links := rfl
@[simp] theorem setInl_ctxs : (s.setInl i v).ctxs = s.ctxs := rfl
@[simp] theorem setInl_waitQ : (s.setInl i v).waitQ = s.waitQ := rfl
@[simp] theorem setInl_windows : (s.setInl i v).windows = s.windows := rfl
@[simp] theorem setInl_pds : (s.setInl i v).pds = s.pds := rfl
@[simp] theorem setInl_samp : (s.setInl i v).samp = s.samp := rfl
@[simp] theorem setInl_trace : (s.setInl i v).trace = s.trace := rfl
@[simp] theorem setInl_testRegs : (s.setInl i v).testRegs = s.testRegs := rfl
@[simp] theorem setInl_mem : (s.setInl i v).mem = s.mem := rfl
@[simp] theorem setInl_outputs : (s.setInl i v).outputs = s.outputs := rfl
@[simp] theorem setInl_devMap : (s.setInl i v).devMap = s.devMap := rfl
@[simp] theorem setInl_apBase : (s.setInl i v).apBase = s.apBase := rfl
@[simp] theorem setInl_apSize : (s.setInl i v).apSize = s.apSize := rfl
@[simp] theorem setInl_freeCount : (s.setInl i v).freeCount = s.freeCount := rfl
@[simp] theorem setInl_stackDef : (s.setInl i v).stackDef = s.stackDef := rfl
@[simp] theorem setInl_accesses : (s.setInl i v).accesses = s.accesses := rfl
@[simp] theorem setInl_accNext : (s.setInl i v).accNext = s.accNext := rfl
@[simp] theorem setInl_pdHist : (s.setInl i v).pdHist = s.pdHist := rfl
@[simp] theorem setInl_eng (e' : Nat) : (s.setInl i v).eng e' = s.eng e' := rfl
@[simp] theorem setInl_link (p' : Nat) : (s.setInl i v).link p' = s.link p' := rfl
@[simp] theorem setInl_ctx (c' : Nat) : (s.setInl i v).ctx c' = s.ctx c' := rfl
@[simp] theorem setInl_win (w' : Nat) : (s.setInl i v).win w' = s.win w' := rfl
@[simp] theorem setInl_pdt (d' : Nat) : (s.setInl i v).pdt d' = s.pdt d' := rfl
end setInl

section modInl
variable (s : State) (i : Nat) (f : InlineWin → InlineWin)
@[simp] theorem modInl_pending : (s.modInl i f).pending = s.pending := rfl
@[simp] theorem modInl_pins : (s.modInl i f).pins = s.pins := rfl
@[simp] theorem modInl_time : (s.modInl i f).time = s.time := rfl
@[simp] theorem modInl_img : (s.modInl i f).img = s.img := rfl
@[simp] theorem modInl_pwr : (s.modInl i f).pwr = s.pwr := rfl
@[simp] theorem modInl_epoch : (s.modInl i f).epoch = s.epoch := rfl
@[simp] theorem modInl_epochDone : (s.modInl i f).epochDone = s.epochDone := rfl
@[simp] theorem modInl_coreWeight : (s.modInl i f).coreWeight = s.coreWeight := rfl
@[simp] theorem modInl_groupBase : (s.modInl i f).groupBase = s.groupBase := rfl
@[simp] theorem modInl_dbDrop : (s.modInl i f).dbDrop = s.dbDrop := rfl
@[simp] theorem modInl_dom : (s.modInl i f).dom = s.dom := rfl
@[simp] theorem modInl_err : (s.modInl i f).err = s.err := rfl
@[simp] theorem modInl_engines : (s.modInl i f).engines = s.engines := rfl
@[simp] theorem modInl_links : (s.modInl i f).links = s.links := rfl
@[simp] theorem modInl_ctxs : (s.modInl i f).ctxs = s.ctxs := rfl
@[simp] theorem modInl_waitQ : (s.modInl i f).waitQ = s.waitQ := rfl
@[simp] theorem modInl_windows : (s.modInl i f).windows = s.windows := rfl
@[simp] theorem modInl_pds : (s.modInl i f).pds = s.pds := rfl
@[simp] theorem modInl_samp : (s.modInl i f).samp = s.samp := rfl
@[simp] theorem modInl_trace : (s.modInl i f).trace = s.trace := rfl
@[simp] theorem modInl_testRegs : (s.modInl i f).testRegs = s.testRegs := rfl
@[simp] theorem modInl_mem : (s.modInl i f).mem = s.mem := rfl
@[simp] theorem modInl_outputs : (s.modInl i f).outputs = s.outputs := rfl
@[simp] theorem modInl_devMap : (s.modInl i f).devMap = s.devMap := rfl
@[simp] theorem modInl_apBase : (s.modInl i f).apBase = s.apBase := rfl
@[simp] theorem modInl_apSize : (s.modInl i f).apSize = s.apSize := rfl
@[simp] theorem modInl_freeCount : (s.modInl i f).freeCount = s.freeCount := rfl
@[simp] theorem modInl_stackDef : (s.modInl i f).stackDef = s.stackDef := rfl
@[simp] theorem modInl_accesses : (s.modInl i f).accesses = s.accesses := rfl
@[simp] theorem modInl_accNext : (s.modInl i f).accNext = s.accNext := rfl
@[simp] theorem modInl_pdHist : (s.modInl i f).pdHist = s.pdHist := rfl
@[simp] theorem modInl_eng (e' : Nat) : (s.modInl i f).eng e' = s.eng e' := rfl
@[simp] theorem modInl_link (p' : Nat) : (s.modInl i f).link p' = s.link p' := rfl
@[simp] theorem modInl_ctx (c' : Nat) : (s.modInl i f).ctx c' = s.ctx c' := rfl
@[simp] theorem modInl_win (w' : Nat) : (s.modInl i f).win w' = s.win w' := rfl
@[simp] theorem modInl_pdt (d' : Nat) : (s.modInl i f).pdt d' = s.pdt d' := rfl
end modInl

section out
variable (s : State) (o : Output)
@[simp] theorem out_pending : (s.out o).pending = s.pending := rfl
@[simp] theorem out_pins : (s.out o).pins = s.pins := rfl
@[simp] theorem out_time : (s.out o).time = s.time := rfl
@[simp] theorem out_img : (s.out o).img = s.img := rfl
@[simp] theorem out_pwr : (s.out o).pwr = s.pwr := rfl
@[simp] theorem out_epoch : (s.out o).epoch = s.epoch := rfl
@[simp] theorem out_epochDone : (s.out o).epochDone = s.epochDone := rfl
@[simp] theorem out_coreWeight : (s.out o).coreWeight = s.coreWeight := rfl
@[simp] theorem out_groupBase : (s.out o).groupBase = s.groupBase := rfl
@[simp] theorem out_dbDrop : (s.out o).dbDrop = s.dbDrop := rfl
@[simp] theorem out_dom : (s.out o).dom = s.dom := rfl
@[simp] theorem out_err : (s.out o).err = s.err := rfl
@[simp] theorem out_engines : (s.out o).engines = s.engines := rfl
@[simp] theorem out_links : (s.out o).links = s.links := rfl
@[simp] theorem out_ctxs : (s.out o).ctxs = s.ctxs := rfl
@[simp] theorem out_waitQ : (s.out o).waitQ = s.waitQ := rfl
@[simp] theorem out_windows : (s.out o).windows = s.windows := rfl
@[simp] theorem out_pds : (s.out o).pds = s.pds := rfl
@[simp] theorem out_inlines : (s.out o).inlines = s.inlines := rfl
@[simp] theorem out_samp : (s.out o).samp = s.samp := rfl
@[simp] theorem out_trace : (s.out o).trace = s.trace := rfl
@[simp] theorem out_testRegs : (s.out o).testRegs = s.testRegs := rfl
@[simp] theorem out_mem : (s.out o).mem = s.mem := rfl
@[simp] theorem out_devMap : (s.out o).devMap = s.devMap := rfl
@[simp] theorem out_apBase : (s.out o).apBase = s.apBase := rfl
@[simp] theorem out_apSize : (s.out o).apSize = s.apSize := rfl
@[simp] theorem out_freeCount : (s.out o).freeCount = s.freeCount := rfl
@[simp] theorem out_stackDef : (s.out o).stackDef = s.stackDef := rfl
@[simp] theorem out_accesses : (s.out o).accesses = s.accesses := rfl
@[simp] theorem out_accNext : (s.out o).accNext = s.accNext := rfl
@[simp] theorem out_pdHist : (s.out o).pdHist = s.pdHist := rfl
@[simp] theorem out_eng (e' : Nat) : (s.out o).eng e' = s.eng e' := rfl
@[simp] theorem out_link (p' : Nat) : (s.out o).link p' = s.link p' := rfl
@[simp] theorem out_ctx (c' : Nat) : (s.out o).ctx c' = s.ctx c' := rfl
@[simp] theorem out_win (w' : Nat) : (s.out o).win w' = s.win w' := rfl
@[simp] theorem out_pdt (d' : Nat) : (s.out o).pdt d' = s.pdt d' := rfl
@[simp] theorem out_inl (i' : Nat) : (s.out o).inl i' = s.inl i' := rfl
end out

section setMem
variable (s : State) (m : Mem)
@[simp] theorem setMem_pending : (s.setMem m).pending = s.pending := rfl
@[simp] theorem setMem_pins : (s.setMem m).pins = s.pins := rfl
@[simp] theorem setMem_time : (s.setMem m).time = s.time := rfl
@[simp] theorem setMem_img : (s.setMem m).img = s.img := rfl
@[simp] theorem setMem_pwr : (s.setMem m).pwr = s.pwr := rfl
@[simp] theorem setMem_epoch : (s.setMem m).epoch = s.epoch := rfl
@[simp] theorem setMem_epochDone : (s.setMem m).epochDone = s.epochDone := rfl
@[simp] theorem setMem_coreWeight : (s.setMem m).coreWeight = s.coreWeight := rfl
@[simp] theorem setMem_groupBase : (s.setMem m).groupBase = s.groupBase := rfl
@[simp] theorem setMem_dbDrop : (s.setMem m).dbDrop = s.dbDrop := rfl
@[simp] theorem setMem_dom : (s.setMem m).dom = s.dom := rfl
@[simp] theorem setMem_err : (s.setMem m).err = s.err := rfl
@[simp] theorem setMem_engines : (s.setMem m).engines = s.engines := rfl
@[simp] theorem setMem_links : (s.setMem m).links = s.links := rfl
@[simp] theorem setMem_ctxs : (s.setMem m).ctxs = s.ctxs := rfl
@[simp] theorem setMem_waitQ : (s.setMem m).waitQ = s.waitQ := rfl
@[simp] theorem setMem_windows : (s.setMem m).windows = s.windows := rfl
@[simp] theorem setMem_pds : (s.setMem m).pds = s.pds := rfl
@[simp] theorem setMem_inlines : (s.setMem m).inlines = s.inlines := rfl
@[simp] theorem setMem_samp : (s.setMem m).samp = s.samp := rfl
@[simp] theorem setMem_trace : (s.setMem m).trace = s.trace := rfl
@[simp] theorem setMem_testRegs : (s.setMem m).testRegs = s.testRegs := rfl
@[simp] theorem setMem_outputs : (s.setMem m).outputs = s.outputs := rfl
@[simp] theorem setMem_devMap : (s.setMem m).devMap = s.devMap := rfl
@[simp] theorem setMem_apBase : (s.setMem m).apBase = s.apBase := rfl
@[simp] theorem setMem_apSize : (s.setMem m).apSize = s.apSize := rfl
@[simp] theorem setMem_freeCount : (s.setMem m).freeCount = s.freeCount := rfl
@[simp] theorem setMem_stackDef : (s.setMem m).stackDef = s.stackDef := rfl
@[simp] theorem setMem_accesses : (s.setMem m).accesses = s.accesses := rfl
@[simp] theorem setMem_accNext : (s.setMem m).accNext = s.accNext := rfl
@[simp] theorem setMem_pdHist : (s.setMem m).pdHist = s.pdHist := rfl
@[simp] theorem setMem_eng (e' : Nat) : (s.setMem m).eng e' = s.eng e' := rfl
@[simp] theorem setMem_link (p' : Nat) : (s.setMem m).link p' = s.link p' := rfl
@[simp] theorem setMem_ctx (c' : Nat) : (s.setMem m).ctx c' = s.ctx c' := rfl
@[simp] theorem setMem_win (w' : Nat) : (s.setMem m).win w' = s.win w' := rfl
@[simp] theorem setMem_pdt (d' : Nat) : (s.setMem m).pdt d' = s.pdt d' := rfl
@[simp] theorem setMem_inl (i' : Nat) : (s.setMem m).inl i' = s.inl i' := rfl
end setMem

@[simp] theorem setMem_mem (s : State) (m : Mem) : (s.setMem m).mem = m := rfl
@[simp] theorem out_outputs (s : State) (o : Output) : (s.out o).outputs = s.outputs ++ [o] := rfl

/-- A table entry written with a value other than the default reads back as written. -/
theorem eng_setEng (s : State) (e : Nat) (v : Engine) (h : v ≠ {}) : (s.setEng e v).eng e = v :=
  SMap.get_set_ne _ _ _ _ h
theorem link_setLink (s : State) (p : Nat) (v : Link) (h : v ≠ {}) : (s.setLink p v).link p = v :=
  SMap.get_set_ne _ _ _ _ h
theorem ctx_setCtx (s : State) (c : Nat) (v : Ctx) (h : v ≠ {}) : (s.setCtx c v).ctx c = v :=
  SMap.get_set_ne _ _ _ _ h
theorem win_setWin (s : State) (w : Nat) (v : Window) (h : v ≠ {}) : (s.setWin w v).win w = v :=
  SMap.get_set_ne _ _ _ _ h
theorem pdt_setPd (s : State) (d : Nat) (v : PdEntry) (h : v ≠ {}) : (s.setPd d v).pdt d = v :=
  SMap.get_set_ne _ _ _ _ h
theorem inl_setInl (s : State) (i : Nat) (v : InlineWin) (h : v ≠ {}) : (s.setInl i v).inl i = v :=
  SMap.get_set_ne _ _ _ _ h

theorem eng_setEng_other (s : State) (e j : Nat) (v : Engine) (h : v ≠ {}) (hj : j ≠ e) :
    (s.setEng e v).eng j = s.eng j := SMap.get_set_ne_other _ _ _ _ _ h hj
theorem ctx_setCtx_other (s : State) (c j : Nat) (v : Ctx) (h : v ≠ {}) (hj : j ≠ c) :
    (s.setCtx c v).ctx j = s.ctx j := SMap.get_set_ne_other _ _ _ _ _ h hj
theorem link_setLink_other (s : State) (p j : Nat) (v : Link) (h : v ≠ {}) (hj : j ≠ p) :
    (s.setLink p v).link j = s.link j := SMap.get_set_ne_other _ _ _ _ _ h hj

theorem desc?_mem {s : State} {c q : Nat} {d : Desc} (h : s.desc? c q = some d) : d ∈ (s.ctx c).descs :=
  List.mem_of_find?_eq_some h

theorem desc?_seq {s : State} {c q : Nat} {d : Desc} (h : s.desc? c q = some d) : d.seq = q := by
  simpa using List.find?_some h

/-- Of two writes of one entry the second counts. -/
theorem setEng_setEng (s : State) (e : Nat) (v w : Engine) (h : v ≠ {}) : (s.setEng e v).setEng e w = s.setEng e w := by
  simp [setEng, SMap.set_set _ _ _ _ _ h]

theorem setCtx_setCtx (s : State) (c : Nat) (v w : Ctx) (h : v ≠ {}) : (s.setCtx c v).setCtx c w = s.setCtx c w := by
  simp [setCtx, SMap.set_set _ _ _ _ _ h]

theorem setLink_setLink (s : State) (p : Nat) (v w : Link) (h : v ≠ {}) :
    (s.setLink p v).setLink p w = s.setLink p w := by
  simp [setLink, SMap.set_set _ _ _ _ _ h]

theorem desc_of {s : State} {c q : Nat} {d : Desc} (h : s.desc? c q = some d) : s.desc c q = d := by
  simp [desc, h]

/-- A descriptor changed reads back as changed, where the change keeps its slot. -/
theorem desc?_modDesc {s : State} {c q : Nat} {d : Desc} (f : Desc → Desc) (h : s.desc? c q = some d)
    (hf : (f d).seq = q) : (s.modDesc c q f).desc? c q = some (f d) := by
  have hm := desc?_mem h
  unfold modDesc modCtx
  have hne : { s.ctx c with descs := (s.ctx c).descs.map (fun d => if d.seq = q then f d else d) } ≠ ({} : Ctx) := by
    intro hc
    have := congrArg Ctx.descs hc
    simp only [List.map_eq_nil_iff] at this
    simp [this] at hm
  unfold desc?
  rw [ctx_setCtx _ _ _ hne]
  unfold desc? at h
  dsimp only
  generalize (s.ctx c).descs = l at h
  clear hne hm
  induction l with
  | nil => simp at h
  | cons x r ih =>
    simp only [List.map_cons, List.find?_cons] at h ⊢
    by_cases hx : x.seq = q
    · simp only [hx, beq_self_eq_true, if_true] at h ⊢
      cases h
      simp [hf]
    · have hx' : (x.seq == q) = false := by simpa using hx
      simp only [hx', if_neg hx] at h ⊢
      exact ih h

end Sys2Proof.Machine.State
end

