-- ==== Sys2Proof/Laws/Ports.lean ====
section
/-! SUPPORT. What the ports of an engine do to the state: a read presents requests, a write joins the engine's requests and the
arbiters grant what they can; memory, contexts, links and set-up stay. -/

namespace Sys2Proof.Machine

theorem SameSetup.rfl' (s : State) : SameSetup s s := ⟨rfl, rfl, rfl, rfl, rfl, rfl, rfl, rfl, rfl, rfl, rfl, rfl, rfl⟩
theorem SameSetup.trans' {s t u : State} (h : SameSetup s t) (k : SameSetup t u) : SameSetup s u := by
  cases h; cases k; constructor <;> simp_all

/-- From `s` to `t` only engines, the deficits of stack arbiters and outputs have changed. -/
structure EngOnly (s t : State) : Prop where
  setup : SameSetup s t
  ctxs : t.ctxs = s.ctxs
  links : t.links = s.links
  err : t.err = s.err
  trace : t.trace = s.trace
  mem : t.mem = s.mem
  waitQ : t.waitQ = s.waitQ
  epochDone : t.epochDone = s.epochDone

namespace EngOnly

theorem rfl' (s : State) : EngOnly s s := ⟨.rfl' s, rfl, rfl, rfl, rfl, rfl, rfl, rfl⟩

theorem trans' {s t u : State} (h : EngOnly s t) (k : EngOnly t u) : EngOnly s u :=
  ⟨h.1.trans' k.1, k.2.trans h.2, k.3.trans h.3, k.4.trans h.4, k.5.trans h.5, k.6.trans h.6, k.7.trans h.7, k.8.trans h.8⟩

theorem foldl {α : Type} {f : State → α → State} (hf : ∀ s x, EngOnly s (f s x)) (s : State) (l : List α) :
    EngOnly s (l.foldl f s) := by
  induction l generalizing s with
  | nil => exact rfl' s
  | cons x r ih => exact (hf s x).trans' (ih _)

theorem forN {f : State → Nat → State} (hf : ∀ s x, EngOnly s (f s x)) (s : State) (n : Nat) : EngOnly s (forN n s f) :=
  foldl hf s _

theorem modEng (s : State) (e : Nat) (f : Engine → Engine) : EngOnly s (s.modEng e f) :=
  ⟨⟨rfl, rfl, rfl, rfl, rfl, rfl, rfl, rfl, rfl, rfl, rfl, rfl, rfl⟩, rfl, rfl, rfl, rfl, rfl, rfl, rfl⟩

theorem out (s : State) (o : Output) : EngOnly s (s.out o) :=
  ⟨⟨rfl, rfl, rfl, rfl, rfl, rfl, rfl, rfl, rfl, rfl, rfl, rfl, rfl⟩, rfl, rfl, rfl, rfl, rfl, rfl, rfl⟩

theorem stack {s t : State} (h : EngOnly s t) (m : List (Nat × Nat)) : EngOnly s { t with stackDef := m } :=
  h.trans' ⟨⟨rfl, rfl, rfl, rfl, rfl, rfl, rfl, rfl, rfl, rfl, rfl, rfl, rfl⟩, rfl, rfl, rfl, rfl, rfl, rfl, rfl⟩

theorem presentReq (s : State) (e : Nat) (net : Bool) (p : Req → Bool) (tag : Option Nat) :
    EngOnly s (presentReq s e net p tag) := by
  unfold Machine.presentReq
  split
  · extract_lets s1
    have h : EngOnly s s1 := modEng s e _
    split
    · exact h
    · exact h.trans' (out _ _)
  · exact rfl' s

theorem issueReqs (s : State) (e : Nat) : EngOnly s (issueReqs s e) := by
  have hn : EngOnly s (issueNet s e) := forN (fun s _ => presentReq s e _ _ _) _ _
  unfold Machine.issueReqs
  split
  · refine hn.trans' ?_
    generalize issueNet s e = u
    unfold issueStack
    refine stack ?_ _
    refine trans' ?_ (foldl (fun s _ => presentReq s _ _ _ _) _ _)
    exact foldl (fun s _ => forN (fun s _ => presentReq s _ _ _ _) _ _) u _
  · exact hn

theorem sendReqs (s : State) (e : Nat) (l : List Req) : EngOnly s (s.sendReqs e l) := by
  unfold State.sendReqs
  split
  · exact rfl' s
  · exact (modEng s e _).trans' (issueReqs _ e)

theorem postWrites (s : State) (c q : Nat) (l : List Acc) : EngOnly s (postWrites s c q l) := sendReqs s _ _

theorem readMem (s : State) (e a n : Nat) : EngOnly s (readMem s e a n) := foldl (fun s _ => out s _) s _

theorem postReads (s : State) (c : Nat) (l : List Acc) : EngOnly s (postReads s c l) :=
  foldl (fun s _ => foldl (fun s _ => readMem s _ _ _) s _) s _

theorem ctx {s t : State} (h : EngOnly s t) (c : Nat) : t.ctx c = s.ctx c := by simp [State.ctx, h.ctxs]

theorem desc? {s t : State} (h : EngOnly s t) (c q : Nat) : t.desc? c q = s.desc? c q := by
  simp [State.desc?, h.ctx]

end EngOnly

theorem foldl_out {α : Type} {f : State → α → State} (hf : ∀ s x, ∃ o, f s x = s.out o) (s : State) (l : List α) :
    l.foldl f s = { s with outputs := (l.foldl f s).outputs } := by
  induction l generalizing s with
  | nil => rfl
  | cons x r ih =>
    obtain ⟨o, ho⟩ := hf s x
    rw [List.foldl_cons, ho]
    exact ih _

/-- A read presents requests and changes nothing else. -/
theorem readMem_eq (s : State) (e a n : Nat) : readMem s e a n = { s with outputs := (readMem s e a n).outputs } :=
  foldl_out (fun _ _ => ⟨_, rfl⟩) s _

@[simp] theorem readMem_mem (s : State) (e a n : Nat) : (readMem s e a n).mem = s.mem := (EngOnly.readMem s e a n).mem
@[simp] theorem readMem_engines (s : State) (e a n : Nat) : (readMem s e a n).engines = s.engines := by
  rw [readMem_eq]

end Sys2Proof.Machine
end

