-- ==== Sys2Proof/Laws/Admission.lean ====
section
/-! SUPPORT. What admission does before an opcode's own start: the parameter block, the checks, the watch unit, the
start of a descriptor. -/

namespace Sys2Proof.Machine

/-- A cache entry that is kept leaves the engine with another state than that of reset. -/
theorem cache_shape {s u s1 : State} {e : Nat} (l : Engine → List CacheEntry) (hu : u = { s with outputs := u.outputs })
    (hl : ∀ x, l x ≠ []) (h : u.modEng e (fun x => { x with cache := l x }) = s1) :
    ∃ v : Engine, v ≠ {} ∧ s1 = ({ s with outputs := s1.outputs } : State).setEng e v ∧ v.epoch = (s.eng e).epoch := by
  subst h
  refine ⟨{ u.eng e with cache := l (u.eng e) }, fun hc => hl _ (congrArg Engine.cache hc), ?_, ?_⟩
  · rw [hu]; rfl
  · rw [hu]; rfl

/-- Reading a parameter block presents its requests and changes nothing else but, for a RECIPE, the recipe cache of the
engine. -/
theorem loadParam_shape {s s1 : State} {c : Nat} {d : Desc} {par : List Nat} (h : loadParam s c d = some (s1, par)) :
    s1 = { s with outputs := s1.outputs } ∨ ∃ v : Engine, v ≠ {} ∧
      s1 = ({ s with outputs := s1.outputs } : State).setEng (s.engOf c) v ∧ v.epoch = (s.eng (s.engOf c)).epoch := by
  unfold loadParam at h
  split at h
  · cases h; exact .inl rfl
  · split at h
    · unfold loadRecipe fetchWords at h
      dsimp only at h
      have hr := readMem_eq s (s.engOf c) (paramAddr (s.ctx c) d) (8 * 8)
      generalize readMem s (s.engOf c) (paramAddr (s.ctx c) d) (8 * 8) = u at h hr
      split at h
      · injection h with h1; injection h1 with h2 _
        exact .inr (cache_shape _ hr (fun _ => by simp) h2)
      · generalize hm : readMem u _ _ _ = w at h
        have hw : w = { s with outputs := w.outputs } := by
          rw [← hm]
          exact (readMem_eq u _ _ _).trans (by rw [hr])
        split at h
        · injection h with h1; injection h1 with h2 _
          exact .inr (cache_shape _ hw (fun _ => by simp) h2)
        · cases h
    · injection h with h
      have h1 := readMem_eq s (s.engOf c) (paramAddr (s.ctx c) d) (8 * (if d.op = opREBOND then 16 else 8))
      cases h
      exact .inl h1

theorem loadParam_ctx {s s1 : State} {c : Nat} {d : Desc} {par : List Nat} (h : loadParam s c d = some (s1, par)) :
    s1.ctxs = s.ctxs ∧ (s1.eng (s.engOf c)).epoch = (s.eng (s.engOf c)).epoch := by
  rcases loadParam_shape h with h | ⟨v, hv, h, he⟩
  · rw [h]; exact ⟨rfl, rfl⟩
  · rw [h]; exact ⟨rfl, by rw [State.eng_setEng _ _ _ hv]; exact he⟩

/-- Admission of a descriptor whose checks pass: it is admitted, and its opcode's start follows. -/
theorem admitRow_eq {s s1 : State} {c op : Nat} {d : Desc} {par : List Nat} (h : Admits s c op d s1 par)
    (hd : s.desc? c d.seq = some d) (hc : op ≠ opCOLLECTIVE) (hr : op ≠ opREBOND) :
    admitRow s c op = beginDesc (s1.modDesc c d.seq (fun _ => admittedAs d par (s.eng (s.engOf c)).epoch)) c
      (admittedAs d par (s.eng (s.engOf c)).epoch) {} ∧
    (s1.modDesc c d.seq (fun _ => admittedAs d par (s.eng (s.engOf c)).epoch)).desc? c d.seq =
      some (admittedAs d par (s.eng (s.engOf c)).epoch) := by
  obtain ⟨h1, h2, h3, h4, h5⟩ := h
  have hcoll : ({ d with par := par } : Desc).isColl = false := by
    have : ({ d with par := par } : Desc).op = op := h2
    simp [Desc.isColl, this, hc, hr]
  obtain ⟨hx, he⟩ := loadParam_ctx h3
  have heng : s1.engOf c = s.engOf c := by simp [State.engOf, State.ctx, hx]
  have hd1 : s1.desc? c d.seq = some d := by simpa [State.desc?, State.ctx, hx] using hd
  have hrd := State.desc?_modDesc (f := fun _ => admittedAs d par (s.eng (s.engOf c)).epoch) hd1 rfl
  refine ⟨?_, hrd⟩
  unfold admitRow
  simp only [h1, h2, Bool.true_or, decide_true, if_true, h3]
  rw [h4]
  simp only [Bool.false_eq_true, if_false]
  unfold admitDesc
  simp only [hcoll, Bool.false_and, Bool.false_eq_true, if_false, heng, he]
  rw [h5]
  simp only [Option.isSome_none, Bool.false_eq_true, if_false]
  have := State.desc_of hrd
  show beginDesc _ c (State.desc (s1.modDesc c d.seq (fun _ => admittedAs d par (s.eng (s.engOf c)).epoch)) c d.seq) {} = _
  rw [this]
  rfl

/-- Asking for the watch unit changes engines only. -/
theorem wantWatch_facts (s : State) (e : Nat) (d : Desc) :
    (wantWatch s e d).ctxs = s.ctxs ∧ (wantWatch s e d).mem = s.mem ∧ SameSetup s (wantWatch s e d) ∧
      (wantWatch s e d).links = s.links ∧ (wantWatch s e d).err = s.err ∧ (wantWatch s e d).trace = s.trace ∧
      (wantWatch s e d).outputs = s.outputs := by
  unfold wantWatch
  split
  · exact ⟨rfl, rfl, ⟨rfl, rfl, rfl, rfl, rfl, rfl, rfl, rfl, rfl, rfl, rfl, rfl, rfl⟩, rfl, rfl, rfl, rfl⟩
  · exact ⟨rfl, rfl, ⟨rfl, rfl, rfl, rfl, rfl, rfl, rfl, rfl, rfl, rfl, rfl, rfl, rfl⟩, rfl, rfl, rfl, rfl⟩

theorem modDesc_other {s : State} {c q x : Nat} {d : Desc} {f : Desc → Desc} (h : s.desc? c q = some d) (hx : x ≠ c) :
   (s.modDesc c q f).ctx x = s.ctx x := by
  refine State.ctx_setCtx_other _ _ _ _ ?_ hx
  intro hc
  have := congrArg Ctx.descs hc
  have hm := State.desc?_mem h
  simp only [List.map_eq_nil_iff] at this
  simp [this] at hm

/-- What an emitted trace record leaves as it was: everything but the engines, the requests that carry it, the trace words and,
with the trace on, memory. -/
structure TraceOnly (s t : State) : Prop where
  send : SendOnly s t
  links : t.links = s.links

theorem SendOnly.rfl' (s : State) : SendOnly s s := ⟨.rfl' s, rfl, rfl, rfl, rfl, rfl, rfl, fun _ => ⟨rfl, rfl, rfl⟩⟩

theorem SendOnly.trans' {s t u : State} (h : SendOnly s t) (k : SendOnly t u) : SendOnly s u :=
  ⟨h.1.trans' k.1, k.2.trans h.2, k.3.trans h.3, k.4.trans h.4, k.5.trans h.5, k.6.trans h.6, k.7.trans h.7,
    fun x =>
      have a := h.8 x
      have b := k.8 (h.7.trans x)
      ⟨b.1.trans a.1, b.2.1.trans a.2.1, b.2.2.trans a.2.2⟩⟩

theorem TraceOnly.rfl' (s : State) : TraceOnly s s := ⟨.rfl' s, rfl⟩
theorem TraceOnly.trans' {s t u : State} (h : TraceOnly s t) (k : TraceOnly t u) : TraceOnly s u :=
  ⟨h.1.trans' k.1, k.2.trans h.2⟩

/-- A change of engines and requests, with the trace on. -/
theorem TraceOnly.ofEng {s t : State} (k : EngOnly s t) (h : s.trace.on = true) : TraceOnly s t :=
  ⟨⟨k.setup, k.ctxs, k.err, k.waitQ, k.epochDone, by rw [k.trace], by rw [k.trace], fun x => by simp [h] at x⟩, k.links⟩

theorem traceOnly_modEng (s : State) (e : Nat) (f : Engine → Engine) (h : s.trace.on = true) : TraceOnly s (s.modEng e f) :=
  .ofEng (EngOnly.modEng s e f) h

theorem traceOnly_traceLose (s : State) (e : Nat) (h : s.trace.on = true) : TraceOnly s (traceLose s e) :=
  ⟨⟨⟨rfl, rfl, rfl, rfl, rfl, rfl, rfl, rfl, rfl, rfl, rfl, rfl, rfl⟩, rfl, rfl, rfl, rfl, rfl, rfl,
    fun x => by simp [h] at x⟩, rfl⟩

theorem traceOnly_writeRecord (s : State) (e c a : Nat) (l : List Byte) (h : s.trace.on = true) :
    TraceOnly s (writeRecord s e c a l) := by
  have h1 : TraceOnly s (s.setMem (Mem.wrBytes s.mem a l)) :=
    ⟨⟨⟨rfl, rfl, rfl, rfl, rfl, rfl, rfl, rfl, rfl, rfl, rfl, rfl, rfl⟩, rfl, rfl, rfl, rfl, rfl, rfl,
      fun x => by simp [h] at x⟩, rfl⟩
  exact h1.trans' (.ofEng (EngOnly.sendReqs _ _ _) h)

theorem traceOnly_tracePut (s : State) (e v : Nat) (h : s.trace.on = true) : TraceOnly s (tracePut s e v) := by
  unfold tracePut tracePush
  extract_lets a s1
  have h1 : TraceOnly s s1 := traceOnly_modEng s e _ h
  have ho : s1.trace.on = true := h1.1.7.trans h
  split
  · split
    all_goals exact h1.trans' ⟨⟨⟨rfl, rfl, rfl, rfl, rfl, rfl, rfl, rfl, rfl, rfl, rfl, rfl, rfl⟩, rfl, rfl, rfl, rfl, rfl, rfl,
      fun hh => by simp [ho] at hh⟩, rfl⟩
  · exact h1.trans' (traceOnly_writeRecord s1 _ _ _ _ ho)

theorem traceOnly_traceOwed (s : State) (e : Nat) (h : s.trace.on = true) : TraceOnly s (traceOwed s e) := by
  unfold traceOwed
  extract_lets x
  split
  · exact (traceOnly_modEng s e _ h).trans' (traceOnly_tracePut _ _ _ h)
  · exact .rfl' s

theorem traceOnly_traceEmitAt (s : State) (time e ty mb fields : Nat) : TraceOnly s (traceEmitAt s time e ty mb fields) := by
  unfold traceEmitAt
  split
  · next h =>
    simp only [Bool.and_eq_true] at h
    have ho := h.1.1.1
    have h1 := traceOnly_traceOwed s e ho
    extract_lets s1
    split
    · exact h1.trans' (traceOnly_tracePut _ _ _ (h1.1.7.trans ho))
    · exact h1.trans' (traceOnly_traceLose _ _ (h1.1.7.trans ho))
  · exact .rfl' s

theorem Ctx.restart_descs (x : Ctx) (q : Nat) : (x.restart q).descs = x.descs := by
  unfold Ctx.restart
  dsimp only
  repeat' split
  all_goals rfl

/-- The start of a descriptor marks it started, and its BEGIN record touches the trace only. -/
theorem startDesc_facts {s : State} {c : Nat} {d : Desc} (hd : s.desc? c d.seq = some d) (hs : d.started = false) :
    (startDesc s c d).desc? c d.seq = some { d with started := true } ∧ SameSetup s (startDesc s c d) ∧
    (startDesc s c d).links = s.links ∧ (s.trace.on = false → (startDesc s c d).mem = s.mem) ∧
    (startDesc s c d).trace.ribbons = s.trace.ribbons ∧ (∀ x, x ≠ c → (startDesc s c d).ctx x = s.ctx x) ∧
    (startDesc s c d).trace.on = s.trace.on := by
  unfold startDesc
  split
  · next h => simp [hs] at h
  extract_lets s1
  have h1 : s1.desc? c d.seq = some { d with started := true } :=
    State.desc?_modDesc (f := fun x => { x with started := true }) hd rfl
  have hne : (s1.ctx c).descs ≠ [] := by
    intro hc; have := State.desc?_mem h1; simp [hc] at this
  have hv : (s1.ctx c).restart d.seq ≠ ({} : Ctx) := by
    intro hc; exact hne ((Ctx.restart_descs _ _).symm.trans (congrArg Ctx.descs hc))
  generalize hs2 : s1.modCtx c (·.restart d.seq) = s2
  have hc2 : s2.ctx c = (s1.ctx c).restart d.seq := hs2 ▸ State.ctx_setCtx _ _ _ hv
  have ht : TraceOnly s2 (traceBegin s2 (s1.engOf c) c d) := traceOnly_traceEmitAt _ _ _ _ _ _
  have hsu : SameSetup s s2 := hs2 ▸ ⟨rfl, rfl, rfl, rfl, rfl, rfl, rfl, rfl, rfl, rfl, rfl, rfl, rfl⟩
  have hf : s2.links = s.links ∧ s2.mem = s.mem ∧ s2.trace = s.trace := hs2 ▸ ⟨rfl, rfl, rfl⟩
  refine ⟨?_, hsu.trans' ht.1.1, ht.2.trans hf.1, fun hh => ?_, ?_, ?_, ?_⟩
  · have : (traceBegin s2 (s1.engOf c) c d).desc? c d.seq = s2.desc? c d.seq := by simp [State.desc?, State.ctx, ht.1.2]
    rw [this]
    simpa [State.desc?, hc2, Ctx.restart_descs] using h1
  · exact (ht.1.8 (by rw [hf.2.2]; exact hh)).1.trans hf.2.1
  · rw [ht.1.6, hf.2.2]
  · intro x hx
    have : (traceBegin s2 (s1.engOf c) c d).ctx x = s2.ctx x := by simp [State.ctx, ht.1.2]
    rw [this, ← hs2]
    exact (State.ctx_setCtx_other _ _ _ _ hv hx).trans (modDesc_other hd hx)
  · rw [ht.1.7, hf.2.2]

/-- After admission and the start of a descriptor of an opcode other than COLLECTIVE and REBOND: the state in which the
opcode's own effect begins. -/
theorem admit_start {s s1 : State} {c op : Nat} {d : Desc} {par : List Nat} (h : Admits s c op d s1 par)
    (hd : s.desc? c d.seq = some d) (hs : d.started = false) (A : Desc)
    (hA : A = admittedAs d par (s.eng (s.engOf c)).epoch) (w run : State)
    (hw : w = wantWatch (s1.modDesc c d.seq (fun _ => A)) ((s1.modDesc c d.seq (fun _ => A)).engOf c) A)
    (hrun : run = startDesc w c A) :
    run.desc? c d.seq = some { A with started := true } ∧ SameSetup s run ∧ run.links = s.links ∧
      (s.trace.on = false → run.mem = s.mem) ∧ run.trace.ribbons = s.trace.ribbons ∧ (∀ x, x ≠ c → run.ctx x = s.ctx x) ∧
      run.trace.on = s.trace.on := by
  obtain ⟨hx, _⟩ := loadParam_ctx h.2.2.1
  have hd1 : s1.desc? c d.seq = some d := by simpa [State.desc?, State.ctx, hx] using hd
  have hrd := State.desc?_modDesc (f := fun _ => A) hd1 (by rw [hA]; rfl)
  generalize hs2 : s1.modDesc c d.seq (fun _ => A) = s2 at hw hrd
  have hfr : s2.mem = s.mem ∧ SameSetup s s2 ∧ s2.links = s.links ∧ s2.trace = s.trace := by
    subst hs2
    rcases loadParam_shape h.2.2.1 with h1 | ⟨v, hv, h1, _⟩
    all_goals
      rw [h1]
      exact ⟨rfl, ⟨rfl, rfl, rfl, rfl, rfl, rfl, rfl, rfl, rfl, rfl, rfl, rfl, rfl⟩, rfl, rfl⟩
  obtain ⟨w1, w2, w3, w4, w5, w6, w7⟩ := wantWatch_facts s2 (s2.engOf c) A
  rw [← hw] at w1 w2 w3 w4 w5 w6 w7
  have hAs : A.seq = d.seq := by rw [hA]; rfl
  have hwd : w.desc? c A.seq = some A := by rw [hAs]; simpa [State.desc?, State.ctx, w1] using hrd
  obtain ⟨r1, r2, r3, r4, r5, r6, r7⟩ := startDesc_facts hwd (by rw [hA]; exact hs)
  rw [← hrun] at r1 r2 r3 r4 r5 r6 r7
  refine ⟨hAs ▸ r1, (hfr.2.1.trans' w3).trans' r2, ?_, ?_, ?_, ?_, ?_⟩
  · rw [r3, w4, hfr.2.2.1]
  · intro ht; rw [r4 (by rw [w6, hfr.2.2.2]; exact ht), w2, hfr.1]
  · rw [r5, w6, hfr.2.2.2]
  · intro x hxc
    rw [r6 x hxc]
    have : w.ctx x = s2.ctx x := by simp [State.ctx, w1]
    rw [this, ← hs2, modDesc_other hd1 hxc]
    simp [State.ctx, hx]
  · rw [r7, w6, hfr.2.2.2]

end Sys2Proof.Machine
end

