-- ==== Sys2Proof/Laws/Sending.lean ====
section
/-! SUPPORT. What sending a frame leaves as it was: everything but the links, the outputs, the trace and the trace units. -/

namespace Sys2Proof.Machine

namespace SendOnly

theorem ofTrace {s t : State} (h : TraceOnly s t) : SendOnly s t := h.1

theorem modLink (s : State) (p : Nat) (f : Link → Link) : SendOnly s (s.modLink p f) :=
  ⟨⟨rfl, rfl, rfl, rfl, rfl, rfl, rfl, rfl, rfl, rfl, rfl, rfl, rfl⟩, rfl, rfl, rfl, rfl, rfl, rfl, fun _ => ⟨rfl, rfl, rfl⟩⟩

theorem foldl {α : Type} {f : State → α → State} (hf : ∀ s x, SendOnly s (f s x)) (s : State) (l : List α) :
    SendOnly s (l.foldl f s) := by
  induction l generalizing s with
  | nil => exact rfl' s
  | cons x r ih => exact (hf s x).trans' (ih _)

theorem out (s : State) (o : Output) : SendOnly s (s.out o) :=
  ⟨⟨rfl, rfl, rfl, rfl, rfl, rfl, rfl, rfl, rfl, rfl, rfl, rfl, rfl⟩, rfl, rfl, rfl, rfl, rfl, rfl, fun _ => ⟨rfl, rfl, rfl⟩⟩

theorem passFrame (s : State) (p : Nat) (f : Frame) : SendOnly s (passFrame s p f) := by
  unfold Machine.passFrame traceFrame
  extract_lets pri s1 s2
  exact ((modLink s p _).trans' (out s1 _)).trans' (ofTrace (traceOnly_traceEmitAt _ _ _ _ _ _))

theorem pump (s : State) (p : Nat) : SendOnly s (pump s p) :=
  ((modLink s p _).trans' (foldl (fun s f => passFrame s p f) _ _)).trans' (foldl (fun s f => passFrame s p f) _ _)

theorem sendFrame (s : State) (p : Nat) (f : Frame) : SendOnly s (sendFrame s p f) := by
  unfold Machine.sendFrame
  split
  · exact (modLink s p _).trans' (pump _ p)
  · exact rfl' s

theorem sendCtrl (s : State) (p : Nat) (h : FrameHdr) : SendOnly s (sendCtrl s p h) := sendFrame s p _

theorem sendAbort (s : State) (p : Nat) (members : List Nat) (job ticket bucket : Nat) :
    SendOnly s (sendAbort s p members job ticket bucket) := foldl (fun s _ => sendCtrl s p _) s _

theorem desc? {s t : State} (h : SendOnly s t) (c q : Nat) : t.desc? c q = s.desc? c q := by
  simp [State.desc?, State.ctx, h.ctxs]

theorem ctx {s t : State} (h : SendOnly s t) (c : Nat) : t.ctx c = s.ctx c := by simp [State.ctx, h.ctxs]

end SendOnly

end Sys2Proof.Machine
end

