-- ==== Sys2Proof/Laws/Endings.lean ====
section
/-! SUPPORT. What registering an ending touches: the descriptors of its context, and the links that an abort goes out on. -/

namespace Sys2Proof.Machine

theorem SameSetup.modDesc (s : State) (c q : Nat) (f : Desc → Desc) : SameSetup s (s.modDesc c q f) :=
  ⟨rfl, rfl, rfl, rfl, rfl, rfl, rfl, rfl, rfl, rfl, rfl, rfl, rfl⟩

theorem Desc.addEnd_seq (d : Desc) (st : Nat) : (d.addEnd st).seq = d.seq := by
  unfold Desc.addEnd
  repeat' split
  all_goals rfl

namespace EndsOnly

theorem rfl' (c : Nat) (s : State) : EndsOnly c s s :=
  ⟨.rfl' s, rfl, rfl, rfl, rfl, rfl, fun _ => ⟨rfl, rfl, rfl⟩, fun _ _ => rfl, ⟨_, rfl⟩⟩

theorem trans' {c : Nat} {s t u : State} (h : EndsOnly c s t) (k : EndsOnly c t u) : EndsOnly c s u :=
  ⟨h.1.trans' k.1, k.2.trans h.2, k.3.trans h.3, k.4.trans h.4, k.5.trans h.5, k.6.trans h.6,
    fun x =>
      have a := h.7 x
      have b := k.7 (h.6.trans x)
      ⟨b.1.trans a.1, b.2.1.trans a.2.1, b.2.2.trans a.2.2⟩,
    fun x hx => (k.8 x hx).trans (h.8 x hx), by
      obtain ⟨l, hl⟩ := h.9
      obtain ⟨m, hm⟩ := k.9
      exact ⟨m, by rw [hm, hl]⟩⟩

theorem ofSend {c : Nat} {s t : State} (h : SendOnly s t) : EndsOnly c s t :=
  ⟨h.1, h.3, h.4, h.5, h.6, h.7, h.8, fun _ _ => h.ctx _, ⟨(s.ctx c).descs, h.ctx c⟩⟩

theorem modDesc {s : State} {c q : Nat} {d : Desc} (hd : s.desc? c q = some d) (f : Desc → Desc)
    (hf : (f d).seq = q) : EndsOnly c s (s.modDesc c q f) := by
  obtain rfl := State.desc?_seq hd
  refine ⟨.modDesc s c _ f, rfl, rfl, rfl, rfl, rfl, fun _ => ⟨rfl, rfl, rfl⟩, fun x hx => modDesc_other hd hx, ?_⟩
  refine ⟨(s.ctx c).descs.map (fun x => if x.seq = d.seq then f x else x), ?_⟩
  refine State.ctx_setCtx _ _ _ ?_
  intro hv
  have h2 := State.desc?_mem hd
  have := congrArg Ctx.descs hv
  have hn : (s.ctx c).descs = [] := List.map_eq_nil_iff.mp this
  rw [hn] at h2
  exact absurd h2 List.not_mem_nil

theorem foldl {α : Type} {c : Nat} {f : State → α → State} (hf : ∀ s x, EndsOnly c s (f s x)) (s : State) (l : List α) :
    EndsOnly c s (l.foldl f s) := by
  induction l generalizing s with
  | nil => exact rfl' c s
  | cons x r ih => exact (hf s x).trans' (ih _)

theorem abortGroup (s : State) (c : Nat) (d x : Desc) (hd : s.desc? c d.seq = some x) :
    EndsOnly c s (abortGroup s c d) := by
  unfold Machine.abortGroup
  split
  · exact rfl' c s
  · have hq : x.seq = d.seq := State.desc?_seq hd
    extract_lets s1
    have h1 : EndsOnly c s s1 := modDesc hd (fun x => { x with coll := { x.coll with aborted := true } }) hq
    exact h1.trans' (ofSend (SendOnly.sendAbort _ _ _ _ _ _))

theorem endDesc (s : State) (c q st : Nat) : EndsOnly c s (endDesc s c q st) := by
  unfold Machine.endDesc
  split
  · exact rfl' c s
  · next d hd =>
    have hq := State.desc?_seq hd
    extract_lets s1
    have h1 : EndsOnly c s s1 := modDesc hd (·.addEnd st) ((d.addEnd_seq st).trans hq)
    have hd1 : s1.desc? c q = some (d.addEnd st) :=
      State.desc?_modDesc (f := (·.addEnd st)) hd ((d.addEnd_seq st).trans hq)
    split
    · exact h1.trans' (abortGroup s1 c d (d.addEnd st) (hq ▸ hd1))
    · exact h1

theorem endCtx (s : State) (c st : Nat) (pick : Desc → Bool) : EndsOnly c s (endCtx s c st pick) :=
  foldl (fun s q => endDesc s c q st) s _

end EndsOnly

end Sys2Proof.Machine
end

