-- ==== Sys2Proof/Laws/Gate.lean ====
section
/-! SUPPORT. Touching chunks: ranges that a descriptor already holds and has accessed need nothing more. -/

namespace Sys2Proof.Machine

theorem foldl_fixed {α β : Type} (f : β → α → β) (b : β) (l : List α) (h : ∀ x ∈ l, f b x = b) : l.foldl f b = b := by
  induction l with
  | nil => rfl
  | cons x r ih =>
    rw [List.foldl_cons, h x (List.mem_cons_self ..)]
    exact ih (fun y hy => h y (List.mem_cons_of_mem _ hy))

/-- Ranges whose chunks the descriptor holds may be touched, and nothing changes. -/
theorem gate_held {s : State} {c q : Nat} {d : Desc} {l : List Acc} (hd : s.desc? c q = some d) (ho : d.over = false)
    (h : HeldAll s d l) : gate s c q l = (s, true) := by
  unfold gate
  refine foldl_fixed _ _ _ (fun a ha => ?_)
  refine foldl_fixed _ _ _ (fun k hk => ?_)
  rw [if_pos rfl]
  unfold gateChunk
  rw [State.desc_of hd]
  obtain ⟨h1, h2⟩ := h a ha k hk
  simp only [ho, Bool.false_eq_true, if_false, h1]
  unfold touchChunk
  rw [State.desc_of hd]
  simp only [h2, if_true]
  rfl

end Sys2Proof.Machine
end

