-- ==== Sys2Proof/Laws/Memory.lean ====
section
/-! SUPPORT. Laws of device memory: a read after a write, what a write leaves alone, and that every memory operation keeps
the canonical form. -/

namespace Sys2Proof.Machine

theorem devAddr_lt (a : Nat) : devAddr a < 2 ^ 48 := Nat.mod_lt a (by decide)

namespace Mem

/-- A byte read after it is written is the byte written. -/
theorem byteAt_setByte_same (m : Mem) (a : Nat) (v : Byte) (h : Memory.wf m = true) :
    byteAt (setByte m a v) a = v := by
  simp only [Memory.wf, Bool.and_eq_true] at h
  exact SMap.get_set_same m 0 (devAddr a) v 0 h.1

/-- Writing a byte leaves every other byte as it was. -/
theorem byteAt_setByte_other (m : Mem) (a b : Nat) (v : Byte) (h : Memory.wf m = true)
    (hb : devAddr b ≠ devAddr a) : byteAt (setByte m a v) b = byteAt m b := by
  simp only [Memory.wf, Bool.and_eq_true] at h
  exact SMap.get_set_other m 0 (devAddr a) (devAddr b) v 0 h.1 hb

theorem wf_setByte (m : Mem) (a : Nat) (v : Byte) (h : Memory.wf m = true) : Memory.wf (setByte m a v) = true := by
  simp only [Memory.wf, Bool.and_eq_true] at h ⊢
  exact ⟨SMap.wf_set m 0 _ v h.1,
    SMap.all_set m 0 _ v (fun k => decide (k < 2 ^ 48)) h.2 (by simpa using devAddr_lt a)⟩

theorem wf_wr (m : Mem) (a n v : Nat) (h : Memory.wf m = true) : Memory.wf (wr m a n v) = true := by
  induction n generalizing m a v with
  | zero => exact h
  | succ n ih => exact ih _ _ _ (wf_setByte m a _ h)

theorem wf_wrBytes (m : Mem) (a : Nat) (l : List Byte) (h : Memory.wf m = true) :
    Memory.wf (wrBytes m a l) = true := by
  induction l generalizing m a with
  | nil => exact h
  | cons b r ih => exact ih _ _ (wf_setByte m a b h)

theorem wf_wrBits (m : Mem) (a k w v : Nat) (h : Memory.wf m = true) : Memory.wf (wrBits m a k w v) = true :=
  wf_wr _ _ _ _ h

theorem wf_endRun (m : Mem) (a n w : Nat) (h : Memory.wf m = true) : Memory.wf (endRun m a n w) = true := by
  unfold endRun
  extract_lets r
  split
  · exact h
  · exact wf_setByte _ _ _ h

/-- Writing `n` bytes from `a` leaves the bytes outside them as they were. -/
theorem byteAt_wr_other (m : Mem) (a n v b : Nat) (h : Memory.wf m = true)
    (hb : ∀ k, k < n → devAddr b ≠ devAddr (a + k)) : byteAt (wr m a n v) b = byteAt m b := by
  induction n generalizing m a v with
  | zero => rfl
  | succ n ih =>
    have h0 := hb 0 (Nat.succ_pos n)
    rw [wr, ih _ _ _ (wf_setByte m a _ h), byteAt_setByte_other m a b _ h h0]
    intro k hk
    have := hb (k + 1) (Nat.succ_lt_succ hk)
    rwa [show a + (k + 1) = a + 1 + k by omega] at this

/-- Writing bytes from `a` leaves the bytes outside them as they were. -/
theorem byteAt_wrBytes_other (m : Mem) (a : Nat) (l : List Byte) (b : Nat) (h : Memory.wf m = true)
    (hb : ∀ k, k < l.length → devAddr b ≠ devAddr (a + k)) : byteAt (wrBytes m a l) b = byteAt m b := by
  induction l generalizing m a with
  | nil => rfl
  | cons x r ih =>
    have h0 := hb 0 (by simp)
    rw [wrBytes, ih _ _ (wf_setByte m a _ h), byteAt_setByte_other m a b _ h h0]
    intro k hk
    have := hb (k + 1) (by simpa using hk)
    rwa [show a + (k + 1) = a + 1 + k by omega] at this

end Mem

end Sys2Proof.Machine
end

