-- ==== Sys2Proof/Laws/Keeps.lean ====
section
/-! SUPPORT. What no operation does: change the queue, the device map or the inline aperture, or leave memory out of its
canonical form. `Keeps s t` says that of a state `t` reached from `s`; every shared operation has one lemma of the form
"if `Keeps s0 s` then `Keeps s0` of its result", and every command one of the form `KeepsO s0` of its outcome. -/

namespace Sys2Proof.Machine

/-- From `s` to `t`: the queue and the package's address maps are the same, and memory keeps its canonical form. -/
structure Keeps (s t : State) : Prop where
  pending : t.pending = s.pending
  devMap : t.devMap = s.devMap
  apBase : t.apBase = s.apBase
  apSize : t.apSize = s.apSize
  mem : Memory.wf s.mem = true → Memory.wf t.mem = true

/-- `Keeps` of the next state that an outcome answers. -/
def KeepsO (s : State) (o : Host.Outcome State Fault Refusal) : Prop := ∀ t, o = .next t → Keeps s t

namespace Keeps

theorem rfl' (s : State) : Keeps s s := ⟨rfl, rfl, rfl, rfl, id⟩

theorem trans' {s t u : State} (h : Keeps s t) (k : Keeps t u) : Keeps s u :=
  ⟨k.1.trans h.1, k.2.trans h.2, k.3.trans h.3, k.4.trans h.4, k.5 ∘ h.5⟩

theorem cut {s0 x t : State} (h : Keeps s0 x) (k : Keeps s0 x → Keeps s0 t) : Keeps s0 t := k h

theorem cutO {s0 x : State} {o : Host.Outcome State Fault Refusal} (h : Keeps s0 x) (k : Keeps s0 x → KeepsO s0 o) :
    KeepsO s0 o := k h

theorem cutB {α : Type} {s0 t : State} {x : State × α} (h : Keeps s0 x.1) (k : Keeps s0 x.1 → Keeps s0 t) :
    Keeps s0 t := k h

theorem next {s0 s : State} (h : Keeps s0 s) : KeepsO s0 (.next s) := by
  rintro t ⟨⟩; exact h

/-- Fields that `Keeps` does not name may change. -/
theorem upd {s0 s : State} {pins time img pwr epoch epochDone coreWeight groupBase dbDrop dom err engines links ctxs
    waitQ windows pds inlines samp trace testRegs outputs freeCount stackDef pdHist accesses accNext} :
    Keeps s0 ⟨s.pending, pins, time, img, pwr, epoch, epochDone, coreWeight, groupBase, dbDrop, dom, err, engines, links,
      ctxs, waitQ, windows, pds, inlines, samp, trace, testRegs, s.mem, outputs, s.devMap, s.apBase, s.apSize, freeCount,
      stackDef, pdHist, accesses, accNext⟩ ↔ Keeps s0 s :=
  ⟨fun h => ⟨h.1, h.2, h.3, h.4, h.5⟩, fun h => ⟨h.1, h.2, h.3, h.4, h.5⟩⟩

theorem foldl {α : Type} {s0 s : State} {f : State → α → State} {l : List α} (h : Keeps s0 s)
    (hf : ∀ a x, Keeps s0 a → Keeps s0 (f a x)) : Keeps s0 (l.foldl f s) := by
  induction l generalizing s with
  | nil => exact h
  | cons x r ih => exact ih (hf s x h)

theorem forN {s0 s : State} {n : Nat} {f : State → Nat → State} (h : Keeps s0 s)
    (hf : ∀ a x, Keeps s0 a → Keeps s0 (f a x)) : Keeps s0 (forN n s f) := foldl h hf

theorem foldl_fst {α β : Type} {s0 : State} {p : State × β} {f : State × β → α → State × β} {l : List α}
    (h : Keeps s0 p.1) (hf : ∀ a x, Keeps s0 a.1 → Keeps s0 (f a x).1) : Keeps s0 (l.foldl f p).1 := by
  induction l generalizing p with
  | nil => exact h
  | cons x r ih => exact ih (hf p x h)

variable {s0 s : State} (h : Keeps s0 s)
include h

theorem setEng (e : Nat) (v : Engine) : Keeps s0 (s.setEng e v) := upd.mpr h
theorem modEng (e : Nat) (f : Engine → Engine) : Keeps s0 (s.modEng e f) := upd.mpr h
theorem setLink (p : Nat) (v : Link) : Keeps s0 (s.setLink p v) := upd.mpr h
theorem modLink (p : Nat) (f : Link → Link) : Keeps s0 (s.modLink p f) := upd.mpr h
theorem setCtx (c : Nat) (v : Ctx) : Keeps s0 (s.setCtx c v) := upd.mpr h
theorem modCtx (c : Nat) (f : Ctx → Ctx) : Keeps s0 (s.modCtx c f) := upd.mpr h
theorem setWin (w : Nat) (v : Window) : Keeps s0 (s.setWin w v) := upd.mpr h
theorem setPd (d : Nat) (v : PdEntry) : Keeps s0 (s.setPd d v) := upd.mpr h
theorem setInl (i : Nat) (v : InlineWin) : Keeps s0 (s.setInl i v) := upd.mpr h
theorem modInl (i : Nat) (f : InlineWin → InlineWin) : Keeps s0 (s.modInl i f) := upd.mpr h
theorem out (o : Output) : Keeps s0 (s.out o) := upd.mpr h
theorem modDesc (c q : Nat) (f : Desc → Desc) : Keeps s0 (s.modDesc c q f) := upd.mpr h
theorem addEnd (c q st : Nat) : Keeps s0 (s.addEnd c q st) := upd.mpr h
theorem setMem (m : Mem) (hm : Memory.wf s.mem = true → Memory.wf m = true) : Keeps s0 (s.setMem m) :=
  ⟨h.1, h.2, h.3, h.4, hm ∘ h.5⟩
/-- Memory made from the memory of an earlier state. -/
theorem setMemOf {u : State} (k : Keeps s0 u) (m : Mem) (hm : Memory.wf u.mem = true → Memory.wf m = true) :
    Keeps s0 (s.setMem m) := ⟨h.1, h.2, h.3, h.4, hm ∘ k.5⟩
theorem setMem_wr (a n v : Nat) : Keeps s0 (s.setMem (Mem.wr s.mem a n v)) := h.setMem _ (Mem.wf_wr _ _ _ _)
theorem setMem_wrBytes (a : Nat) (l : List Byte) : Keeps s0 (s.setMem (Mem.wrBytes s.mem a l)) :=
  h.setMem _ (Mem.wf_wrBytes _ _ _)

end Keeps

end Sys2Proof.Machine
end

