-- ==== Sys2Proof/Laws/KeepsArbiter.lean ====
section
/-! SUPPORT. `Keeps` of the ports and their arbiters (Machine/Arbiter.lean). -/

namespace Sys2Proof.Machine

theorem keeps_presentReq {s0 s : State} (hk : Keeps s0 s) (e : Nat) (net : Bool) (p : Req → Bool) (tag : Option Nat) :
    Keeps s0 (presentReq s e net p tag) := by
  unfold presentReq
  with_reducible repeat' (first | assumption | apply Keeps.modEng | apply Keeps.out | split)

theorem keeps_issueNet {s0 s : State} (hk : Keeps s0 s) (e : Nat) : Keeps s0 (issueNet s e) := by
  unfold issueNet
  with_reducible repeat' (first | assumption | apply Keeps.forN | apply keeps_presentReq | intro _ _ _)

theorem keeps_issueStack {s0 s : State} (hk : Keeps s0 s) (k : Nat) : Keeps s0 (issueStack s k) := by
  unfold issueStack
  with_reducible repeat' (first
    | assumption
    | (extract_lets +onlyGivenNames x; (first | (refine Keeps.cut (x := x) ?_ ?_; all_goals (first | (intro hx; clear_value x) | subst x)) | clear_value x | skip))
    | apply Keeps.foldl | apply Keeps.forN | apply keeps_presentReq | simp -zeta only [Keeps.upd] | intro _ _ _)

theorem keeps_issueReqs {s0 s : State} (hk : Keeps s0 s) (e : Nat) : Keeps s0 (issueReqs s e) := by
  unfold issueReqs
  with_reducible repeat' (first | assumption | apply keeps_issueNet | apply keeps_issueStack | split)

theorem keeps_sendReqs {s0 s : State} (hk : Keeps s0 s) (e : Nat) (l : List Req) :
    Keeps s0 (State.sendReqs s e l) := by
  unfold State.sendReqs
  with_reducible repeat' (first | assumption | apply Keeps.modEng | apply keeps_issueReqs | split)

theorem keeps_readMem {s0 s : State} (hk : Keeps s0 s) (e a n : Nat) : Keeps s0 (readMem s e a n) := by
  unfold readMem
  with_reducible repeat' (first | assumption | apply Keeps.out | apply Keeps.foldl | intro _ _ _)

theorem keeps_writeRecord {s0 s : State} (hk : Keeps s0 s) (e c a : Nat) (l : List Byte) :
    Keeps s0 (writeRecord s e c a l) := by
  unfold writeRecord
  with_reducible repeat' (first | assumption | apply Keeps.setMem_wrBytes | apply keeps_sendReqs)

end Sys2Proof.Machine
end

