-- ==== Sys2Proof/Laws/KeepsObserve.lean ====
section
/-! SUPPORT. `Keeps` of counters, records and the trace (Machine/Observe.lean). -/

namespace Sys2Proof.Machine

theorem keeps_traceLose {s0 s : State} (hk : Keeps s0 s) (e : Nat) : Keeps s0 (traceLose s e) := by
  unfold traceLose
  with_reducible repeat' (first
    | assumption
    | (extract_lets +onlyGivenNames x; (first | (refine Keeps.cut (x := x) ?_ ?_; all_goals (first | (intro hx; clear_value x) | subst x)) | clear_value x | skip))
    | apply Keeps.modEng | simp -zeta only [Keeps.upd])

theorem keeps_tracePush {s0 s : State} (hk : Keeps s0 s) (v : Nat) : Keeps s0 (tracePush s v) := by
  unfold tracePush
  with_reducible repeat' (first | assumption | simp -zeta only [Keeps.upd] | split)

theorem keeps_tracePut {s0 s : State} (hk : Keeps s0 s) (e v : Nat) : Keeps s0 (tracePut s e v) := by
  unfold tracePut
  with_reducible repeat' (first
    | assumption
    | (extract_lets +onlyGivenNames x; (first | (refine Keeps.cut (x := x) ?_ ?_; all_goals (first | (intro hx; clear_value x) | subst x)) | clear_value x | skip))
    | apply Keeps.modEng | apply keeps_writeRecord | apply keeps_tracePush | split)

theorem keeps_traceOwed {s0 s : State} (hk : Keeps s0 s) (e : Nat) : Keeps s0 (traceOwed s e) := by
  unfold traceOwed
  with_reducible repeat' (first
    | assumption
    | (extract_lets +onlyGivenNames x; (first | (refine Keeps.cut (x := x) ?_ ?_; all_goals (first | (intro hx; clear_value x) | subst x)) | clear_value x | skip))
    | apply Keeps.modEng | apply keeps_tracePut | split)

theorem keeps_traceEmitAt {s0 s : State} (hk : Keeps s0 s) (time e ty mb fields : Nat) :
    Keeps s0 (traceEmitAt s time e ty mb fields) := by
  unfold traceEmitAt
  with_reducible repeat' (first
    | assumption
    | (extract_lets +onlyGivenNames x; (first | (refine Keeps.cut (x := x) ?_ ?_; all_goals (first | (intro hx; clear_value x) | subst x)) | clear_value x | skip))
    | apply keeps_traceLose | apply keeps_tracePut | apply keeps_traceOwed | split)

theorem keeps_traceEmit {s0 s : State} (hk : Keeps s0 s) (e ty mb fields : Nat) :
    Keeps s0 (traceEmit s e ty mb fields) := by
  unfold traceEmit
  with_reducible repeat' (first | assumption | apply keeps_traceEmitAt)

theorem keeps_laneSend {s0 s : State} (hk : Keeps s0 s) (v : Nat) : Keeps s0 (laneSend s v) := by
  unfold laneSend
  with_reducible repeat' (first
    | assumption
    | (extract_lets +onlyGivenNames x; (first | (refine Keeps.cut (x := x) ?_ ?_; all_goals (first | (intro hx; clear_value x) | subst x)) | clear_value x | skip))
    | apply Keeps.out | simp -zeta only [Keeps.upd] | split)

theorem keeps_tracePort {s0 s : State} (hk : Keeps s0 s) : Keeps s0 (tracePort s) := by
  unfold tracePort
  with_reducible repeat' (first
    | assumption
    | (extract_lets +onlyGivenNames x; (first | (refine Keeps.cut (x := x) ?_ ?_; all_goals (first | (intro hx; clear_value x) | subst x)) | clear_value x | skip))
    | apply keeps_laneSend | simp -zeta only [Keeps.upd] | split)

theorem keeps_traceUnit {s0 s : State} (hk : Keeps s0 s) (e : Nat) : Keeps s0 (traceUnit s e) := by
  unfold traceUnit
  with_reducible repeat' (first
    | assumption
    | (extract_lets +onlyGivenNames x; (first | (refine Keeps.cut (x := x) ?_ ?_; all_goals (first | (intro hx; clear_value x) | subst x)) | clear_value x | skip))
    | apply Keeps.setEng | split)

theorem keeps_traceUnits {s0 s : State} (hk : Keeps s0 s) : Keeps s0 (traceUnits s) := by
  unfold traceUnits
  with_reducible repeat' (first | assumption | apply Keeps.foldl | apply keeps_traceUnit | intro _ _ _)

theorem keeps_traceBegin {s0 s : State} (hk : Keeps s0 s) (e c : Nat) (d : Desc) : Keeps s0 (traceBegin s e c d) := by
  unfold traceBegin
  with_reducible repeat' (first | assumption | apply keeps_traceEmit)

theorem keeps_traceEnd {s0 s : State} (hk : Keeps s0 s) (e c : Nat) (d : Desc) (op st sat flush : Nat) :
    Keeps s0 (traceEnd s e c d op st sat flush) := by
  unfold traceEnd
  with_reducible repeat' (first | assumption | apply keeps_traceEmit)

theorem keeps_traceFrame {s0 s : State} (hk : Keeps s0 s) (e : Nat) (h : FrameHdr) (recv acc : Bool) :
    Keeps s0 (traceFrame s e h recv acc) := by
  unfold traceFrame
  with_reducible repeat' (first | assumption | apply keeps_traceEmit)

theorem keeps_countIn {s0 s : State} (hk : Keeps s0 s) (e : Nat) (c : Option (Nat × Nat)) (w n : Nat) :
    Keeps s0 (countIn s e c w n) := by
  unfold countIn
  with_reducible repeat' (first | assumption | apply Keeps.modEng | apply Keeps.modCtx | split)

theorem keeps_countOut {s0 s : State} (hk : Keeps s0 s) (e : Nat) (c : Option (Nat × Nat)) (w n : Nat) :
    Keeps s0 (countOut s e c w n) := by
  unfold countOut
  with_reducible repeat' (first | assumption | apply Keeps.modEng | apply Keeps.modCtx | split)

theorem keeps_startDesc {s0 s : State} (hk : Keeps s0 s) (c : Nat) (d : Desc) : Keeps s0 (startDesc s c d) := by
  unfold startDesc
  with_reducible repeat' (first | assumption | apply Keeps.modCtx | apply Keeps.modDesc | apply keeps_traceBegin | split)

theorem keeps_countIssue {s0 s : State} (hk : Keeps s0 s) (c q : Nat) : Keeps s0 (countIssue s c q) := by
  unfold countIssue
  with_reducible repeat' (first | assumption | apply Keeps.modEng | apply Keeps.modCtx)

theorem keeps_countNumeric {s0 s : State} (hk : Keeps s0 s) (e : Nat) (sat flush nf ovf : Nat) :
    Keeps s0 (countNumeric s e sat flush nf ovf) := by
  unfold countNumeric
  with_reducible repeat' (first | assumption | apply Keeps.modEng)

theorem keeps_writeSample {s0 s : State} (hk : Keeps s0 s) (e kind tag time : Nat) (k : Counters) :
    Keeps s0 (writeSample s e kind tag time k) := by
  unfold writeSample
  with_reducible repeat' (first | assumption | apply Keeps.modEng | apply keeps_writeRecord)

theorem keeps_writeCtxRec {s0 s : State} (hk : Keeps s0 s) (c kind : Nat) : Keeps s0 (writeCtxRec s c kind) := by
  unfold writeCtxRec
  with_reducible repeat' (first | assumption | apply keeps_writeRecord)

end Sys2Proof.Machine
end

