-- ==== Sys2Proof/Laws/KeepsWire.lean ====
section
/-! SUPPORT. `Keeps` of frames on the wire (Machine/Wire.lean). -/

namespace Sys2Proof.Machine

theorem keeps_passFrame {s0 s : State} (hk : Keeps s0 s) (p : Nat) (f : Frame) : Keeps s0 (passFrame s p f) := by
  unfold passFrame
  with_reducible repeat' (first | assumption | apply Keeps.modLink | apply Keeps.out | apply keeps_traceFrame)

theorem keeps_pump {s0 s : State} (hk : Keeps s0 s) (p : Nat) : Keeps s0 (pump s p) := by
  unfold pump
  with_reducible repeat' (first
    | assumption | apply Keeps.modLink | apply Keeps.foldl | apply keeps_passFrame | intro _ _ _)

theorem keeps_sendFrame {s0 s : State} (hk : Keeps s0 s) (p : Nat) (f : Frame) : Keeps s0 (sendFrame s p f) := by
  unfold sendFrame
  with_reducible repeat' (first | assumption | apply Keeps.modLink | apply keeps_pump | split)

theorem keeps_sendCtrl {s0 s : State} (hk : Keeps s0 s) (p : Nat) (h : FrameHdr) : Keeps s0 (sendCtrl s p h) := by
  unfold sendCtrl
  with_reducible repeat' (first | assumption | apply keeps_sendFrame)

theorem keeps_sendAbort {s0 s : State} (hk : Keeps s0 s) (p : Nat) (members : List Nat) (job ticket bucket : Nat) :
    Keeps s0 (sendAbort s p members job ticket bucket) := by
  unfold sendAbort
  with_reducible repeat' (first | assumption | apply Keeps.foldl | apply keeps_sendCtrl | intro _ _ _)

theorem keeps_abortGroup {s0 s : State} (hk : Keeps s0 s) (c : Nat) (d : Desc) : Keeps s0 (abortGroup s c d) := by
  unfold abortGroup
  with_reducible repeat' (first | assumption | apply Keeps.modDesc | apply keeps_sendAbort | split)

theorem keeps_endDesc {s0 s : State} (hk : Keeps s0 s) (c q st : Nat) : Keeps s0 (endDesc s c q st) := by
  unfold endDesc
  with_reducible repeat' (first | assumption | apply Keeps.addEnd | apply keeps_abortGroup | split)

theorem keeps_endCtx {s0 s : State} (hk : Keeps s0 s) (c st : Nat) (pick : Desc → Bool) :
    Keeps s0 (endCtx s c st pick) := by
  unfold endCtx
  with_reducible repeat' (first | assumption | apply Keeps.foldl | apply keeps_endDesc | intro _ _ _)

theorem keeps_dropFcs {s0 s : State} (hk : Keeps s0 s) (p : Nat) : Keeps s0 (dropFcs s p) := by
  unfold dropFcs
  with_reducible repeat' (first | assumption | apply Keeps.modLink)

theorem keeps_dropHdr {s0 s : State} (hk : Keeps s0 s) (p : Nat) : Keeps s0 (dropHdr s p) := by
  unfold dropHdr
  with_reducible repeat' (first | assumption | apply Keeps.modLink)

theorem keeps_dropAddr {s0 s : State} (hk : Keeps s0 s) (p : Nat) : Keeps s0 (dropAddr s p) := by
  unfold dropAddr
  with_reducible repeat' (first | assumption | apply Keeps.modLink)

theorem keeps_seeTicket {s0 s : State} (hk : Keeps s0 s) (t : Nat) : Keeps s0 (seeTicket s t) := by
  unfold seeTicket
  with_reducible repeat' (first | assumption | simp -zeta only [Keeps.upd])

theorem keeps_setPauseReq {s0 s : State} (hk : Keeps s0 s) (p : Nat) (on : Bool) : Keeps s0 (setPauseReq s p on) := by
  unfold setPauseReq
  with_reducible repeat' (first | assumption | apply Keeps.out)

theorem keeps_enterCtl {s0 s : State} (hk : Keeps s0 s) (p : Nat) : Keeps s0 (enterCtl s p) := by
  unfold enterCtl
  with_reducible repeat' (first
    | assumption
    | (extract_lets +onlyGivenNames x; (first | (refine Keeps.cut (x := x) ?_ ?_; all_goals (first | (intro hx; clear_value x) | subst x)) | clear_value x | skip))
    | apply Keeps.modLink | apply keeps_setPauseReq | split)

theorem keeps_leaveCtl {s0 s : State} (hk : Keeps s0 s) (p : Nat) : Keeps s0 (leaveCtl s p) := by
  unfold leaveCtl
  with_reducible repeat' (first
    | assumption
    | (extract_lets +onlyGivenNames x; (first | (refine Keeps.cut (x := x) ?_ ?_; all_goals (first | (intro hx; clear_value x) | subst x)) | clear_value x | skip))
    | apply Keeps.modLink | apply keeps_setPauseReq | split)

theorem keeps_receive {s0 s : State} (h : Keeps s0 s) (p ty : Nat) (f : RxFrame) (rec : Bool)
    (k : State → FrameHdr → State) (hk : ∀ a x, Keeps s0 a → Keeps s0 (k a x)) :
    Keeps s0 (receive s p ty f rec k) := by
  unfold receive
  repeat' (first
    | with_reducible assumption
    | (extract_lets +onlyGivenNames x; (first | (refine Keeps.cut (x := x) ?_ ?_; all_goals (first | (intro hx; clear_value x) | subst x)) | clear_value x))
    | with_reducible apply hk
    | with_reducible apply keeps_leaveCtl
    | with_reducible apply keeps_enterCtl
    | with_reducible apply Keeps.modLink
    | with_reducible apply keeps_traceFrame
    | with_reducible apply keeps_dropFcs
    | with_reducible apply keeps_dropHdr
    | with_reducible apply keeps_dropAddr
    | split)

end Sys2Proof.Machine
end

