-- ==== Sys2Proof/Laws/KeepsFlags.lean ====
section
/-! SUPPORT. `Keeps` of chunk flags (Machine/Flags.lean). -/

namespace Sys2Proof.Machine

theorem keeps_sendSwap {s0 s : State} (hk : Keeps s0 s) (c q w k kind word : Nat) :
    Keeps s0 (sendSwap s c q w k kind word) := by
  unfold sendSwap
  with_reducible repeat' (first | assumption | apply Keeps.modDesc | apply keeps_sendReqs)

theorem keeps_claimFrom {s0 s : State} (hk : Keeps s0 s) (c q w k word : Nat) :
    Keeps s0 (claimFrom s c q w k word) := by
  unfold claimFrom
  with_reducible repeat' (first | assumption | apply Keeps.modDesc | apply keeps_sendSwap | split)

theorem keeps_beginClaim {s0 s : State} (hk : Keeps s0 s) (c q w k : Nat) : Keeps s0 (beginClaim s c q w k) := by
  unfold beginClaim
  with_reducible repeat' (first | assumption | apply Keeps.modDesc | apply keeps_readMem | apply keeps_claimFrom | split)

theorem keeps_countViolation {s0 s : State} (hk : Keeps s0 s) (e : Nat) : Keeps s0 (countViolation s e) := by
  unfold countViolation
  with_reducible repeat' (first | assumption | apply Keeps.modEng)

theorem keeps_flagViolation {s0 s : State} (hk : Keeps s0 s) (c q w k : Nat) :
    Keeps s0 (flagViolation s c q w k) := by
  unfold flagViolation
  with_reducible repeat' (first | assumption | apply Keeps.modDesc | apply keeps_endDesc | apply keeps_countViolation)

theorem keeps_swapAnswer {s0 s : State} (hk : Keeps s0 s) (r : Req) (old : Nat) : Keeps s0 (swapAnswer s r old) := by
  unfold swapAnswer
  with_reducible repeat' (first
    | assumption
    | (extract_lets +onlyGivenNames x; (first | (refine Keeps.cut (x := x) ?_ ?_; all_goals (first | (intro hx; clear_value x) | subst x)) | clear_value x | skip))
    | apply Keeps.modDesc | apply Keeps.setMem_wr | apply keeps_sendSwap | apply keeps_claimFrom
    | apply keeps_flagViolation | split)

theorem keeps_faultChunk {s0 s : State} (hk : Keeps s0 s) (c q w k : Nat) : Keeps s0 (faultChunk s c q w k) := by
  unfold faultChunk
  with_reducible repeat' (first | assumption | apply Keeps.modDesc | apply keeps_sendSwap | split)

theorem keeps_faultHeld {s0 s : State} (hk : Keeps s0 s) (c q : Nat) (l : List (Nat × Nat)) :
    Keeps s0 (faultHeld s c q l) := by
  unfold faultHeld
  with_reducible repeat' (first | assumption | apply Keeps.foldl | apply keeps_faultChunk | intro _ _ _)

end Sys2Proof.Machine
end

