-- ==== Sys2Proof/Laws/KeepsContexts.lean ====
section
/-! SUPPORT. `Keeps` of contexts (Machine/Contexts.lean). -/

namespace Sys2Proof.Machine

theorem keeps_dropDoorbell {s0 s : State} (hk : Keeps s0 s) (c : Nat) : Keeps s0 (dropDoorbell s c) := by
  unfold dropDoorbell
  with_reducible repeat' (first
    | assumption
    | (extract_lets +onlyGivenNames x; (first | (refine Keeps.cut (x := x) ?_ ?_; all_goals (first | (intro hx; clear_value x) | subst x)) | clear_value x | skip))
    | apply Keeps.modCtx | simp -zeta only [Keeps.upd] | split)

theorem keeps_reReadFlags {s0 s : State} (hk : Keeps s0 s) (c : Nat) : Keeps s0 (reReadFlags s c) := by
  unfold reReadFlags
  with_reducible repeat' (first | assumption | apply Keeps.foldl | apply keeps_claimFrom | split | intro _ _ _)

theorem keeps_ringDoorbell {s0 s : State} (hk : Keeps s0 s) (c v : Nat) : Keeps s0 (ringDoorbell s c v) := by
  unfold ringDoorbell
  with_reducible repeat' (first
    | assumption
    | (extract_lets +onlyGivenNames x; (first | (refine Keeps.cut (x := x) ?_ ?_; all_goals (first | (intro hx; clear_value x) | subst x)) | clear_value x | skip))
    | apply Keeps.setCtx | apply keeps_reReadFlags | split)

theorem keeps_takeDoorbell {s0 s : State} (hk : Keeps s0 s) (c v : Nat) : Keeps s0 (takeDoorbell s c v) := by
  unfold takeDoorbell
  with_reducible repeat' (first
    | assumption
    | (extract_lets +onlyGivenNames x; (first | (refine Keeps.cut (x := x) ?_ ?_; all_goals (first | (intro hx; clear_value x) | subst x)) | clear_value x | skip))
    | apply Keeps.setCtx | apply keeps_dropDoorbell | apply keeps_ringDoorbell | split)

theorem keeps_releaseDoorbells {s0 s : State} (hk : Keeps s0 s) (c : Nat) : Keeps s0 (releaseDoorbells s c) := by
  unfold releaseDoorbells
  with_reducible repeat' (first
    | assumption | apply Keeps.modCtx | apply Keeps.foldl | apply keeps_takeDoorbell | intro _ _ _)

theorem keeps_enableCtx {s0 s : State} (hk : Keeps s0 s) (c : Nat) : Keeps s0 (enableCtx s c) := by
  unfold enableCtx
  with_reducible repeat' (first
    | assumption
    | (extract_lets +onlyGivenNames x; (first | (refine Keeps.cut (x := x) ?_ ?_; all_goals (first | (intro hx; clear_value x) | subst x)) | clear_value x | skip))
    | apply Keeps.setCtx | simp -zeta only [Keeps.upd])

theorem keeps_releaseTargets {s0 s : State} (hk : Keeps s0 s) (c : Nat) : Keeps s0 (releaseTargets s c) := by
  unfold releaseTargets
  with_reducible repeat' (first
    | assumption | apply Keeps.modCtx | apply Keeps.foldl | apply keeps_releaseDoorbells | split | intro _ _ _)

theorem keeps_leaveCtx {s0 s : State} (hk : Keeps s0 s) (c : Nat) (off : Bool) : Keeps s0 (leaveCtx s c off) := by
  unfold leaveCtx
  with_reducible repeat' (first
    | assumption
    | (extract_lets +onlyGivenNames x; (first | (refine Keeps.cut (x := x) ?_ ?_; all_goals (first | (intro hx; clear_value x) | subst x)) | clear_value x | skip))
    | apply Keeps.modEng | apply Keeps.setCtx | apply keeps_writeCtxRec | apply keeps_enableCtx
    | apply keeps_releaseTargets | simp -zeta only [Keeps.upd] | split)

theorem keeps_leaveIfDone {s0 s : State} (hk : Keeps s0 s) (c : Nat) : Keeps s0 (leaveIfDone s c) := by
  unfold leaveIfDone
  with_reducible repeat' (first
    | assumption
    | (extract_lets +onlyGivenNames x; (first | (refine Keeps.cut (x := x) ?_ ?_; all_goals (first | (intro hx; clear_value x) | subst x)) | clear_value x | skip))
    | apply keeps_leaveCtx | split)

theorem keeps_disableCtx {s0 s : State} (hk : Keeps s0 s) (c : Nat) : Keeps s0 (disableCtx s c) := by
  unfold disableCtx
  with_reducible repeat' (first
    | assumption
    | (extract_lets +onlyGivenNames x; (first | (refine Keeps.cut (x := x) ?_ ?_; all_goals (first | (intro hx; clear_value x) | subst x)) | clear_value x | skip))
    | apply Keeps.modCtx | apply keeps_endCtx | apply keeps_leaveIfDone | simp -zeta only [Keeps.upd] | split)

theorem keeps_execContextResident {s0 s : State} (hk : Keeps s0 s) (e : Nat) :
    KeepsO s0 (execContextResident e s) := by
  unfold execContextResident
  with_reducible repeat' (first
    | assumption
    | (extract_lets +onlyGivenNames x; (first | (refine Keeps.cutO (x := x) ?_ ?_; all_goals (first | (intro hx; clear_value x) | subst x)) | (refine Keeps.cut (x := x) ?_ ?_; all_goals (first | (intro hx; clear_value x) | subst x)) | clear_value x | skip))
    | apply Keeps.next | apply Keeps.modCtx | simp -zeta only [Keeps.upd] | split)

end Sys2Proof.Machine
end

