-- ==== Sys2Proof/Laws/KeepsInlineTable.lean ====
section
/-! SUPPORT. `Keeps` of inline windows as table entries (Machine/InlineTable.lean). -/

namespace Sys2Proof.Machine

theorem keeps_inlineEnable {s0 s : State} (hk : Keeps s0 s) (i : Nat) : Keeps s0 (State.inlineEnable s i) := by
  unfold State.inlineEnable
  with_reducible repeat' (first
    | assumption
    | (extract_lets +onlyGivenNames x; (first | (refine Keeps.cut (x := x) ?_ ?_; all_goals (first | (intro hx; clear_value x) | subst x)) | clear_value x | skip))
    | apply Keeps.setInl | split)

theorem keeps_coverFlush {s0 s : State} (hk : Keeps s0 s) (i : Nat) : Keeps s0 (State.coverFlush s i) := by
  unfold State.coverFlush
  with_reducible repeat' (first | assumption | apply Keeps.modEng | apply Keeps.foldl | intro _ _ _)

theorem keeps_flushEnd {s0 s : State} (hk : Keeps s0 s) (i : Nat) : Keeps s0 (State.flushEnd s i) := by
  unfold State.flushEnd
  with_reducible repeat' (first
    | assumption
    | (extract_lets +onlyGivenNames x; (first | (refine Keeps.cut (x := x) ?_ ?_; all_goals (first | (intro hx; clear_value x) | subst x)) | clear_value x | skip))
    | apply Keeps.setInl | apply Keeps.modInl | apply keeps_inlineEnable | apply keeps_coverFlush | split)

theorem keeps_flushStart {s0 s : State} (hk : Keeps s0 s) (i : Nat) : Keeps s0 (State.flushStart s i) := by
  unfold State.flushStart
  with_reducible repeat' (first | assumption | apply Keeps.modInl | apply keeps_coverFlush | apply keeps_flushEnd | split)

theorem keeps_inlineDisable {s0 s : State} (hk : Keeps s0 s) (i : Nat) : Keeps s0 (State.inlineDisable s i) := by
  unfold State.inlineDisable
  with_reducible repeat' (first | assumption | apply Keeps.modInl | apply keeps_coverFlush | apply keeps_flushEnd)

theorem keeps_dropWc {s0 s : State} (hk : Keeps s0 s) (e : Nat) : Keeps s0 (State.dropWc s e) := by
  unfold State.dropWc
  with_reducible repeat' (first | assumption | apply Keeps.modEng | apply Keeps.foldl | apply keeps_flushEnd | intro _ _ _)

end Sys2Proof.Machine
end

