-- ==== Sys2Proof/Laws/KeepsErrors.lean ====
section
/-! SUPPORT. `Keeps` of error records (Machine/Errors.lean). -/

namespace Sys2Proof.Machine

theorem keeps_writeErr {s0 s : State} (hk : Keeps s0 s) (r : ErrRec) : Keeps s0 (writeErr s r) := by
  unfold writeErr
  with_reducible repeat' (first
    | assumption
    | (extract_lets +onlyGivenNames x; (first | (refine Keeps.cut (x := x) ?_ ?_; all_goals (first | (intro hx; clear_value x) | subst x)) | clear_value x | skip))
    | apply Keeps.out | apply Keeps.setMem_wr | simp -zeta only [Keeps.upd] | split)

theorem keeps_countError {s0 s : State} (hk : Keeps s0 s) (e unit quire kind : Nat) :
    Keeps s0 (countError s e unit quire kind) := by
  unfold countError
  with_reducible repeat' (first | assumption | apply Keeps.modEng)

theorem keeps_cutCheck {s0 s : State} (hk : Keeps s0 s) : Keeps s0 (cutCheck s) := by
  unfold cutCheck
  with_reducible repeat' (first
    | assumption
    | (extract_lets +onlyGivenNames x; (first | (refine Keeps.cut (x := x) ?_ ?_; all_goals (first | (intro hx; clear_value x) | subst x)) | clear_value x | skip))
    | apply Keeps.modDesc | simp -zeta only [Keeps.upd] | split)

theorem keeps_leaveCut {s0 s : State} (hk : Keeps s0 s) (e : Nat) : Keeps s0 (leaveCut s e) := by
  unfold leaveCut
  with_reducible repeat' (first | assumption | apply Keeps.modEng | apply keeps_cutCheck | split)

theorem keeps_drainAccess {s0 : State} (n : Nat) {s : State} (hk : Keeps s0 s) (a : OpenAccess) :
    Keeps s0 (drainAccess s a n) := by
  induction n generalizing s a with
  | zero => exact Keeps.upd.mpr hk
  | succ n ih =>
    unfold drainAccess
    split
    · exact ih (hk.out _) _
    · exact Keeps.upd.mpr hk

theorem keeps_respond {s0 s : State} (hk : Keeps s0 s) (p : HeldInline) (code : Nat) (data : List Byte) :
    Keeps s0 (respond s p code data) := by
  unfold respond
  with_reducible repeat' (first | assumption | apply Keeps.out | apply keeps_drainAccess | split)

theorem keeps_dropHeldIn {s0 s : State} (hk : Keeps s0 s) (e code : Nat) : Keeps s0 (State.dropHeldIn s e code) := by
  unfold State.dropHeldIn
  with_reducible repeat' (first | assumption | apply Keeps.modEng | apply Keeps.foldl | apply keeps_respond | intro _ _ _)

theorem keeps_fence {s0 s : State} (hk : Keeps s0 s) (e unit : Nat) : Keeps s0 (fence s e unit) := by
  unfold fence
  with_reducible repeat' (first
    | assumption
    | (extract_lets +onlyGivenNames x; (first | (refine Keeps.cut (x := x) ?_ ?_; all_goals (first | (intro hx; clear_value x) | subst x)) | clear_value x | skip))
    | apply Keeps.modEng | apply Keeps.modCtx | apply Keeps.foldl | apply keeps_endCtx | apply keeps_leaveCtx
    | apply keeps_leaveIfDone | apply keeps_dropWc | apply keeps_leaveCut | apply keeps_dropHeldIn
    | simp -zeta only [Keeps.upd] | split | intro _ _ _)

theorem keeps_detect {s0 s : State} (hk : Keeps s0 s) (e unit quire kind synd : Nat) (p : ErrAt) (redo : Bool) :
    Keeps s0 (detect s e unit quire kind synd p redo) := by
  unfold detect
  with_reducible repeat' (first
    | assumption
    | (extract_lets +onlyGivenNames x; (first | (refine Keeps.cut (x := x) ?_ ?_; all_goals (first | (intro hx; clear_value x) | subst x)) | clear_value x | skip))
    | apply Keeps.modEng | apply keeps_writeErr | apply keeps_countError | apply keeps_fence | split)

theorem keeps_external {s0 s : State} (hk : Keeps s0 s) (e : Nat) (parity : Bool) (p : ErrAt) :
    Keeps s0 (external s e parity p) := by
  unfold external
  with_reducible repeat' (first | assumption | apply Keeps.modEng | apply keeps_writeErr)

theorem keeps_externalRead {s0 s : State} (hk : Keeps s0 s) (c q w k : Nat) (parity : Bool) :
    Keeps s0 (externalRead s c q w k parity) := by
  unfold externalRead
  with_reducible repeat' (first | assumption | apply keeps_endDesc | apply keeps_faultChunk | apply keeps_external)

theorem keeps_externalAddr {s0 s : State} (hk : Keeps s0 s) (c q a : Nat) (parity : Bool) :
    Keeps s0 (externalAddr s c q a parity) := by
  unfold externalAddr
  with_reducible repeat' (first | assumption | apply keeps_endDesc | apply keeps_external)

theorem keeps_externalWrite {s0 s : State} (hk : Keeps s0 s) (e a : Nat) (parity : Bool) :
    Keeps s0 (externalWrite s e a parity) := by
  unfold externalWrite
  with_reducible repeat' (first | assumption | apply keeps_external)

theorem keeps_raiseEpoch {s0 s : State} (hk : Keeps s0 s) : Keeps s0 (raiseEpoch s) := by
  unfold raiseEpoch
  with_reducible repeat' (first
    | assumption
    | (extract_lets +onlyGivenNames x; (first | (refine Keeps.cut (x := x) ?_ ?_; all_goals (first | (intro hx; clear_value x) | subst x)) | clear_value x | skip))
    | simp -zeta only [Keeps.upd])

theorem keeps_loseCtx {s0 s : State} (hk : Keeps s0 s) (n : Nat) : Keeps s0 (loseCtx s n) := by
  unfold loseCtx
  with_reducible repeat' (first
    | assumption
    | (extract_lets +onlyGivenNames x; (first | (refine Keeps.cut (x := x) ?_ ?_; all_goals (first | (intro hx; clear_value x) | subst x)) | clear_value x | skip))
    | apply Keeps.modCtx | apply keeps_endCtx | apply keeps_leaveIfDone | simp -zeta only [Keeps.upd] | split)

theorem keeps_islandError {s0 s : State} (hk : Keeps s0 s) (kind synd loc : Nat) :
    Keeps s0 (islandError s kind synd loc) := by
  unfold islandError
  with_reducible repeat' (first
    | assumption | apply Keeps.setWin | apply Keeps.setPd | apply Keeps.modInl | apply keeps_writeErr
    | apply keeps_raiseEpoch | apply keeps_loseCtx | simp -zeta only [Keeps.upd] | split)

theorem keeps_execSelfTestStart {s0 s : State} (hk : Keeps s0 s) (e unit quire : Nat) :
    KeepsO s0 (execSelfTestStart e unit quire s) := by
  unfold execSelfTestStart
  with_reducible repeat' (first | assumption | apply Keeps.next | apply Keeps.modEng)

theorem keeps_endTest {s0 s : State} (hk : Keeps s0 s) (e : Nat) (t : SelfTest) (pass redo : Bool) (pattern us : Nat) :
    Keeps s0 (endTest s e t pass redo pattern us) := by
  unfold endTest
  with_reducible repeat' (first
    | assumption
    | (extract_lets +onlyGivenNames x; (first | (refine Keeps.cut (x := x) ?_ ?_; all_goals (first | (intro hx; clear_value x) | subst x)) | clear_value x | skip))
    | apply Keeps.modEng | apply keeps_writeErr | apply keeps_fence | simp -zeta only [Keeps.upd] | split)

end Sys2Proof.Machine
end

