-- ==== Sys2Proof/Laws/KeepsAccess.lean ====
section
/-! SUPPORT. `Keeps` of protection at the point of access (Machine/Access.lean). -/

namespace Sys2Proof.Machine

theorem keeps_reEvaluate {s0 s : State} (hk : Keeps s0 s) (c q : Nat) : Keeps s0 (reEvaluate s c q) := by
  unfold reEvaluate
  with_reducible repeat' (first
    | assumption
    | (extract_lets +onlyGivenNames x; (first | (refine Keeps.cut (x := x) ?_ ?_; all_goals (first | (intro hx; clear_value x) | subst x)) | clear_value x | skip))
    | apply Keeps.modDesc | apply keeps_endDesc | split)

theorem keeps_enterChunk_fst {s0 s : State} (hk : Keeps s0 s) (c q w k : Nat) :
    Keeps s0 (enterChunk s c q w k).1 := by
  unfold enterChunk
  with_reducible repeat' (first
    | assumption
    | (extract_lets +onlyGivenNames x; (first | (refine Keeps.cut (x := x) ?_ ?_; all_goals (first | (intro hx; clear_value x) | subst x)) | clear_value x | skip))
    | apply Keeps.modDesc | apply keeps_beginClaim | apply keeps_reEvaluate | split)

theorem keeps_enterChunk {s0 s s1 : State} {b1} {c q w k : Nat} (h : Keeps s0 s)
    (e : enterChunk s c q w k = (s1, b1)) : Keeps s0 s1 := by
  have := keeps_enterChunk_fst h c q w k
  rwa [e] at this

theorem keeps_touchChunk_fst {s0 s : State} (hk : Keeps s0 s) (c q w k : Nat) :
    Keeps s0 (touchChunk s c q w k).1 := by
  unfold touchChunk
  with_reducible repeat' (first
    | assumption
    | (extract_lets +onlyGivenNames x; (first | (refine Keeps.cut (x := x) ?_ ?_; all_goals (first | (intro hx; clear_value x) | subst x)) | clear_value x | skip))
    | apply Keeps.modDesc | apply keeps_reEvaluate | split)

theorem keeps_touchChunk {s0 s s1 : State} {b1} {c q w k : Nat} (h : Keeps s0 s)
    (e : touchChunk s c q w k = (s1, b1)) : Keeps s0 s1 := by
  have := keeps_touchChunk_fst h c q w k
  rwa [e] at this

theorem keeps_gateChunk_fst {s0 s : State} (hk : Keeps s0 s) (c q w k : Nat) : Keeps s0 (gateChunk s c q w k).1 := by
  unfold gateChunk
  with_reducible repeat' (first
    | assumption
    | (extract_lets +onlyGivenNames x; (first | (refine Keeps.cut (x := x) ?_ ?_; all_goals (first | (intro hx; clear_value x) | subst x)) | clear_value x | skip))
    | apply keeps_enterChunk_fst | apply keeps_touchChunk_fst | split)

theorem keeps_gateChunk {s0 s s1 : State} {b1} {c q w k : Nat} (h : Keeps s0 s)
    (e : gateChunk s c q w k = (s1, b1)) : Keeps s0 s1 := by
  have := keeps_gateChunk_fst h c q w k
  rwa [e] at this

theorem keeps_gate_fst {s0 s : State} (h : Keeps s0 s) (c q : Nat) (l : List Acc) : Keeps s0 (gate s c q l).1 := by
  refine Keeps.foldl_fst (p := (s, true)) h (fun a _ ha => Keeps.foldl_fst (p := a) ha (fun b k hb => ?_))
  split
  · exact keeps_gateChunk_fst hb _ _ _ _
  · exact hb

theorem keeps_gate {s0 s t : State} {b} {c q : Nat} {l : List Acc} (h : Keeps s0 s) (e : gate s c q l = (t, b)) :
    Keeps s0 t := by
  have := keeps_gate_fst h c q l
  rwa [e] at this

theorem keeps_postWrites {s0 s : State} (hk : Keeps s0 s) (c q : Nat) (l : List Acc) :
    Keeps s0 (postWrites s c q l) := by
  unfold postWrites
  with_reducible repeat' (first | assumption | apply keeps_sendReqs)

theorem keeps_postReads {s0 s : State} (hk : Keeps s0 s) (c : Nat) (l : List Acc) : Keeps s0 (postReads s c l) := by
  unfold postReads
  with_reducible repeat' (first | assumption | apply Keeps.foldl | apply keeps_readMem | intro _ _ _)

end Sys2Proof.Machine
end

