-- ==== Sys2Proof/Laws/KeepsLink.lean ====
section
/-! SUPPORT. `Keeps` of the streams of a link (Machine/Link.lean). -/

namespace Sys2Proof.Machine

theorem keeps_sendOne {s0 s : State} (hk : Keeps s0 s) (p : Nat) (x : Frame × Frame) : Keeps s0 (sendOne s p x) := by
  unfold sendOne
  with_reducible repeat' (first | assumption | apply Keeps.modLink | apply keeps_sendFrame)

theorem keeps_pumpTx {s0 s : State} (hk : Keeps s0 s) (p : Nat) : Keeps s0 (pumpTx s p) := by
  unfold pumpTx
  with_reducible repeat' (first
    | assumption | apply Keeps.modLink | apply Keeps.foldl | apply keeps_sendOne | split | intro _ _ _)

theorem keeps_queueFrames {s0 s : State} (hk : Keeps s0 s) (p job ticket dst : Nat) (l : List Frame) :
    Keeps s0 (queueFrames s p job ticket dst l) := by
  unfold queueFrames
  with_reducible repeat' (first | assumption | apply Keeps.modLink)

theorem keeps_sendCredit {s0 s : State} (hk : Keeps s0 s) (p : Nat) (r : RxStream) : Keeps s0 (sendCredit s p r) := by
  unfold sendCredit
  with_reducible repeat' (first | assumption | apply Keeps.modLink | apply keeps_sendCtrl)

theorem keeps_grantStream {s0 s : State} (hk : Keeps s0 s) (p : Nat) (i : Inst) (src : Nat) :
    Keeps s0 (grantStream s p i src) := by
  unfold grantStream
  with_reducible repeat' (first
    | assumption
    | (extract_lets +onlyGivenNames x; (first | (refine Keeps.cut (x := x) ?_ ?_; all_goals (first | (intro hx; clear_value x) | subst x)) | clear_value x | skip))
    | apply Keeps.modLink | apply keeps_sendCredit | split)

theorem keeps_grantAll {s0 s : State} (hk : Keeps s0 s) (p : Nat) : Keeps s0 (grantAll s p) := by
  unfold grantAll
  with_reducible repeat' (first | assumption | apply Keeps.foldl | apply keeps_grantStream | split | intro _ _ _)

theorem keeps_releaseKept {s0 s : State} (hk : Keeps s0 s) (p : Nat) (h : FrameHdr) :
    Keeps s0 (releaseKept s p h) := by
  unfold releaseKept
  with_reducible repeat' (first | assumption | apply Keeps.modLink)

theorem keeps_takeAck {s0 s : State} (hk : Keeps s0 s) (p : Nat) (h : FrameHdr) : Keeps s0 (takeAck s p h) := by
  unfold takeAck
  with_reducible repeat' (first
    | assumption
    | (extract_lets +onlyGivenNames x; (first | (refine Keeps.cut (x := x) ?_ ?_; all_goals (first | (intro hx; clear_value x) | subst x)) | clear_value x | skip))
    | apply Keeps.modLink | apply Keeps.foldl | apply keeps_releaseKept | split | intro _ _ _)

theorem keeps_resend {s0 s : State} (hk : Keeps s0 s) (p : Nat) (t : TxStream) (e : Nat) :
    Keeps s0 (resend s p t e) := by
  unfold resend
  with_reducible repeat' (first | assumption | apply Keeps.foldl | apply keeps_sendFrame | intro _ _ _)

theorem keeps_execNak {s0 s : State} (hk : Keeps s0 s) (pe : Nat) (f : RxFrame) : KeepsO s0 (execNak pe f s) := by
  unfold execNak
  with_reducible repeat' (first
    | assumption
    | (extract_lets +onlyGivenNames x; (first | (refine Keeps.cutO (x := x) ?_ ?_; all_goals (first | (intro hx; clear_value x) | subst x)) | (refine Keeps.cut (x := x) ?_ ?_; all_goals (first | (intro hx; clear_value x) | subst x)) | clear_value x | skip))
    | apply Keeps.next | apply Keeps.modLink | apply keeps_seeTicket | apply keeps_receive | apply keeps_resend
    | split | intro _ _ _)

theorem keeps_execRetransmitTimeout {s0 s : State} (hk : Keeps s0 s) (pe job ticket dst : Nat) :
    KeepsO s0 (execRetransmitTimeout pe job ticket dst s) := by
  unfold execRetransmitTimeout
  with_reducible repeat' (first
    | assumption
    | (extract_lets +onlyGivenNames x; (first | (refine Keeps.cutO (x := x) ?_ ?_; all_goals (first | (intro hx; clear_value x) | subst x)) | (refine Keeps.cut (x := x) ?_ ?_; all_goals (first | (intro hx; clear_value x) | subst x)) | clear_value x | skip))
    | apply Keeps.next | apply keeps_resend | split)

theorem keeps_sendAck {s0 s : State} (hk : Keeps s0 s) (p : Nat) (r : RxStream) : Keeps s0 (sendAck s p r) := by
  unfold sendAck
  with_reducible repeat' (first | assumption | apply Keeps.modLink | apply keeps_sendCtrl)

theorem keeps_execAckTimer {s0 s : State} (hk : Keeps s0 s) (pe job ticket src : Nat) :
    KeepsO s0 (execAckTimer pe job ticket src s) := by
  unfold execAckTimer
  with_reducible repeat' (first | assumption | apply Keeps.next | apply keeps_sendAck | split)

theorem keeps_execCreditDelay {s0 s : State} (hk : Keeps s0 s) (pe job ticket src : Nat) :
    KeepsO s0 (execCreditDelay pe job ticket src s) := by
  unfold execCreditDelay
  with_reducible repeat' (first | assumption | apply Keeps.next | apply keeps_sendCredit | split)

theorem keeps_execCreditRepeat {s0 s : State} (hk : Keeps s0 s) (pe job ticket src : Nat) :
    KeepsO s0 (execCreditRepeat pe job ticket src s) := by
  unfold execCreditRepeat
  with_reducible repeat' (first | assumption | apply Keeps.next | apply keeps_sendCredit | split)

theorem keeps_takeCredit {s0 s : State} (hk : Keeps s0 s) (p : Nat) (h : FrameHdr) : Keeps s0 (takeCredit s p h) := by
  unfold takeCredit
  with_reducible repeat' (first
    | assumption
    | (extract_lets +onlyGivenNames x; (first | (refine Keeps.cut (x := x) ?_ ?_; all_goals (first | (intro hx; clear_value x) | subst x)) | clear_value x | skip))
    | apply Keeps.modLink | split)

end Sys2Proof.Machine
end

