-- ==== Sys2Proof/Laws/Strips.lean ====
section
/-! SUPPORT. Every write of a strip and of an output stage keeps memory in its canonical form. -/

namespace Sys2Proof.Machine

/-- A fold whose every step keeps the form keeps it. -/
theorem wf_foldl {α β : Type} (get : β → Mem) (f : β → α → β) (l : List α) (b : β)
    (h : Memory.wf (get b) = true) (hf : ∀ b x, Memory.wf (get b) = true → Memory.wf (get (f b x)) = true) :
    Memory.wf (get (l.foldl f b)) = true := by
  induction l generalizing b with
  | nil => exact h
  | cons x r ih => exact ih _ (hf b x h)

theorem wf_wrElem (m : Mem) (t : Tensor) (i c : Nat) (h : Memory.wf m = true) :
    Memory.wf (t.wrElem m i c) = true := by
  unfold Tensor.wrElem
  extract_lets m'
  have h' : Memory.wf m' = true := Mem.wf_wrBits _ _ _ _ _ h
  split
  · exact Mem.wf_endRun _ _ _ _ h'
  · exact h'

theorem wf_wrAshlar (m : Mem) (t : Tensor) (g : Nat) (codes : List Nat) (scale : Nat) (quoins : List Nat)
    (h : Memory.wf m = true) : Memory.wf (t.wrAshlar m g codes scale quoins) = true :=
  wf_foldl id _ _ _ (Mem.wf_wr _ _ _ _ (Mem.wf_wr _ _ _ _ h)) (fun _ _ h => Mem.wf_wr _ _ _ _ h)

theorem wf_writeElems (m : Mem) (t : Tensor) (i : Nat) (l : List Nat) (h : Memory.wf m = true) :
    Memory.wf (writeElems m t i l) = true := by
  induction l generalizing m i with
  | nil => exact h
  | cons c r ih => exact ih _ _ (wf_wrElem m t i c h)

theorem wf_writeRun (m : Mem) (t : Tensor) (g : Nat) (l : List AshOut) (h : Memory.wf m = true) :
    Memory.wf (writeRun m t g l) = true := by
  induction l generalizing m g with
  | nil => exact h
  | cons o r ih => exact ih _ _ (wf_wrAshlar m t g _ _ _ h)

theorem wf_writeRaw (m : Mem) (t : Tensor) (lo : Nat) (c : WChunk) (h : Memory.wf m = true) :
    Memory.wf (writeRaw m t lo c) = true := by
  unfold writeRaw
  split
  · exact wf_writeElems _ _ _ _ h
  · exact wf_foldl id _ _ _ h (fun _ _ h => wf_wrAshlar _ _ _ _ _ _ h)

theorem wf_outStage (o : OutStage) (sh : List (Nat × Byte)) (m : Mem) (d : Desc) (b : Bool) (h : Memory.wf m = true) :
    Memory.wf (o.run sh m d b).1 = true :=
  wf_foldl (fun p : Mem × Desc => p.1) _ _ _ h (fun _ _ h => Mem.wf_wrBits _ _ _ _ _ h)

variable (s : State) {st : Strip} (h : Memory.wf st.mem = true)
include h

theorem wf_emitElems (t : Tensor) (lo : Nat) (l : List (Nat × Ev)) : Memory.wf (emitElems st t lo l).mem = true :=
  wf_writeElems _ _ _ _ h

theorem wf_quantSegment (lo hi : Nat) : Memory.wf (quantSegment s st lo hi).mem = true := by
  unfold quantSegment
  exact wf_writeRun _ _ _ _ h

theorem wf_stripQuantise (hi n lo : Nat) : Memory.wf (stripQuantise s hi n st lo).mem = true := by
  induction n generalizing st lo with
  | zero => exact h
  | succ n ih =>
    unfold stripQuantise
    split
    · exact h
    · exact ih (wf_quantSegment s h _ _) _

theorem wf_reduceWrite (row : Nat) (r : RedSt) : Memory.wf (reduceWrite s st row r).mem = true :=
  wf_emitElems h _ _ _

theorem wf_reduceElem : Memory.wf (reduceElem s st).mem = true := by
  unfold reduceElem
  dsimp only
  repeat' split
  all_goals first | exact h | exact wf_reduceWrite s (st := Strip.mk _ _ _ _ _ _) h _ _

theorem wf_stripReduce (note : Strip → Strip) (hn : ∀ st, (note st).mem = st.mem) (n : Nat) :
    Memory.wf (stripReduce s note st n).mem = true :=
  wf_foldl (fun p : Strip => p.mem) _ _ _ h (fun st _ h => wf_reduceElem s (st := note st) (by rw [hn]; exact h))

theorem wf_finishRow (row : RowSt) (rr : RowRec) (bad : Bool) : Memory.wf (finishRow s st row rr bad).mem = true :=
  Mem.wf_wr _ _ _ _ h

omit h in
theorem mem_scanTo (note : Strip → RowSt → Strip) (hn : ∀ st r, (note st r).mem = st.mem) (rr : RowRec) (hi n : Nat)
    (st : Strip) (row : RowSt) : (scanTo s note rr hi n st row).1.mem = st.mem := by
  induction n generalizing st row with
  | zero => rfl
  | succ n ih =>
    unfold scanTo
    split
    · rfl
    · exact (ih _ _).trans (hn _ _)

theorem wf_stripSample (note : Strip → RowSt → Strip) (hn : ∀ st r, (note st r).mem = st.mem) (n : Nat) :
    Memory.wf (stripSample s note st n).mem = true := by
  unfold stripSample
  extract_lets d
  split
  extract_lets rr hi
  split
  · with_reducible apply wf_finishRow
    exact h
  · split
    next st' row' hs =>
    have hm := congrArg (fun p : Strip × RowSt => p.1.mem) hs
    dsimp only at hm
    rw [mem_scanTo s note hn] at hm
    have h' : Memory.wf st'.mem = true := hm ▸ h
    split
    · exact h'
    · with_reducible apply wf_finishRow
      exact h'

theorem wf_stripFold (lo hi : Nat) : Memory.wf (stripFold s st lo hi).mem = true := by
  unfold stripFold
  dsimp only
  repeat' split
  all_goals exact h

theorem wf_slotEmit (slot lo : Nat) (l : List (Nat × Ev)) : Memory.wf (slotEmit s st slot lo l).mem = true :=
  wf_writeElems _ _ _ _ h

omit h
variable {r : RunSt} (hr : Memory.wf r.st.mem = true)
include hr

theorem wf_runSts (w lo hi j : Nat) : Memory.wf (runSts s r w lo hi j).st.mem = true := by
  unfold runSts
  dsimp only
  split
  · exact hr
  · exact wf_slotEmit s hr _ _ _

theorem wf_runQnt (w lo hi : Nat) : Memory.wf (runQnt s r w lo hi).st.mem = true := by
  have hf := wf_foldl (fun p : RunSt × List Nat => p.1.st.mem)
    (fun p g => ((qntSegment s p.1 w lo g.1 g.2).1, p.2 ++ (qntSegment s p.1 w lo g.1 g.2).2))
    (groupsOf r.st.d.rD r.st.d.rD hi (hi - lo) lo) (r, []) hr (fun _ _ h => wf_writeRun _ _ _ _ h)
  unfold runQnt
  dsimp only
  split <;> exact hf

theorem wf_runRed (w lo hi : Nat) : Memory.wf (runRed s r w lo hi).st.mem = true := by
  refine wf_foldl (fun p : RunSt => p.st.mem) _ _ _ hr (fun r i h => ?_)
  dsimp only
  split
  · exact h
  · exact wf_slotEmit s (st := Strip.mk _ _ _ _ _ _) h _ _ _

theorem wf_runIns (m0 : Mem) (lo hi w idx j n stride : Nat) :
    Memory.wf (runIns s m0 lo hi r w idx j n stride).st.mem = true := by
  unfold runIns runWatch
  dsimp only
  repeat' split
  all_goals first | exact hr | exact wf_runSts s hr _ _ _ _ | exact wf_runQnt s hr _ _ _ | exact wf_runRed s hr _ _ _

theorem wf_runBody (m0 : Mem) (lo hi fuel idx : Nat) (l : List Nat) :
    Memory.wf (runBody s m0 lo hi fuel idx l r).st.mem = true := by
  induction fuel generalizing r idx l with
  | zero => exact hr
  | succ n ih =>
    unfold runBody
    split
    · exact hr
    · split
      · refine ih ?_ _ _
        exact wf_foldl (fun p : RunSt => p.st.mem) _ _ _ hr (fun _ _ h =>
          wf_foldl (fun p : RunSt => p.st.mem) _ _ _ h (fun _ _ h => wf_runIns s h _ _ _ _ _ _ _ _))
      · exact ih (wf_runIns s hr _ _ _ _ _ _ _ _) _ _

omit hr
include h

theorem wf_stripRecipe (lo hi : Nat) : Memory.wf (stripRecipe s st lo hi).mem = true := by
  unfold stripRecipe
  extract_lets r0 r
  exact wf_runBody s (r := r0) h _ _ _ _ _ _

omit h in
/-- Noting the states of a command leaves memory as it is. -/
theorem mem_checkpoint (st : Strip) (key : List Nat) : (checkpoint st key).mem = st.mem := by
  unfold checkpoint
  dsimp only
  split <;> rfl

theorem wf_byChunks (work : Strip → Nat → Nat → Strip)
    (hw : ∀ st lo hi, Memory.wf st.mem = true → Memory.wf (work st lo hi).mem = true) (hi n lo : Nat) :
    Memory.wf (byChunks s work hi n st lo).mem = true := by
  induction n generalizing st lo with
  | zero => exact h
  | succ n ih =>
    unfold byChunks
    split
    · exact h
    · dsimp only
      refine ih ?_ _
      exact hw _ _ _ ((mem_checkpoint _ _).symm ▸ h)

omit h in
theorem wf_writeHeld (d : Desc) (m : Mem) (out : Nat → Bool) (h : Memory.wf m = true) :
    Memory.wf (d.writeHeld s m out).1 = true :=
  wf_foldl id _ _ _ h (fun _ _ h => wf_wrElem _ _ _ _ h)

theorem wf_flushHeld : Memory.wf (flushHeld s st).mem = true := by
  unfold flushHeld
  extract_lets d
  split
  · exact h
  · exact wf_writeHeld s _ _ _ h

omit h in
/-- A strip of any opcode keeps memory in its canonical form. -/
theorem wf_stripWork (d : Desc) (live : List (Nat × Byte)) (l : Nat) (x : Nat × Nat) (h : Memory.wf s.mem = true) :
    Memory.wf (stripWork s d live l x).mem = true := by
  unfold stripWork
  extract_lets st o work
  have hs : Memory.wf st.mem = true := h
  split
  · exact wf_stripReduce s hs _ (fun _ => mem_checkpoint _ _) _
  · split
    · exact wf_stripSample s hs _ (fun _ _ => mem_checkpoint _ _) _
    · split
      · exact wf_stripFold s hs _ _
      · refine wf_flushHeld s (wf_byChunks s hs work (fun st lo hi h => ?_) _ _ _)
        subst work
        dsimp only
        repeat' split
        · exact wf_writeElems _ _ _ _ h
        · exact wf_stripQuantise s h _ _ _
        · exact wf_writeElems _ _ _ _ h
        · exact wf_writeElems _ _ _ _ h
        · exact wf_writeElems _ _ _ _ h
        · exact h
        · exact wf_stripRecipe s h _ _

end Sys2Proof.Machine
end

