-- ==== Sys2Proof/Laws/KeepsCourse.lean ====
section
/-! SUPPORT. `Keeps` of the courses of a collective (Machine/Course.lean). -/

namespace Sys2Proof.Machine

theorem keeps_writeRunAt {s0 s : State} (hk : Keeps s0 s) (c : Nat) (d : Desc) (t : Tensor) (lo : Nat) (run : WChunk)
    (evs : List Ev) (rs : Option Nat) : Keeps s0 (writeRunAt s c d t lo run evs rs) :=
  keeps_postWrites (keeps_countOut ((hk.setMem _ (wf_writeRaw _ _ _ _)).modDesc _ _ _) _ _ _ _) _ _ _

theorem keeps_countRaises {s0 s : State} (hk : Keeps s0 s) (p c : Nat) (d : Desc) (idx : Nat) (l : List (Nat × Nat)) :
    Keeps s0 (countRaises s p c d idx l) := by
  unfold countRaises
  with_reducible repeat' (first
    | assumption
    | (extract_lets +onlyGivenNames x; (first | (refine Keeps.cut (x := x) ?_ ?_; all_goals (first | (intro hx; clear_value x) | subst x)) | clear_value x | skip))
    | apply Keeps.modEng | apply Keeps.modLink | apply Keeps.modDesc | split)

theorem keeps_sendRun {s0 s : State} (hk : Keeps s0 s) (p c : Nat) (d : Desc) (rank : Nat) (l : List Frame) :
    Keeps s0 (sendRun s p c d rank l) := by
  unfold sendRun
  with_reducible repeat' (first | assumption | apply keeps_countOut | apply keeps_queueFrames)

theorem keeps_markRescale {s0 s : State} (hk : Keeps s0 s) (c q : Nat) (b : Bool) :
    Keeps s0 (markRescale s c q b) := by
  unfold markRescale
  with_reducible repeat' (first | assumption | apply Keeps.modDesc | split)

theorem keeps_markStarted {s0 s : State} (hk : Keeps s0 s) (c q chain : Nat) :
    Keeps s0 (markStarted s c q chain) := by
  unfold markStarted
  with_reducible repeat' (first | assumption | apply Keeps.modDesc)

theorem keeps_markGot {s0 s : State} (hk : Keeps s0 s) (c q : Nat) (u : Nat × Nat × Nat × Nat × Nat) :
    Keeps s0 (markGot s c q u) := by
  unfold markGot
  with_reducible repeat' (first | assumption | apply Keeps.modDesc)

theorem keeps_issueWork {s0 s : State} (hk : Keeps s0 s) (c : Nat) (d : Desc) (l : List Acc) :
    Keeps s0 (issueWork s c d l) := by
  unfold issueWork
  with_reducible repeat' (first | assumption | apply keeps_startDesc | apply keeps_countIssue | apply keeps_postReads)

theorem keeps_startChain {s0 s : State} (hk : Keeps s0 s) (p c : Nat) (d : Desc) (k : Nat) :
    Keeps s0 (startChain s p c d k) := by
  unfold startChain
  with_reducible repeat' (first
    | assumption
    | (extract_lets +onlyGivenNames x; (first | (refine Keeps.cut (x := x) ?_ ?_; all_goals (first | (intro hx; clear_value x) | subst x)) | clear_value x | skip))
    | apply keeps_countIn | refine keeps_gate ?_ (by assumption) | apply keeps_writeRunAt | apply keeps_sendRun
    | apply keeps_markStarted | apply keeps_issueWork | split)

theorem keeps_a2aBitmap {s0 s : State} (hk : Keeps s0 s) (c : Nat) (d : Desc) : Keeps s0 (a2aBitmap s c d) := by
  unfold a2aBitmap
  with_reducible repeat' (first | assumption | apply Keeps.modDesc | apply Keeps.setMem_wrBytes | apply keeps_postWrites)

theorem keeps_startSegment {s0 s : State} (hk : Keeps s0 s) (p c : Nat) (d : Desc) (k : Nat) :
    Keeps s0 (startSegment s p c d k) := by
  unfold startSegment
  with_reducible repeat' (first
    | assumption
    | (extract_lets +onlyGivenNames x; (first | (refine Keeps.cut (x := x) ?_ ?_; all_goals (first | (intro hx; clear_value x) | subst x)) | clear_value x | skip))
    | apply Keeps.setMem_wr | apply keeps_countIn | refine keeps_gate ?_ (by assumption) | apply keeps_postWrites
    | apply keeps_writeRunAt | apply keeps_sendRun | apply keeps_markStarted | apply keeps_issueWork
    | apply keeps_a2aBitmap | split)

theorem keeps_writeRowScale {s0 s : State} (hk : Keeps s0 s) (d : Desc) (g : Nat) :
    Keeps s0 (writeRowScale s d g) := by
  unfold writeRowScale
  with_reducible repeat' (first
    | assumption
    | (extract_lets +onlyGivenNames x; (first | (refine Keeps.cut (x := x) ?_ ?_; all_goals (first | (intro hx; clear_value x) | subst x)) | clear_value x | skip))
    | apply Keeps.setMem_wr | split)

theorem keeps_startPiece {s0 s : State} (hk : Keeps s0 s) (p c : Nat) (d : Desc) (x : Nat) :
    Keeps s0 (startPiece s p c d x) := by
  unfold startPiece
  with_reducible repeat' (first
    | assumption
    | (extract_lets +onlyGivenNames x; (first | (refine Keeps.cut (x := x) ?_ ?_; all_goals (first | (intro hx; clear_value x) | subst x)) | clear_value x | skip))
    | apply Keeps.modDesc | apply Keeps.foldl | apply keeps_countIn | refine keeps_gate ?_ (by assumption)
    | apply keeps_writeRunAt | apply keeps_sendRun | apply keeps_markStarted | apply keeps_issueWork
    | apply keeps_writeRowScale | split | intro _ _ _)

theorem keeps_startUnit {s0 s : State} (hk : Keeps s0 s) (p c : Nat) (d : Desc) (k : Nat) :
    Keeps s0 (startUnit s p c d k) := by
  unfold startUnit
  with_reducible repeat' (first
    | assumption | apply keeps_startChain | apply keeps_startSegment | apply keeps_startPiece | split)

theorem keeps_keepBuffer {s0 s : State} (hk : Keeps s0 s) (p : Nat) (h : FrameHdr) (built : List Frame) :
    Keeps s0 (keepBuffer s p h built) := by
  unfold keepBuffer
  with_reducible repeat' (first | assumption | apply Keeps.modLink)

theorem keeps_forwardRun {s0 s : State} (hk : Keeps s0 s) (p c : Nat) (d : Desc) (h : FrameHdr) (rank : Nat) (l : List Frame) :
    Keeps s0 (forwardRun s p c d h rank l) := by
  unfold forwardRun
  with_reducible repeat' (first | assumption | apply keeps_sendRun | apply keeps_keepBuffer)

theorem keeps_workCourse_fst {s0 s : State} (hk : Keeps s0 s) (p c : Nat) (d : Desc) (f : Frame) :
    Keeps s0 (workCourse s p c d f).1 := by
  unfold workCourse
  with_reducible repeat' (first
    | assumption
    | (extract_lets +onlyGivenNames x; (first | (refine Keeps.cut (x := x) ?_ ?_; all_goals (first | (intro hx; clear_value x) | subst x)) | clear_value x | skip))
    | apply Keeps.modDesc | apply keeps_countIn | refine keeps_gate ?_ (by assumption) | apply keeps_writeRunAt
    | apply keeps_countRaises | apply keeps_markRescale | apply keeps_markGot | apply keeps_issueWork
    | apply keeps_forwardRun | split)

theorem keeps_workCourse {s0 s s1 : State} {b1} {p c : Nat} {d : Desc} {f : Frame} (h : Keeps s0 s)
    (e : workCourse s p c d f = (s1, b1)) : Keeps s0 s1 := by
  have := keeps_workCourse_fst h p c d f
  rwa [e] at this

theorem keeps_workHop_fst {s0 s : State} (hk : Keeps s0 s) (p c : Nat) (d : Desc) (f : Frame) :
    Keeps s0 (workHop s p c d f).1 := by
  unfold workHop
  with_reducible repeat' (first
    | assumption
    | (extract_lets +onlyGivenNames x; (first | (refine Keeps.cut (x := x) ?_ ?_; all_goals (first | (intro hx; clear_value x) | subst x)) | clear_value x | skip))
    | apply keeps_countIn | refine keeps_gate ?_ (by assumption) | apply keeps_writeRunAt | apply keeps_markRescale
    | apply keeps_markGot | apply keeps_issueWork | apply keeps_forwardRun | split)

theorem keeps_workHop {s0 s s1 : State} {b1} {p c : Nat} {d : Desc} {f : Frame} (h : Keeps s0 s)
    (e : workHop s p c d f = (s1, b1)) : Keeps s0 s1 := by
  have := keeps_workHop_fst h p c d f
  rwa [e] at this

theorem keeps_workSegment_fst {s0 s : State} (hk : Keeps s0 s) (p c : Nat) (d : Desc) (f : Frame) :
    Keeps s0 (workSegment s p c d f).1 := by
  unfold workSegment
  with_reducible repeat' (first
    | assumption
    | (extract_lets +onlyGivenNames x; (first | (refine Keeps.cut (x := x) ?_ ?_; all_goals (first | (intro hx; clear_value x) | subst x)) | clear_value x | skip))
    | apply Keeps.setMem_wr | apply keeps_countIn | refine keeps_gate ?_ (by assumption) | apply keeps_postWrites
    | apply keeps_writeRunAt | apply keeps_markGot | apply keeps_issueWork | split)

theorem keeps_workSegment {s0 s s1 : State} {b1} {p c : Nat} {d : Desc} {f : Frame} (h : Keeps s0 s)
    (e : workSegment s p c d f = (s1, b1)) : Keeps s0 s1 := by
  have := keeps_workSegment_fst h p c d f
  rwa [e] at this

theorem keeps_workPiece_fst {s0 s : State} (hk : Keeps s0 s) (p c : Nat) (d : Desc) (f : Frame) :
    Keeps s0 (workPiece s p c d f).1 := by
  unfold workPiece
  with_reducible repeat' (first
    | assumption
    | (extract_lets +onlyGivenNames x; (first | (refine Keeps.cut (x := x) ?_ ?_; all_goals (first | (intro hx; clear_value x) | subst x)) | clear_value x | skip))
    | apply keeps_countIn | refine keeps_gate ?_ (by assumption) | apply keeps_writeRunAt | apply keeps_markGot
    | apply keeps_issueWork | apply keeps_writeRowScale | split)

theorem keeps_workPiece {s0 s s1 : State} {b1} {p c : Nat} {d : Desc} {f : Frame} (h : Keeps s0 s)
    (e : workPiece s p c d f = (s1, b1)) : Keeps s0 s1 := by
  have := keeps_workPiece_fst h p c d f
  rwa [e] at this

theorem keeps_workFrame_fst {s0 s : State} (hk : Keeps s0 s) (p : Nat) (f : Frame) :
    Keeps s0 (workFrame s p f).1 := by
  unfold workFrame
  with_reducible repeat' (first
    | assumption
    | (extract_lets +onlyGivenNames x; (first | (refine Keeps.cut (x := x) ?_ ?_; all_goals (first | (intro hx; clear_value x) | subst x)) | clear_value x | skip))
    | apply keeps_workCourse_fst | apply keeps_workHop_fst | apply keeps_workSegment_fst | apply keeps_workPiece_fst
    | split)

theorem keeps_workFrame {s0 s s1 : State} {b1} {p : Nat} {f : Frame} (h : Keeps s0 s)
    (e : workFrame s p f = (s1, b1)) : Keeps s0 s1 := by
  have := keeps_workFrame_fst h p f
  rwa [e] at this

theorem keeps_workStream {s0 s : State} (hk : Keeps s0 s) (p : Nat) (r : RxStream) : Keeps s0 (workStream s p r) := by
  unfold workStream
  with_reducible repeat' (first
    | assumption | apply Keeps.modLink | apply Keeps.foldl | refine keeps_workFrame ?_ (by assumption) | split
    | intro _ _ _)

theorem keeps_settleOne {s0 s : State} (hk : Keeps s0 s) (p c q : Nat) : Keeps s0 (settleOne s p c q) := by
  unfold settleOne
  with_reducible repeat' (first
    | assumption
    | (extract_lets +onlyGivenNames x; (first | (refine Keeps.cut (x := x) ?_ ?_; all_goals (first | (intro hx; clear_value x) | subst x)) | clear_value x | skip))
    | apply Keeps.modDesc | apply keeps_startDesc | split)

theorem keeps_settle {s0 s : State} (hk : Keeps s0 s) (p : Nat) : Keeps s0 (settle s p) := by
  unfold settle
  with_reducible repeat' (first | assumption | apply Keeps.foldl | apply keeps_settleOne | intro _ _ _)

theorem keeps_workLink {s0 s : State} (hk : Keeps s0 s) (p : Nat) : Keeps s0 (workLink s p) := by
  unfold workLink
  with_reducible repeat' (first
    | assumption | apply Keeps.foldl | apply keeps_pump | apply keeps_pumpTx | apply keeps_grantAll
    | apply keeps_workStream | apply keeps_settle | split | intro _ _ _)

end Sys2Proof.Machine
end

