-- ==== Sys2Proof/Laws/KeepsData.lean ====
section
/-! SUPPORT. `Keeps` of received frames of buckets (Machine/Data.lean). -/

namespace Sys2Proof.Machine

theorem keeps_abortBucket {s0 s : State} (hk : Keeps s0 s) (p c : Nat) (d : Desc) :
    Keeps s0 (abortBucket s p c d) := by
  unfold abortBucket
  with_reducible repeat' (first | assumption | apply Keeps.modDesc | apply keeps_sendAbort | apply keeps_endDesc | split)

theorem keeps_takeAnnounce {s0 s : State} (hk : Keeps s0 s) (p : Nat) (f : Frame) :
    Keeps s0 (takeAnnounce s p f) := by
  unfold takeAnnounce
  with_reducible repeat' (first
    | assumption
    | (extract_lets +onlyGivenNames x; (first | (refine Keeps.cut (x := x) ?_ ?_; all_goals (first | (intro hx; clear_value x) | subst x)) | clear_value x | skip))
    | apply Keeps.modLink | apply keeps_abortBucket | split)

theorem keeps_execAnnounce {s0 s : State} (hk : Keeps s0 s) (pe : Nat) (f : RxFrame) :
    KeepsO s0 (execAnnounce pe f s) := by
  unfold execAnnounce
  with_reducible repeat' (first
    | assumption | apply Keeps.next | apply keeps_seeTicket | apply keeps_receive | apply keeps_workLink
    | apply keeps_takeAnnounce | intro _ _ _)

theorem keeps_execAbort {s0 s : State} (hk : Keeps s0 s) (pe : Nat) (f : RxFrame) : KeepsO s0 (execAbort pe f s) := by
  unfold execAbort
  with_reducible repeat' (first
    | assumption
    | (extract_lets +onlyGivenNames x; (first | (refine Keeps.cutO (x := x) ?_ ?_; all_goals (first | (intro hx; clear_value x) | subst x)) | (refine Keeps.cut (x := x) ?_ ?_; all_goals (first | (intro hx; clear_value x) | subst x)) | clear_value x | skip))
    | apply Keeps.next | apply keeps_endDesc | apply keeps_seeTicket | apply keeps_receive | apply keeps_workLink
    | split | intro _ _ _)

theorem keeps_acceptData {s0 s : State} (hk : Keeps s0 s) (p : Nat) (f : Frame) (r : RxStream) :
    Keeps s0 (acceptData s p f r) := by
  unfold acceptData
  with_reducible repeat' (first
    | assumption
    | (extract_lets +onlyGivenNames x; (first | (refine Keeps.cut (x := x) ?_ ?_; all_goals (first | (intro hx; clear_value x) | subst x)) | clear_value x | skip))
    | apply Keeps.modLink | apply keeps_sendAck | split)

theorem keeps_sendNak {s0 s : State} (hk : Keeps s0 s) (p : Nat) (r : RxStream) : Keeps s0 (sendNak s p r) := by
  unfold sendNak
  with_reducible repeat' (first | assumption | apply Keeps.modLink | apply keeps_sendCtrl | split)

theorem keeps_takeData {s0 s : State} (hk : Keeps s0 s) (p : Nat) (f : Frame) : Keeps s0 (takeData s p f) := by
  unfold takeData
  with_reducible repeat' (first
    | assumption
    | (extract_lets +onlyGivenNames x; (first | (refine Keeps.cut (x := x) ?_ ?_; all_goals (first | (intro hx; clear_value x) | subst x)) | clear_value x | skip))
    | apply Keeps.modLink | apply keeps_traceFrame | apply keeps_sendAck | apply keeps_workLink
    | apply keeps_abortBucket | apply keeps_acceptData | apply keeps_sendNak | split)

theorem keeps_execData {s0 s : State} (hk : Keeps s0 s) (pe : Nat) (f : RxFrame) : KeepsO s0 (execData pe f s) := by
  unfold execData
  with_reducible repeat' (first
    | assumption | apply Keeps.next | apply keeps_seeTicket | apply keeps_receive | apply keeps_takeData
    | intro _ _ _)

theorem keeps_execAck {s0 s : State} (hk : Keeps s0 s) (pe : Nat) (f : RxFrame) : KeepsO s0 (execAck pe f s) := by
  unfold execAck
  with_reducible repeat' (first
    | assumption | apply Keeps.next | apply keeps_seeTicket | apply keeps_receive | apply keeps_takeAck
    | apply keeps_workLink | intro _ _ _)

theorem keeps_execCredit {s0 s : State} (hk : Keeps s0 s) (pe : Nat) (f : RxFrame) :
    KeepsO s0 (execCredit pe f s) := by
  unfold execCredit
  with_reducible repeat' (first
    | assumption | apply Keeps.next | apply keeps_seeTicket | apply keeps_receive | apply keeps_takeCredit
    | apply keeps_workLink | intro _ _ _)

theorem keeps_zeroCounts {s0 s : State} (hk : Keeps s0 s) (c : Nat) (d : Desc) : Keeps s0 (zeroCounts s c d) := by
  unfold zeroCounts
  with_reducible repeat' (first | assumption | apply Keeps.setMem_wrBytes | apply keeps_postWrites | split)

theorem keeps_openBucket {s0 s : State} (hk : Keeps s0 s) (p c q : Nat) : Keeps s0 (openBucket s p c q) := by
  unfold openBucket
  with_reducible repeat' (first
    | assumption | apply Keeps.modLink | apply Keeps.modDesc | apply Keeps.foldl | apply keeps_sendFrame
    | apply keeps_workLink | intro _ _ _)

theorem keeps_execBucketIssue {s0 s : State} (hk : Keeps s0 s) (c seq : Nat) :
    KeepsO s0 (execBucketIssue c seq s) := by
  unfold execBucketIssue
  with_reducible repeat' (first
    | assumption
    | (extract_lets +onlyGivenNames x; (first | (refine Keeps.cutO (x := x) ?_ ?_; all_goals (first | (intro hx; clear_value x) | subst x)) | (refine Keeps.cut (x := x) ?_ ?_; all_goals (first | (intro hx; clear_value x) | subst x)) | clear_value x | skip))
    | apply Keeps.next | apply keeps_zeroCounts | apply keeps_openBucket | split)

theorem keeps_execChainStart {s0 s : State} (hk : Keeps s0 s) (c seq chain : Nat) :
    KeepsO s0 (execChainStart c seq chain s) := by
  unfold execChainStart
  with_reducible repeat' (first | assumption | apply Keeps.next | apply keeps_startUnit | apply keeps_workLink | split)

end Sys2Proof.Machine
end

