-- ==== Sys2Proof/Laws/KeepsContextImage.lean ====
section
/-! SUPPORT. `Keeps` of context images (Machine/ContextImage.lean). -/

namespace Sys2Proof.Machine

theorem keeps_giveUpSave {s0 s : State} (hk : Keeps s0 s) (c q t : Nat) (st : Nat) :
    Keeps s0 (giveUpSave s c q t st) := by
  unfold giveUpSave
  with_reducible repeat' (first | assumption | apply Keeps.modCtx | apply keeps_endDesc)

theorem keeps_wantWatch {s0 s : State} (hk : Keeps s0 s) (e : Nat) (d : Desc) : Keeps s0 (wantWatch s e d) := by
  unfold wantWatch
  with_reducible repeat' (first | assumption | apply Keeps.modEng | split)

theorem keeps_endRestore {s0 s : State} (hk : Keeps s0 s) (t : Nat) : Keeps s0 (endRestore s t) := by
  unfold endRestore
  with_reducible repeat' (first | assumption | apply Keeps.modCtx | apply keeps_releaseDoorbells)

theorem keeps_loadImage {s0 s : State} (hk : Keeps s0 s) (t : Nat) (img : List Byte) :
    Keeps s0 (loadImage s t img) := by
  unfold loadImage
  with_reducible repeat' (first | assumption | apply Keeps.modCtx | apply Keeps.foldl | apply keeps_wantWatch | intro _ _ _)

theorem keeps_runRestore {s0 s : State} (hk : Keeps s0 s) (c q : Nat) : Keeps s0 (runRestore s c q) := by
  unfold runRestore
  with_reducible repeat' (first
    | assumption
    | (extract_lets +onlyGivenNames x; (first | (refine Keeps.cut (x := x) ?_ ?_; all_goals (first | (intro hx; clear_value x) | subst x)) | clear_value x | skip))
    | apply Keeps.modDesc | apply keeps_gate_fst | apply keeps_postReads | apply keeps_loadImage
    | simp -zeta only [Keeps.upd] | split)

end Sys2Proof.Machine
end

