-- ==== Sys2Proof/Laws/KeepsDomain.lean ====
section
/-! SUPPORT. `Keeps` of the domain and its leases (Machine/Domain.lean). -/

namespace Sys2Proof.Machine

theorem keeps_sendMark {s0 s : State} (hk : Keeps s0 s) (d : Nat) : Keeps s0 (sendMark s d) := by
  unfold sendMark
  with_reducible repeat' (first | assumption | apply keeps_sendCtrl)

theorem keeps_publishMark {s0 s : State} (hk : Keeps s0 s) : Keeps s0 (publishMark s) := by
  unfold publishMark
  with_reducible repeat' (first
    | assumption | apply Keeps.foldl | apply keeps_sendMark | simp -zeta only [Keeps.upd] | intro _ _ _)

theorem keeps_takeBlock {s0 s : State} (hk : Keeps s0 s) : Keeps s0 (takeBlock s) := by
  unfold takeBlock
  with_reducible repeat' (first
    | assumption
    | (extract_lets +onlyGivenNames x; (first | (refine Keeps.cut (x := x) ?_ ?_; all_goals (first | (intro hx; clear_value x) | subst x)) | clear_value x | skip))
    | apply keeps_seeTicket | apply keeps_publishMark | simp -zeta only [Keeps.upd] | split)

theorem keeps_grantLocal {s0 s : State} (hk : Keeps s0 s) (c q t : Nat) : Keeps s0 (grantLocal s c q t) := by
  unfold grantLocal
  with_reducible repeat' (first | assumption | apply Keeps.modDesc | apply keeps_seeTicket)

theorem keeps_sendGrant {s0 s : State} (hk : Keeps s0 s) (p src job q t : Nat) :
    Keeps s0 (sendGrant s p src job q t) := by
  unfold sendGrant
  with_reducible repeat' (first | assumption | apply keeps_sendCtrl)

theorem keeps_serveLease {s0 s : State} (hk : Keeps s0 s) (p src job q : Nat) :
    Keeps s0 (serveLease s p src job q) := by
  unfold serveLease
  with_reducible repeat' (first
    | assumption
    | (extract_lets +onlyGivenNames x; (first | (refine Keeps.cut (x := x) ?_ ?_; all_goals (first | (intro hx; clear_value x) | subst x)) | clear_value x | skip))
    | apply keeps_takeBlock | apply keeps_grantLocal | apply keeps_sendGrant | simp -zeta only [Keeps.upd] | split)

theorem keeps_serveWaiting {s0 s : State} (hk : Keeps s0 s) : Keeps s0 (serveWaiting s) := by
  unfold serveWaiting
  with_reducible repeat' (first
    | assumption | apply Keeps.foldl | apply keeps_serveLease | simp -zeta only [Keeps.upd] | intro _ _ _)

theorem keeps_askLease {s0 s : State} (hk : Keeps s0 s) (c q : Nat) : Keeps s0 (askLease s c q) := by
  unfold askLease
  with_reducible repeat' (first | assumption | apply keeps_sendCtrl)

theorem keeps_startLease {s0 s : State} (hk : Keeps s0 s) (c q : Nat) : Keeps s0 (startLease s c q) := by
  unfold startLease
  with_reducible repeat' (first
    | assumption
    | (extract_lets +onlyGivenNames x; (first | (refine Keeps.cut (x := x) ?_ ?_; all_goals (first | (intro hx; clear_value x) | subst x)) | clear_value x | skip))
    | apply Keeps.modDesc | apply keeps_serveLease | apply keeps_askLease | split)

theorem keeps_abortLeases {s0 s : State} (hk : Keeps s0 s) : Keeps s0 (abortLeases s) := by
  unfold abortLeases
  with_reducible repeat' (first
    | assumption | apply Keeps.foldl | apply keeps_endDesc | simp -zeta only [Keeps.upd] | intro _ _ _)

theorem keeps_becomeKeystone {s0 s : State} (hk : Keeps s0 s) (t : Nat) (dep : List Nat) :
    Keeps s0 (becomeKeystone s t dep) := by
  unfold becomeKeystone
  with_reducible repeat' (first | assumption | simp -zeta only [Keeps.upd])

theorem keeps_sendJoin {s0 s : State} (hk : Keeps s0 s) : Keeps s0 (sendJoin s) := by
  unfold sendJoin
  with_reducible repeat' (first | assumption | apply keeps_sendCtrl)

theorem keeps_joinDomain {s0 s : State} (hk : Keeps s0 s) : Keeps s0 (joinDomain s) := by
  unfold joinDomain
  with_reducible repeat' (first
    | assumption
    | (extract_lets +onlyGivenNames x; (first | (refine Keeps.cut (x := x) ?_ ?_; all_goals (first | (intro hx; clear_value x) | subst x)) | clear_value x | skip))
    | apply keeps_becomeKeystone | apply keeps_sendJoin | simp -zeta only [Keeps.upd] | split)

theorem keeps_leaveDomain {s0 s : State} (hk : Keeps s0 s) : Keeps s0 (leaveDomain s) := by
  unfold leaveDomain
  with_reducible repeat' (first
    | assumption
    | (extract_lets +onlyGivenNames x; (first | (refine Keeps.cut (x := x) ?_ ?_; all_goals (first | (intro hx; clear_value x) | subst x)) | clear_value x | skip))
    | apply Keeps.foldl | apply keeps_endCtx | simp -zeta only [Keeps.upd] | intro _ _ _)

theorem keeps_execJoinRetry {s0 s : State} (hk : Keeps s0 s) : KeepsO s0 (execJoinRetry s) := by
  unfold execJoinRetry
  with_reducible repeat' (first | assumption | apply Keeps.next | apply keeps_sendJoin | split)

theorem keeps_execJoin {s0 s : State} (hk : Keeps s0 s) (pe : Nat) (f : RxFrame) : KeepsO s0 (execJoin pe f s) := by
  unfold execJoin
  with_reducible repeat' (first
    | assumption
    | (extract_lets +onlyGivenNames x; (first | (refine Keeps.cutO (x := x) ?_ ?_; all_goals (first | (intro hx; clear_value x) | subst x)) | (refine Keeps.cut (x := x) ?_ ?_; all_goals (first | (intro hx; clear_value x) | subst x)) | clear_value x | skip))
    | apply Keeps.next | apply keeps_sendCtrl | apply keeps_receive | apply keeps_sendMark | split | intro _ _ _)

theorem keeps_execJoined {s0 s : State} (hk : Keeps s0 s) (pe : Nat) (f : RxFrame) :
    KeepsO s0 (execJoined pe f s) := by
  unfold execJoined
  with_reducible repeat' (first
    | assumption
    | (extract_lets +onlyGivenNames x; (first | (refine Keeps.cutO (x := x) ?_ ?_; all_goals (first | (intro hx; clear_value x) | subst x)) | (refine Keeps.cut (x := x) ?_ ?_; all_goals (first | (intro hx; clear_value x) | subst x)) | clear_value x | skip))
    | apply Keeps.next | apply keeps_seeTicket | apply keeps_receive | simp -zeta only [Keeps.upd] | split
    | intro _ _ _)

theorem keeps_execLeaseReq {s0 s : State} (hk : Keeps s0 s) (pe : Nat) (f : RxFrame) :
    KeepsO s0 (execLeaseReq pe f s) := by
  unfold execLeaseReq
  with_reducible repeat' (first
    | assumption | apply Keeps.next | apply keeps_receive | apply keeps_serveLease | split | intro _ _ _)

theorem keeps_execLeaseGrant {s0 s : State} (hk : Keeps s0 s) (pe : Nat) (f : RxFrame) :
    KeepsO s0 (execLeaseGrant pe f s) := by
  unfold execLeaseGrant
  with_reducible repeat' (first
    | assumption | apply Keeps.next | apply keeps_seeTicket | apply keeps_receive | apply keeps_grantLocal | split
    | intro _ _ _)

theorem keeps_execMark {s0 s : State} (hk : Keeps s0 s) (pe : Nat) (f : RxFrame) : KeepsO s0 (execMark pe f s) := by
  unfold execMark
  with_reducible repeat' (first
    | assumption
    | (extract_lets +onlyGivenNames x; (first | (refine Keeps.cutO (x := x) ?_ ?_; all_goals (first | (intro hx; clear_value x) | subst x)) | (refine Keeps.cut (x := x) ?_ ?_; all_goals (first | (intro hx; clear_value x) | subst x)) | clear_value x | skip))
    | apply Keeps.next | apply keeps_sendCtrl | apply keeps_seeTicket | apply keeps_receive | split | intro _ _ _)

theorem keeps_execMarkAck {s0 s : State} (hk : Keeps s0 s) (pe : Nat) (f : RxFrame) :
    KeepsO s0 (execMarkAck pe f s) := by
  unfold execMarkAck
  with_reducible repeat' (first
    | assumption
    | (extract_lets +onlyGivenNames x; (first | (refine Keeps.cutO (x := x) ?_ ?_; all_goals (first | (intro hx; clear_value x) | subst x)) | (refine Keeps.cut (x := x) ?_ ?_; all_goals (first | (intro hx; clear_value x) | subst x)) | clear_value x | skip))
    | apply Keeps.next | apply keeps_seeTicket | apply keeps_receive | apply keeps_publishMark
    | apply keeps_serveWaiting | simp -zeta only [Keeps.upd] | split | intro _ _ _)

theorem keeps_execLeaseRetry {s0 s : State} (hk : Keeps s0 s) (c seq : Nat) : KeepsO s0 (execLeaseRetry c seq s) := by
  unfold execLeaseRetry
  with_reducible repeat' (first | assumption | apply Keeps.next | apply keeps_askLease | split)

theorem keeps_execLeaseTimeout {s0 s : State} (hk : Keeps s0 s) (c seq : Nat) :
    KeepsO s0 (execLeaseTimeout c seq s) := by
  unfold execLeaseTimeout
  with_reducible repeat' (first | assumption | apply Keeps.next | apply keeps_endDesc | simp -zeta only [Keeps.upd] | split)

theorem keeps_elect {s0 s : State} (hk : Keeps s0 s) : Keeps s0 (elect s) := by
  unfold elect
  with_reducible repeat' (first
    | assumption | apply Keeps.foldl | apply keeps_sendCtrl | apply keeps_publishMark | apply keeps_abortLeases
    | apply keeps_becomeKeystone | intro _ _ _)

theorem keeps_succession {s0 s : State} (hk : Keeps s0 s) : Keeps s0 (succession s) := by
  unfold succession
  with_reducible repeat' (first
    | assumption
    | (extract_lets +onlyGivenNames x; (first | (refine Keeps.cut (x := x) ?_ ?_; all_goals (first | (intro hx; clear_value x) | subst x)) | clear_value x | skip))
    | apply keeps_abortLeases | apply keeps_elect | simp -zeta only [Keeps.upd] | split)

theorem keeps_execElected {s0 s : State} (hk : Keeps s0 s) (pe : Nat) (f : RxFrame) :
    KeepsO s0 (execElected pe f s) := by
  unfold execElected
  with_reducible repeat' (first
    | assumption
    | (extract_lets +onlyGivenNames x; (first | (refine Keeps.cutO (x := x) ?_ ?_; all_goals (first | (intro hx; clear_value x) | subst x)) | (refine Keeps.cut (x := x) ?_ ?_; all_goals (first | (intro hx; clear_value x) | subst x)) | clear_value x | skip))
    | apply Keeps.next | apply keeps_seeTicket | apply keeps_receive | apply keeps_abortLeases
    | simp -zeta only [Keeps.upd] | split | intro _ _ _)

end Sys2Proof.Machine
end

