-- ==== Sys2Proof/Laws/KeepsAdmission.lean ====
section
/-! SUPPORT. `Keeps` of admission (Machine/Admission.lean). -/

namespace Sys2Proof.Machine

theorem keeps_fetchDesc {s0 s : State} (hk : Keeps s0 s) (c : Nat) : Keeps s0 (fetchDesc s c) := by
  unfold fetchDesc
  with_reducible repeat' (first | assumption | apply Keeps.setCtx | apply keeps_readMem)

theorem keeps_execDescriptorFetch {s0 s : State} (hk : Keeps s0 s) (c : Nat) :
    KeepsO s0 (execDescriptorFetch c s) := by
  unfold execDescriptorFetch
  with_reducible repeat' (first | assumption | apply Keeps.next | apply keeps_fetchDesc | split)

theorem keeps_fetchWords {s0 s t : State} {l : List Nat} {e a n : Nat} (hk : Keeps s0 s)
    (h : fetchWords s e a n = (t, l)) : Keeps s0 t := by
  cases h
  exact keeps_readMem hk _ _ _

theorem keeps_loadRecipe {s0 s t : State} {l : List Nat} {c : Nat} {d : Desc} (h : Keeps s0 s)
    (e : loadRecipe s c d = some (t, l)) : Keeps s0 t := by
  unfold loadRecipe at e
  extract_lets ce a at e
  split at e
  next s1 first hf =>
  have h1 : Keeps s0 s1 := keeps_fetchWords h hf
  dsimp only at e
  split at e
  · cases e; exact h1.modEng _ _
  · split at e
    · injection e with e1
      injection e1 with e2 _
      exact e2 ▸ (keeps_readMem h1 _ _ _).modEng _ _
    · cases e

theorem keeps_loadParam {s0 s t : State} {l : List Nat} {c : Nat} {d : Desc} (h : Keeps s0 s)
    (e : loadParam s c d = some (t, l)) : Keeps s0 t := by
  unfold loadParam at e
  split at e
  · cases e; exact h
  · split at e
    · exact keeps_loadRecipe h e
    · injection e with e
      exact keeps_fetchWords h e

theorem keeps_runSignature {s0 s : State} (hk : Keeps s0 s) (c q : Nat) : Keeps s0 (runSignature s c q) := by
  unfold runSignature
  with_reducible repeat' (first
    | assumption
    | (extract_lets +onlyGivenNames x; (first | (refine Keeps.cut (x := x) ?_ ?_; all_goals (first | (intro hx; clear_value x) | subst x)) | clear_value x | skip))
    | apply Keeps.modDesc | apply Keeps.setMem_wrBytes | refine keeps_gate ?_ (by assumption)
    | apply keeps_postWrites | apply keeps_postReads | split)

theorem keeps_finishDesc {s0 s : State} (hk : Keeps s0 s) (c q : Nat) : Keeps s0 (finishDesc s c q) := by
  unfold finishDesc
  with_reducible repeat' (first | assumption | apply Keeps.modDesc)

theorem keeps_joinInstance {s0 s : State} (hk : Keeps s0 s) (p : Nat) (d : Desc) (g : Group) :
    Keeps s0 (joinInstance s p d g) := by
  unfold joinInstance
  with_reducible repeat' (first | assumption | apply Keeps.modLink | split)

theorem keeps_admitColl {s0 s : State} (hk : Keeps s0 s) (p c : Nat) (d : Desc) (g : Group) :
    Keeps s0 (admitColl s p c d g) := by
  unfold admitColl
  with_reducible repeat' (first
    | assumption
    | (extract_lets +onlyGivenNames x; (first | (refine Keeps.cut (x := x) ?_ ?_; all_goals (first | (intro hx; clear_value x) | subst x)) | clear_value x | skip))
    | apply Keeps.modDesc | apply keeps_endDesc | apply keeps_abortBucket | apply keeps_joinInstance | split)

theorem keeps_stopTarget {s0 s : State} (hk : Keeps s0 s) (t : Nat) : Keeps s0 (stopTarget s t) := by
  unfold stopTarget
  with_reducible repeat' (first | assumption | apply Keeps.modCtx | apply keeps_endCtx)

theorem keeps_writeStats {s0 s : State} (hk : Keeps s0 s) (d : Desc) (part : Bool) :
    Keeps s0 (writeStats s d part) := by
  unfold writeStats
  with_reducible repeat' (first | assumption | apply Keeps.setMem_wrBytes)

theorem keeps_emptyStats {s0 s : State} (hk : Keeps s0 s) (c : Nat) (d : Desc) : Keeps s0 (emptyStats s c d) := by
  unfold emptyStats
  with_reducible repeat' (first | assumption | apply keeps_postWrites | apply keeps_writeStats | split)

theorem keeps_beginDesc {s0 s : State} (hk : Keeps s0 s) (c : Nat) (d : Desc) (g : Group) :
    Keeps s0 (beginDesc s c d g) := by
  unfold beginDesc
  with_reducible repeat' (first
    | assumption
    | (extract_lets +onlyGivenNames x; (first | (refine Keeps.cut (x := x) ?_ ?_; all_goals (first | (intro hx; clear_value x) | subst x)) | clear_value x | skip))
    | apply Keeps.modCtx | apply Keeps.modDesc | apply keeps_startDesc | apply keeps_startLease
    | apply keeps_wantWatch | apply keeps_runRestore | apply keeps_runSignature | apply keeps_finishDesc
    | apply keeps_admitColl | apply keeps_stopTarget | apply keeps_emptyStats | simp -zeta only [Keeps.upd] | split)

theorem keeps_admitDesc {s0 s : State} (hk : Keeps s0 s) (c : Nat) (d : Desc) : Keeps s0 (admitDesc s c d) := by
  unfold admitDesc
  with_reducible repeat' (first
    | assumption
    | (extract_lets +onlyGivenNames x; (first | (refine Keeps.cut (x := x) ?_ ?_; all_goals (first | (intro hx; clear_value x) | subst x)) | clear_value x | skip))
    | apply Keeps.modCtx | apply Keeps.modDesc | apply keeps_abortGroup | apply keeps_beginDesc | split)

theorem keeps_admitRow {s0 s : State} (hk : Keeps s0 s) (c op : Nat) : Keeps s0 (admitRow s c op) := by
  unfold admitRow
  split
  · exact hk
  · split
    · split
      · exact hk
      · next hl =>
        extract_lets d earlier
        have h1 := keeps_loadParam hk hl
        split
        · exact hk
        · exact keeps_admitDesc h1 _ _
    · exact hk

theorem keeps_execConvert {s0 s : State} (hk : Keeps s0 s) (c : Nat) : KeepsO s0 (execConvert c s) := by
  unfold execConvert
  with_reducible repeat' (first | assumption | apply Keeps.next | apply keeps_admitRow)

theorem keeps_execQuantise {s0 s : State} (hk : Keeps s0 s) (c : Nat) : KeepsO s0 (execQuantise c s) := by
  unfold execQuantise
  with_reducible repeat' (first | assumption | apply Keeps.next | apply keeps_admitRow)

theorem keeps_execDequantise {s0 s : State} (hk : Keeps s0 s) (c : Nat) : KeepsO s0 (execDequantise c s) := by
  unfold execDequantise
  with_reducible repeat' (first | assumption | apply Keeps.next | apply keeps_admitRow)

theorem keeps_execRotate {s0 s : State} (hk : Keeps s0 s) (c : Nat) : KeepsO s0 (execRotate c s) := by
  unfold execRotate
  with_reducible repeat' (first | assumption | apply Keeps.next | apply keeps_admitRow)

theorem keeps_execFold {s0 s : State} (hk : Keeps s0 s) (c : Nat) : KeepsO s0 (execFold c s) := by
  unfold execFold
  with_reducible repeat' (first | assumption | apply Keeps.next | apply keeps_admitRow)

theorem keeps_execReduce {s0 s : State} (hk : Keeps s0 s) (c : Nat) : KeepsO s0 (execReduce c s) := by
  unfold execReduce
  with_reducible repeat' (first | assumption | apply Keeps.next | apply keeps_admitRow)

theorem keeps_execStats {s0 s : State} (hk : Keeps s0 s) (c : Nat) : KeepsO s0 (execStats c s) := by
  unfold execStats
  with_reducible repeat' (first | assumption | apply Keeps.next | apply keeps_admitRow)

theorem keeps_execSample {s0 s : State} (hk : Keeps s0 s) (c : Nat) : KeepsO s0 (execSample c s) := by
  unfold execSample
  with_reducible repeat' (first | assumption | apply Keeps.next | apply keeps_admitRow)

theorem keeps_execFillRandom {s0 s : State} (hk : Keeps s0 s) (c : Nat) : KeepsO s0 (execFillRandom c s) := by
  unfold execFillRandom
  with_reducible repeat' (first | assumption | apply Keeps.next | apply keeps_admitRow)

theorem keeps_execRecipe {s0 s : State} (hk : Keeps s0 s) (c : Nat) : KeepsO s0 (execRecipe c s) := by
  unfold execRecipe
  with_reducible repeat' (first | assumption | apply Keeps.next | apply keeps_admitRow)

theorem keeps_execCollective {s0 s : State} (hk : Keeps s0 s) (c : Nat) : KeepsO s0 (execCollective c s) := by
  unfold execCollective
  with_reducible repeat' (first | assumption | apply Keeps.next | apply keeps_admitRow)

theorem keeps_execRebond {s0 s : State} (hk : Keeps s0 s) (c : Nat) : KeepsO s0 (execRebond c s) := by
  unfold execRebond
  with_reducible repeat' (first | assumption | apply Keeps.next | apply keeps_admitRow)

theorem keeps_execTicketLease {s0 s : State} (hk : Keeps s0 s) (c : Nat) : KeepsO s0 (execTicketLease c s) := by
  unfold execTicketLease
  with_reducible repeat' (first | assumption | apply Keeps.next | apply keeps_admitRow)

theorem keeps_execSignature {s0 s : State} (hk : Keeps s0 s) (c : Nat) : KeepsO s0 (execSignature c s) := by
  unfold execSignature
  with_reducible repeat' (first | assumption | apply Keeps.next | apply keeps_admitRow)

theorem keeps_execFence {s0 s : State} (hk : Keeps s0 s) (c : Nat) : KeepsO s0 (execFence c s) := by
  unfold execFence
  with_reducible repeat' (first | assumption | apply Keeps.next | apply keeps_admitRow)

theorem keeps_execRibbon {s0 s : State} (hk : Keeps s0 s) (c : Nat) : KeepsO s0 (execRibbon c s) := by
  unfold execRibbon
  with_reducible repeat' (first | assumption | apply Keeps.next | apply keeps_admitRow)

theorem keeps_execSaveContext {s0 s : State} (hk : Keeps s0 s) (c : Nat) : KeepsO s0 (execSaveContext c s) := by
  unfold execSaveContext
  with_reducible repeat' (first | assumption | apply Keeps.next | apply keeps_admitRow)

theorem keeps_execRestoreContext {s0 s : State} (hk : Keeps s0 s) (c : Nat) : KeepsO s0 (execRestoreContext c s) := by
  unfold execRestoreContext
  with_reducible repeat' (first | assumption | apply Keeps.next | apply keeps_admitRow)

theorem keeps_execDrain {s0 s : State} (hk : Keeps s0 s) (c : Nat) : KeepsO s0 (execDrain c s) := by
  unfold execDrain
  with_reducible repeat' (first | assumption | apply Keeps.next | apply keeps_admitRow)

theorem keeps_execNop {s0 s : State} (hk : Keeps s0 s) (c : Nat) : KeepsO s0 (execNop c s) := by
  unfold execNop
  with_reducible repeat' (first | assumption | apply Keeps.next | apply keeps_admitRow)

end Sys2Proof.Machine
end

