-- ==== Sys2Proof/Laws/KeepsInline.lean ====
section
/-! SUPPORT. `Keeps` of inline accesses (Machine/Inline.lean). -/

namespace Sys2Proof.Machine

theorem keeps_inlineEvents {s0 s : State} (hk : Keeps s0 s) (e i : Nat) (evs : List Ev) :
    Keeps s0 (inlineEvents s e i evs) := by
  unfold inlineEvents
  with_reducible repeat' (first | assumption | apply Keeps.modInl | apply keeps_countNumeric)

theorem keeps_inlineReads {s0 s : State} (hk : Keeps s0 s) (e : Nat) (l : List (Nat × Nat)) :
    Keeps s0 (inlineReads s e l) := by
  unfold inlineReads
  with_reducible repeat' (first | assumption | apply Keeps.foldl | apply keeps_readMem | intro _ _ _)

theorem keeps_inlineWrites {s0 s : State} (hk : Keeps s0 s) (e : Nat) (l : List (Nat × Nat)) :
    Keeps s0 (inlineWrites s e l) := by
  unfold inlineWrites
  with_reducible repeat' (first | assumption | apply keeps_sendReqs)

theorem keeps_mergeEntry {s0 s : State} (h : Keeps s0 s) (e : Nat) (w : WcEntry) : Keeps s0 (mergeEntry s e w) := by
  unfold mergeEntry
  extract_lets  x c base t f lo old was bytes code v rs scale
  split
  next m evs hm =>
  extract_lets m1 m2 s2 s3 s4
  have hw : Memory.wf s.mem = true → Memory.wf m2 = true := by
    intro hs
    have h0 : Memory.wf m = true := by
      split at hm
      · cases hm
        exact wf_foldl id _ _ _ hs (fun _ _ h => Mem.wf_wrBits _ _ _ _ _ h)
      · cases hm
        exact wf_writeRun _ _ _ _ hs
    refine Mem.wf_wrBits _ _ _ _ _ ?_
    subst m1
    split
    · exact h0
    · exact Mem.wf_wr _ _ _ _ h0
  have h2 : Keeps s0 s2 := keeps_inlineWrites ((keeps_inlineReads h _ _).setMemOf h _ hw) _ _
  have h3 : Keeps s0 s3 := by
    subst s3
    split
    · exact h2
    · exact keeps_countIn h2 _ _ _ _
  exact keeps_inlineEvents ((keeps_countOut h3 _ _ _ _).modEng _ _) _ _ _

theorem keeps_dropEntry {s0 s : State} (hk : Keeps s0 s) (e i b : Nat) : Keeps s0 (dropEntry s e i b) := by
  unfold dropEntry
  with_reducible repeat' (first | assumption | apply Keeps.modEng)

theorem keeps_inlineStackErr {s0 s : State} (hk : Keeps s0 s) (e i b : Nat) (parity : Bool) :
    Keeps s0 (inlineStackErr s e i b parity) := by
  unfold inlineStackErr
  with_reducible repeat' (first | assumption | apply keeps_flushEnd | apply keeps_external | apply keeps_dropEntry)

theorem keeps_inlineFails {s0 s : State} (hk : Keeps s0 s) (e i b : Nat) (k : Detection) :
    Keeps s0 (inlineFails s e i b k) := by
  unfold inlineFails
  with_reducible repeat' (first
    | assumption
    | (extract_lets +onlyGivenNames x; (first | (refine Keeps.cut (x := x) ?_ ?_; all_goals (first | (intro hx; clear_value x) | subst x)) | clear_value x | skip))
    | apply Keeps.modInl | apply keeps_flushEnd | apply keeps_detect | apply keeps_dropEntry | split)

theorem keeps_mergeBlock {s0 s : State} (hk : Keeps s0 s) (e i b : Nat) (part : PartStatus) :
    Keeps s0 (mergeBlock s e i b part) := by
  unfold mergeBlock
  with_reducible repeat' (first
    | assumption
    | (extract_lets +onlyGivenNames x; (first | (refine Keeps.cut (x := x) ?_ ?_; all_goals (first | (intro hx; clear_value x) | subst x)) | clear_value x | skip))
    | apply keeps_flushEnd | apply keeps_mergeEntry | apply keeps_dropEntry | apply keeps_inlineStackErr
    | apply keeps_inlineFails | split)

theorem keeps_execMerge {s0 s : State} (hk : Keeps s0 s) (se i block : Nat) (part : PartStatus) :
    KeepsO s0 (execMerge se i block part s) := by
  unfold execMerge
  with_reducible repeat' (first | assumption | apply Keeps.next | apply keeps_mergeBlock | split)

theorem keeps_countServed {s0 s : State} (hk : Keeps s0 s) (e : Nat) : Keeps s0 (countServed s e) := by
  unfold countServed
  with_reducible repeat' (first | assumption | apply Keeps.modEng)

theorem keeps_takeLost {s0 s : State} (hk : Keeps s0 s) (i b : Nat) : Keeps s0 (takeLost s i b) := by
  unfold takeLost
  with_reducible repeat' (first | assumption | apply Keeps.modInl)

theorem keeps_holdPart {s0 s : State} (hk : Keeps s0 s) (e parts : Nat) (p : HeldInline) :
    Keeps s0 (holdPart s e parts p) := by
  unfold holdPart
  with_reducible repeat' (first | assumption | apply Keeps.modEng | simp -zeta only [Keeps.upd] | split)

-- MISSING partRefused

theorem keeps_servePartRead {s0 s : State} (hk : Keeps s0 s) (e i : Nat) (p : Part) (h : HeldInline) :
    Keeps s0 (servePartRead s e i p h) := by
  unfold servePartRead
  with_reducible repeat' (first
    | assumption | apply keeps_countIn | apply keeps_respond | apply keeps_inlineEvents | apply keeps_inlineReads
    | apply keeps_mergeBlock | apply keeps_countServed)

theorem keeps_servePartWrite {s0 s : State} (hk : Keeps s0 s) (e i : Nat) (p : Part) (h : HeldInline) :
    Keeps s0 (servePartWrite s e i p h) := by
  unfold servePartWrite
  with_reducible repeat' (first
    | assumption
    | (extract_lets +onlyGivenNames x; (first | (refine Keeps.cut (x := x) ?_ ?_; all_goals (first | (intro hx; clear_value x) | subst x)) | clear_value x | skip))
    | apply Keeps.modEng | apply keeps_respond | apply keeps_mergeBlock | apply keeps_countServed | split)

theorem keeps_partRefused {s0 s t : State} {e i k : Nat} {p : Part} {x : HeldInline} (hk : Keeps s0 s)
    (h : partRefused s e i p x = some (t, k)) : Keeps s0 t := by
  unfold partRefused at h
  repeat' (first | contradiction | split at h)
  all_goals cases h
  · exact hk
  · exact keeps_takeLost hk _ _
  · exact keeps_inlineStackErr hk _ _ _ _
  · exact keeps_inlineStackErr hk _ _ _ _

theorem keeps_serveNow {s0 s : State} (hk : Keeps s0 s) (e i : Nat) (p : Part) (h : HeldInline) :
    Keeps s0 (serveNow s e i p h) := by
  unfold serveNow
  split
  · next r hr => exact keeps_respond (keeps_partRefused (k := r.2) hk hr) _ _ _
  · split
    · exact keeps_servePartWrite hk _ _ _ _
    · exact keeps_servePartRead hk _ _ _ _

theorem keeps_serveFails {s0 s : State} (hk : Keeps s0 s) (e i parts : Nat) (p : Part) (h : HeldInline) (k : Detection) :
    Keeps s0 (serveFails s e i parts p h k) := by
  unfold serveFails
  with_reducible repeat' (first
    | assumption
    | (extract_lets +onlyGivenNames x; (first | (refine Keeps.cut (x := x) ?_ ?_; all_goals (first | (intro hx; clear_value x) | subst x)) | clear_value x | skip))
    | apply keeps_respond | apply keeps_inlineFails | apply keeps_holdPart | apply keeps_serveNow | split)

theorem keeps_servePart {s0 s : State} (hk : Keeps s0 s) (parts : Nat) (p : Part) (h : HeldInline) :
    Keeps s0 (servePart s parts p h) := by
  unfold servePart
  with_reducible repeat' (first
    | assumption
    | (extract_lets +onlyGivenNames x; (first | (refine Keeps.cut (x := x) ?_ ?_; all_goals (first | (intro hx; clear_value x) | subst x)) | clear_value x | skip))
    | apply keeps_respond | apply keeps_holdPart | apply keeps_serveNow | apply keeps_serveFails | split)

theorem keeps_inlineAccess {s0 s : State} (hk : Keeps s0 s) (isWrite parityOk : Bool) (st : List PartStatus) (tag addr pd len : Nat) (data : List (Option Byte)) :
    Keeps s0 (inlineAccess s isWrite parityOk st tag addr pd len data) := by
  unfold inlineAccess
  with_reducible repeat' (first
    | assumption
    | (extract_lets +onlyGivenNames x; (first | (refine Keeps.cut (x := x) ?_ ?_; all_goals (first | (intro hx; clear_value x) | subst x)) | clear_value x | skip))
    | apply Keeps.out | apply Keeps.foldl | apply keeps_external | apply keeps_servePart | split | intro _ _ _)

theorem keeps_execInlineRead {s0 s : State} (hk : Keeps s0 s) (parityOk : Bool) (parts : List PartStatus) (addr : Nat) (who : Asker) (len : Nat) :
    KeepsO s0 (execInlineRead parityOk parts addr who len s) := by
  unfold execInlineRead
  with_reducible repeat' (first | assumption | apply Keeps.next | apply keeps_inlineAccess)

theorem keeps_execInlineWrite {s0 s : State} (hk : Keeps s0 s) (parityOk : Bool) (parts : List PartStatus) (addr : Nat) (who : Asker) (data : List (Option Byte)) :
    KeepsO s0 (execInlineWrite parityOk parts addr who data s) := by
  unfold execInlineWrite
  with_reducible repeat' (first | assumption | apply Keeps.next | apply keeps_inlineAccess)

theorem keeps_serveHeld {s0 s : State} (hk : Keeps s0 s) (e : Nat) (h : HeldInline) : Keeps s0 (serveHeld s e h) := by
  unfold serveHeld
  with_reducible repeat' (first
    | assumption
    | (extract_lets +onlyGivenNames x; (first | (refine Keeps.cut (x := x) ?_ ?_; all_goals (first | (intro hx; clear_value x) | subst x)) | clear_value x | skip))
    | apply keeps_respond | apply keeps_inlineFails | apply keeps_serveNow | split)

theorem keeps_releaseInline {s0 s : State} (hk : Keeps s0 s) (e : Nat) : Keeps s0 (releaseInline s e) := by
  unfold releaseInline
  with_reducible repeat' (first | assumption | apply Keeps.modEng | apply Keeps.foldl | apply keeps_serveHeld | intro _ _ _)

theorem keeps_execInlineActivate {s0 s : State} (h : Keeps s0 s) (i : Nat) : KeepsO s0 (execInlineActivate i s) := by
  refine Keeps.next ?_
  extract_lets b m
  split
  · refine (h.setMem m (fun hm => ?_)).setInl _ _
    exact wf_foldl id _ _ _ hm (fun _ _ h => Mem.wf_wrBits _ _ _ _ _ h)
  · exact h

end Sys2Proof.Machine
end

