-- ==== Sys2Proof/Laws/KeepsLiveness.lean ====
section
/-! SUPPORT. `Keeps` of liveness of the link (Machine/Liveness.lean). -/

namespace Sys2Proof.Machine

theorem keeps_execHeartbeat {s0 s : State} (hk : Keeps s0 s) (pe : Nat) (f : RxFrame) :
    KeepsO s0 (execHeartbeat pe f s) := by
  unfold execHeartbeat
  with_reducible repeat' (first
    | assumption | apply Keeps.next | apply keeps_sendCtrl | apply keeps_receive | split | intro _ _ _)

theorem keeps_execHeartbeatTimer {s0 s : State} (hk : Keeps s0 s) (pe dev : Nat) :
    KeepsO s0 (execHeartbeatTimer pe dev s) := by
  unfold execHeartbeatTimer
  with_reducible repeat' (first | assumption | apply Keeps.next | apply keeps_sendCtrl | split)

theorem keeps_loseInstances {s0 s : State} (hk : Keeps s0 s) (p dev : Nat) : Keeps s0 (loseInstances s p dev) := by
  unfold loseInstances
  with_reducible repeat' (first | assumption | apply Keeps.foldl | apply keeps_endDesc | intro _ _ _)

theorem keeps_declare {s0 s : State} (hk : Keeps s0 s) (p dev : Nat) : Keeps s0 (declare s p dev) := by
  unfold declare
  with_reducible repeat' (first
    | assumption | apply Keeps.modLink | apply keeps_workLink | apply keeps_succession | apply keeps_loseInstances
    | split)

theorem keeps_execDeclareLost {s0 s : State} (hk : Keeps s0 s) (pe dev : Nat) :
    KeepsO s0 (execDeclareLost pe dev s) := by
  unfold execDeclareLost
  with_reducible repeat' (first | assumption | apply Keeps.next | apply keeps_declare | split)

theorem keeps_execLostProbe {s0 s : State} (hk : Keeps s0 s) (pe dev : Nat) : KeepsO s0 (execLostProbe pe dev s) := by
  unfold execLostProbe
  with_reducible repeat' (first | assumption | apply Keeps.next | apply keeps_sendCtrl | split)

theorem keeps_execLinkDown {s0 s : State} (hk : Keeps s0 s) (pe : Nat) : KeepsO s0 (execLinkDown pe s) := by
  unfold execLinkDown
  with_reducible repeat' (first | assumption | apply Keeps.next | apply Keeps.modEng)

theorem keeps_execLinkUp {s0 s : State} (hk : Keeps s0 s) (pe : Nat) : KeepsO s0 (execLinkUp pe s) := by
  unfold execLinkUp
  with_reducible repeat' (first | assumption | apply Keeps.next | apply Keeps.modEng | apply keeps_pump)

theorem keeps_execPauseIn {s0 s : State} (hk : Keeps s0 s) (pe prio : Nat) (on : Bool) :
    KeepsO s0 (execPauseIn pe prio on s) := by
  unfold execPauseIn
  with_reducible repeat' (first | assumption | apply Keeps.next | apply Keeps.modLink | apply keeps_pump)

end Sys2Proof.Machine
end

