-- ==== Sys2Proof/Laws/KeepsStrips.lean ====
section
/-! SUPPORT. `Keeps` of the issue of strips (Machine/Strips.lean). -/

namespace Sys2Proof.Machine

theorem keeps_gateStrip_fst {s0 s : State} (hk : Keeps s0 s) (c : Nat) (d : Desc) : Keeps s0 (gateStrip s c d).1 := by
  unfold gateStrip
  with_reducible repeat' (first
    | assumption
    | (extract_lets +onlyGivenNames x; (first | (refine Keeps.cut (x := x) ?_ ?_; all_goals (first | (intro hx; clear_value x) | subst x)) | clear_value x | skip))
    | refine keeps_gate ?_ (by assumption) | split)

theorem keeps_gateStrip {s0 s s1 : State} {b1} {c : Nat} {d : Desc} (h : Keeps s0 s)
    (e : gateStrip s c d = (s1, b1)) : Keeps s0 s1 := by
  have := keeps_gateStrip_fst h c d
  rwa [e] at this

theorem keeps_releaseHeld {s0 s : State} (hk : Keeps s0 s) (c q : Nat) : Keeps s0 (releaseHeld s c q) := by
  unfold releaseHeld
  extract_lets d
  split
  · exact hk
  · exact (hk.setMem _ (wf_writeHeld s _ _ _)).modDesc _ _ _

theorem keeps_applyStrip {s0 s : State} (hk : Keeps s0 s) (c q : Nat) (sp : List Acc) (r : Strip)
    (hr : Memory.wf s.mem = true → Memory.wf r.mem = true) : Keeps s0 (applyStrip s c q sp r) := by
  unfold applyStrip
  with_reducible repeat' (first
    | assumption | (extract_lets +onlyGivenNames x; (first | (refine Keeps.cut (x := x) ?_ ?_; all_goals (first | (intro hx; clear_value x) | subst x)) | clear_value x | skip))
    | apply keeps_postWrites | apply keeps_writeStats | apply keeps_countIn | apply keeps_countOut
    | refine Keeps.setMem ?_ _ hr | apply Keeps.modDesc | apply Keeps.modCtx | apply Keeps.foldl | split | intro _ _ _)

theorem keeps_runStrip {s0 s : State} (hk : Keeps s0 s) (c : Nat) (d : Desc) (sp : List Acc) :
    Keeps s0 (runStrip s c d sp) :=
  keeps_applyStrip (keeps_issueWork hk _ _ _) _ _ _ _ (wf_stripWork _ _ _ _ _)

theorem keeps_runWhole {s0 s : State} (hk : Keeps s0 s) (c : Nat) (q : Nat) : Keeps s0 (runWhole s c q) := by
  unfold runWhole
  with_reducible repeat' (first
    | assumption
    | (extract_lets +onlyGivenNames x; (first | (refine Keeps.cut (x := x) ?_ ?_; all_goals (first | (intro hx; clear_value x) | subst x)) | clear_value x | skip))
    | apply keeps_runRestore | apply keeps_runSignature | apply keeps_finishDesc | apply keeps_emptyStats | split)

theorem keeps_tryIssue_fst {s0 s : State} (hk : Keeps s0 s) (c : Nat) (q : Nat) : Keeps s0 (tryIssue s c q).1 := by
  unfold tryIssue
  with_reducible repeat' (first
    | assumption
    | (extract_lets +onlyGivenNames x; (first | (refine Keeps.cut (x := x) ?_ ?_; all_goals (first | (intro hx; clear_value x) | subst x)) | clear_value x | skip))
    | apply keeps_startUnit | apply keeps_workLink | refine keeps_gateStrip ?_ (by assumption)
    | apply keeps_runStrip | apply keeps_runWhole | split)

theorem keeps_tryIssue {s0 s s1 : State} {b1} {c : Nat} {q : Nat} (h : Keeps s0 s)
    (e : tryIssue s c q = (s1, b1)) : Keeps s0 s1 := by
  have := keeps_tryIssue_fst h c q
  rwa [e] at this

theorem keeps_issueOne {s0 s : State} (h : Keeps s0 s) (c : Nat) : Keeps s0 (issueOne s c) :=
  Keeps.foldl_fst (p := (s, false)) h (fun a q ha => by
    split
    · exact ha
    · exact keeps_tryIssue_fst ha _ _)

theorem keeps_pickStrip_fst {s0 s : State} (h : Keeps s0 s) (c : Nat) : Keeps s0 (pickStrip s c).1 :=
  Keeps.foldl_fst (p := (s, none)) h (fun a q ha => by
    split
    · exact ha
    · extract_lets d
      split
      · split <;> exact ha
      · split
        · split
          split <;> exact keeps_gateStrip ha (by assumption)
        · exact ha)

theorem keeps_pickStrip {s0 s t : State} {b} {c : Nat} (h : Keeps s0 s) (e : pickStrip s c = (t, b)) : Keeps s0 t := by
  have := keeps_pickStrip_fst h c
  rwa [e] at this

theorem keeps_affected_fst {s0 s : State} (hk : Keeps s0 s) (c : Nat) (k : Detection) :
    Keeps s0 (affected s c k).1 := by
  unfold affected
  with_reducible repeat' (first | assumption | apply keeps_pickStrip_fst | split)

theorem keeps_affected {s0 s s1 : State} {b1} {c : Nat} {k : Detection} (h : Keeps s0 s)
    (e : affected s c k = (s1, b1)) : Keeps s0 s1 := by
  have := keeps_affected_fst h c k
  rwa [e] at this

theorem keeps_loseInside {s0 s : State} (hk : Keeps s0 s) (c : Nat) (d : Desc) : Keeps s0 (loseInside s c d) := by
  unfold loseInside
  with_reducible repeat' (first | assumption | apply keeps_endDesc | apply keeps_faultHeld)

theorem keeps_loseTile {s0 s : State} (hk : Keeps s0 s) (c slot : Nat) : Keeps s0 (loseTile s c slot) := by
  unfold loseTile
  with_reducible repeat' (first | assumption | apply Keeps.foldl | apply keeps_loseInside | intro _ _ _)

theorem keeps_linkError {s0 s : State} (hk : Keeps s0 s) (e : Nat) (k : Detection) : Keeps s0 (linkError s e k) := by
  unfold linkError
  with_reducible repeat' (first
    | assumption
    | (extract_lets +onlyGivenNames x; (first | (refine Keeps.cut (x := x) ?_ ?_; all_goals (first | (intro hx; clear_value x) | subst x)) | clear_value x | skip))
    | apply keeps_endDesc | apply keeps_faultHeld | apply keeps_detect | apply keeps_workLink | split)

theorem keeps_wcError {s0 s : State} (hk : Keeps s0 s) (e : Nat) (k : Detection) : Keeps s0 (wcError s e k) := by
  unfold wcError
  with_reducible repeat' (first | assumption | apply keeps_inlineFails)

theorem keeps_workError {s0 s : State} (hk : Keeps s0 s) (c : Nat) (k : Detection) : Keeps s0 (workError s c k) := by
  unfold workError
  with_reducible repeat' (first
    | assumption
    | (extract_lets +onlyGivenNames x; (first | (refine Keeps.cut (x := x) ?_ ?_; all_goals (first | (intro hx; clear_value x) | subst x)) | clear_value x | skip))
    | apply keeps_detect | refine keeps_affected ?_ (by assumption) | apply keeps_loseInside | apply keeps_loseTile
    | split)

theorem keeps_checkFails {s0 s : State} (hk : Keeps s0 s) (c : Nat) (k : Detection) :
    Keeps s0 (checkFails s c k) := by
  unfold checkFails
  with_reducible repeat' (first
    | assumption
    | (extract_lets +onlyGivenNames x; (first | (refine Keeps.cut (x := x) ?_ ?_; all_goals (first | (intro hx; clear_value x) | subst x)) | clear_value x | skip))
    | apply keeps_islandError | apply keeps_linkError | apply keeps_wcError | apply keeps_workError | split)

theorem keeps_issueNow {s0 s : State} (hk : Keeps s0 s) (c : Nat) : Keeps s0 (issueNow s c) := by
  unfold issueNow
  with_reducible repeat' (first
    | assumption
    | (extract_lets +onlyGivenNames x; (first | (refine Keeps.cut (x := x) ?_ ?_; all_goals (first | (intro hx; clear_value x) | subst x)) | clear_value x | skip))
    | apply Keeps.foldl | apply keeps_runWhole | apply keeps_issueOne | split | intro _ _ _)

theorem keeps_execStripIssue {s0 s : State} (hk : Keeps s0 s) (c : Nat) (det : Option Detection) :
    KeepsO s0 (execStripIssue c det s) := by
  unfold execStripIssue
  with_reducible repeat' (first | assumption | apply Keeps.next | apply keeps_checkFails | apply keeps_issueNow | split)

theorem keeps_exchangeDrain {s0 s : State} (hk : Keeps s0 s) (c seq : Nat) : Keeps s0 (exchangeDrain s c seq) := by
  unfold exchangeDrain
  with_reducible repeat' (first
    | assumption
    | (extract_lets +onlyGivenNames x; (first | (refine Keeps.cut (x := x) ?_ ?_; all_goals (first | (intro hx; clear_value x) | subst x)) | clear_value x | skip))
    | apply Keeps.modCtx | apply Keeps.modDesc | split)

theorem keeps_drainStep {s0 s : State} (hk : Keeps s0 s) (c : Nat) (w : DrainStep) (run : State → Nat → Nat → State)
    (hr : ∀ a c q, Keeps s0 a → Keeps s0 (run a c q)) : Keeps s0 (drainStep s c w run) := by
  unfold drainStep
  split
  · exact hr _ _ _ hk
  · extract_lets x
    have hx : Keeps s0 x := keeps_checkFails hk _ _
    split
    · exact hr _ _ _ hx
    · exact hx

theorem keeps_execDrainExchange {s0 s : State} (hk : Keeps s0 s) (c : Nat) (step : DrainStep) :
    KeepsO s0 (execDrainExchange c step s) :=
  Keeps.next (keeps_drainStep hk _ _ _ (fun _ _ _ h => keeps_exchangeDrain h _ _))

theorem keeps_runOutputStage {s0 s : State} (hk : Keeps s0 s) (c seq : Nat) : Keeps s0 (runOutputStage s c seq) := by
  unfold runOutputStage
  extract_lets d
  split
  · exact hk
  · next r _ =>
    split
    · exact hk
    · split
      next o sp ho =>
      split
      next s1 ok hg =>
      have h1 : Keeps s0 s1 := keeps_gate hk hg
      split
      · exact h1
      · extract_lets +onlyGivenNames s2 d2
        have h2 : Keeps s0 s2 := keeps_issueWork h1 _ _ _
        have hm := wf_outStage o (s2.ctx c).shadow s2.mem d2 (d2.primaryDrain r)
        split
        next m d1 hr =>
        rw [hr] at hm
        extract_lets +onlyGivenNames k wt s3 s4 s5
        have h4 : Keeps s0 s4 := (h2.setMem m hm).modDesc _ _ _
        have h5 : Keeps s0 s5 := by
          subst s5
          split
          · exact keeps_countIn h4 _ _ _ _
          · exact h4
        exact keeps_postWrites (keeps_countOut h5 _ _ _ _) _ _ _

theorem keeps_execOutputStage {s0 s : State} (hk : Keeps s0 s) (c : Nat) (step : DrainStep) :
    KeepsO s0 (execOutputStage c step s) :=
  Keeps.next (keeps_drainStep hk _ _ _ (fun _ _ _ h => keeps_runOutputStage h _ _))

theorem keeps_finishGroup {s0 s : State} (hk : Keeps s0 s) (t q : Nat) : Keeps s0 (finishGroup s t q) := by
  unfold finishGroup
  extract_lets d hi
  split
  next s1 ok hg =>
  have h1 : Keeps s0 s1 := by
    split at hg
    · exact keeps_gate hk hg
    · cases hg; exact hk
  refine keeps_releaseHeld ?_ _ _
  split
  · exact keeps_applyStrip h1 _ _ _ _ (wf_stripWork _ _ _ _ _)
  · exact h1

theorem keeps_writeImage {s0 s : State} (hk : Keeps s0 s) (c : Nat) (d : Desc) (t : Nat) :
    Keeps s0 (writeImage s c d t) := by
  unfold writeImage
  with_reducible repeat' (first
    | assumption
    | (extract_lets +onlyGivenNames x; (first | (refine Keeps.cut (x := x) ?_ ?_; all_goals (first | (intro hx; clear_value x) | subst x)) | clear_value x | skip))
    | apply Keeps.modCtx | apply Keeps.modDesc | apply Keeps.setMem_wrBytes | apply Keeps.foldl
    | apply keeps_leaveCtx | refine keeps_gate ?_ (by assumption) | apply keeps_postWrites | apply keeps_giveUpSave
    | apply keeps_finishGroup | split | intro _ _ _)

theorem keeps_execContextImageWrite {s0 s : State} (hk : Keeps s0 s) (c seq : Nat) :
    KeepsO s0 (execContextImageWrite c seq s) := by
  unfold execContextImageWrite
  with_reducible repeat' (first
    | assumption
    | (extract_lets +onlyGivenNames x; (first | (refine Keeps.cutO (x := x) ?_ ?_; all_goals (first | (intro hx; clear_value x) | subst x)) | (refine Keeps.cut (x := x) ?_ ?_; all_goals (first | (intro hx; clear_value x) | subst x)) | clear_value x | skip))
    | apply Keeps.next | apply keeps_giveUpSave | apply keeps_writeImage | split)

end Sys2Proof.Machine
end

