-- ==== Sys2Proof/Laws/KeepsCompletion.lean ====
section
/-! SUPPORT. `Keeps` of responses and completions (Machine/Completion.lean). -/

namespace Sys2Proof.Machine

theorem keeps_linkOn {s0 s : State} (hk : Keeps s0 s) (e : Nat) : Keeps s0 (linkOn s e) := by
  unfold linkOn
  with_reducible repeat' (first | assumption | apply keeps_workLink | split)

theorem keeps_takeMarker {s0 s : State} (hk : Keeps s0 s) (e : Nat) (net : Bool) : Keeps s0 (takeMarker s e net) := by
  unfold takeMarker
  with_reducible repeat' (first
    | assumption
    | (extract_lets +onlyGivenNames x; (first | (refine Keeps.cut (x := x) ?_ ?_; all_goals (first | (intro hx; clear_value x) | subst x)) | clear_value x | skip))
    | apply Keeps.modEng | apply keeps_issueReqs | split)

theorem keeps_takeTagged {s0 s : State} (hk : Keeps s0 s) (e t : Nat) (net : Bool) (st : RespStatus) (old : Nat) :
    Keeps s0 (takeTagged s e t net st old) := by
  unfold takeTagged
  with_reducible repeat' (first
    | assumption | apply Keeps.modEng | apply Keeps.modDesc | apply keeps_issueReqs | apply keeps_swapAnswer
    | apply keeps_externalRead | apply keeps_externalWrite | split)

theorem keeps_blockError {s0 s : State} (hk : Keeps s0 s) (c q a : Nat) (parity : Bool) :
    Keeps s0 (blockError s c q a parity) := by
  unfold blockError
  with_reducible repeat' (first | assumption | apply Keeps.modDesc | apply keeps_externalAddr | split)

theorem keeps_takeResponse {s0 s : State} (hk : Keeps s0 s) (e : Nat) (net : Bool) (r : RespFor) (st : RespStatus) (data : Word32) :
    Keeps s0 (takeResponse s e net r st data) := by
  unfold takeResponse
  with_reducible repeat' (first
    | assumption | apply keeps_externalRead | apply keeps_takeTagged | apply keeps_blockError | split)

theorem keeps_takeHeld {s0 s : State} (hk : Keeps s0 s) (e : Nat) : Keeps s0 (takeHeld s e) := by
  unfold takeHeld
  with_reducible repeat' (first
    | assumption | apply Keeps.modEng | apply Keeps.foldl | apply keeps_takeResponse | split | intro _ _ _)

theorem keeps_response {s0 s : State} (hk : Keeps s0 s) (e : Nat) (net : Bool) (r : RespFor) (st : RespStatus) (data : Word32) :
    Keeps s0 (response s e net r st data) := by
  unfold response
  with_reducible repeat' (first
    | assumption | apply Keeps.modEng | apply keeps_linkOn | apply keeps_takeMarker | apply keeps_takeResponse
    | apply keeps_takeHeld | split)

theorem keeps_execStackResponse {s0 s : State} (hk : Keeps s0 s) (e : Nat) (r : RespFor) (st : RespStatus) :
    KeepsO s0 (execStackResponse e r st s) := by
  unfold execStackResponse
  with_reducible repeat' (first | assumption | apply Keeps.next | apply keeps_response)

theorem keeps_execNetworkResponse {s0 s : State} (hk : Keeps s0 s) (e : Nat) (r : RespFor) (st : RespStatus) (data : Word32) :
    KeepsO s0 (execNetworkResponse e r st data s) := by
  unfold execNetworkResponse
  with_reducible repeat' (first | assumption | apply Keeps.next | apply keeps_response)

theorem keeps_execFlagPoll {s0 s : State} (hk : Keeps s0 s) (c seq : Nat) (word : Word32) :
    KeepsO s0 (execFlagPoll c seq word s) := by
  unfold execFlagPoll
  with_reducible repeat' (first
    | assumption
    | (extract_lets +onlyGivenNames x; (first | (refine Keeps.cutO (x := x) ?_ ?_; all_goals (first | (intro hx; clear_value x) | subst x)) | (refine Keeps.cut (x := x) ?_ ?_; all_goals (first | (intro hx; clear_value x) | subst x)) | clear_value x | skip))
    | apply Keeps.next | apply keeps_readMem | apply keeps_claimFrom | apply keeps_reEvaluate | split)

theorem keeps_execChunkDone {s0 s : State} (hk : Keeps s0 s) (c seq win chunk : Nat) :
    KeepsO s0 (execChunkDone c seq win chunk s) := by
  unfold execChunkDone
  with_reducible repeat' (first
    | assumption
    | (extract_lets +onlyGivenNames x; (first | (refine Keeps.cutO (x := x) ?_ ?_; all_goals (first | (intro hx; clear_value x) | subst x)) | (refine Keeps.cut (x := x) ?_ ?_; all_goals (first | (intro hx; clear_value x) | subst x)) | clear_value x | skip))
    | apply Keeps.next | apply Keeps.modDesc | apply keeps_sendSwap | split)

theorem keeps_endStats {s0 s : State} (hk : Keeps s0 s) (c : Nat) (d : Desc) : Keeps s0 (endStats s c d) := by
  unfold endStats
  with_reducible repeat' (first | assumption | apply keeps_writeRecord | split)

theorem keeps_writeWatch_fst {s0 s : State} (hk : Keeps s0 s) (c : Nat) (d : Desc) (st : Nat) :
    Keeps s0 (writeWatch s c d st).1 := by
  unfold writeWatch
  with_reducible repeat' (first
    | assumption
    | (extract_lets +onlyGivenNames x; (first | (refine Keeps.cut (x := x) ?_ ?_; all_goals (first | (intro hx; clear_value x) | subst x)) | clear_value x | skip))
    | apply keeps_writeRecord | split)

theorem keeps_writeWatch {s0 s s1 : State} {b1} {c : Nat} {d : Desc} {st : Nat} (h : Keeps s0 s)
    (e : writeWatch s c d st = (s1, b1)) : Keeps s0 s1 := by
  have := keeps_writeWatch_fst h c d st
  rwa [e] at this

theorem keeps_leaveInstance {s0 s : State} (hk : Keeps s0 s) (p job ticket : Nat) :
    Keeps s0 (leaveInstance s p job ticket) := by
  unfold leaveInstance
  with_reducible repeat' (first | assumption | apply Keeps.modLink | split)

theorem keeps_freshCredit {s0 s : State} (hk : Keeps s0 s) (p job ticket low : Nat) :
    Keeps s0 (freshCredit s p job ticket low) := by
  unfold freshCredit
  with_reducible repeat' (first | assumption | apply Keeps.foldl | apply keeps_sendCredit | split | intro _ _ _)

theorem keeps_leaveBucket {s0 s : State} (hk : Keeps s0 s) (p : Nat) (d : Desc) : Keeps s0 (leaveBucket s p d) := by
  unfold leaveBucket
  with_reducible repeat' (first | assumption | apply Keeps.modLink | apply keeps_leaveInstance | apply keeps_freshCredit)

theorem keeps_giveBack {s0 s : State} (hk : Keeps s0 s) (c : Nat) (d : Desc) : Keeps s0 (giveBack s c d) := by
  unfold giveBack
  with_reducible repeat' (first
    | assumption | apply Keeps.modCtx | apply keeps_endRestore | simp -zeta only [Keeps.upd] | split)

theorem keeps_countDone {s0 s : State} (hk : Keeps s0 s) (c : Nat) (d : Desc) : Keeps s0 (countDone s c d) := by
  unfold countDone
  with_reducible repeat' (first | assumption | apply Keeps.modEng | apply Keeps.modCtx | apply keeps_countNumeric)

theorem keeps_postRecord {s0 s : State} (hk : Keeps s0 s) (c v : Nat) : Keeps s0 (postRecord s c v) := by
  unfold postRecord
  with_reducible repeat' (first | assumption | apply Keeps.setCtx | apply keeps_writeRecord)

theorem keeps_complete {s0 s : State} (hk : Keeps s0 s) (c : Nat) (d : Desc) : Keeps s0 (complete s c d) := by
  unfold complete
  with_reducible repeat' (first
    | assumption | apply Keeps.modCtx | apply Keeps.out | apply keeps_traceEnd | apply keeps_leaveIfDone
    | apply keeps_releaseHeld | apply keeps_linkOn | apply keeps_endStats | apply keeps_writeWatch_fst
    | apply keeps_leaveBucket | apply keeps_giveBack | apply keeps_countDone | apply keeps_postRecord | split)

theorem keeps_execCompletionWrite {s0 s : State} (hk : Keeps s0 s) (c seq : Nat) :
    KeepsO s0 (execCompletionWrite c seq s) := by
  unfold execCompletionWrite
  with_reducible repeat' (first | assumption | apply Keeps.next | apply keeps_takeHeld | apply keeps_complete | split)

theorem keeps_execWatchIdleTimeout {s0 s : State} (hk : Keeps s0 s) (e : Nat) :
    KeepsO s0 (execWatchIdleTimeout e s) := by
  unfold execWatchIdleTimeout
  with_reducible repeat' (first | assumption | apply Keeps.next | apply Keeps.modEng | split)

theorem keeps_execWatchStartingEnd {s0 s : State} (hk : Keeps s0 s) (e : Nat) :
    KeepsO s0 (execWatchStartingEnd e s) := by
  unfold execWatchStartingEnd
  with_reducible repeat' (first
    | assumption | apply Keeps.next | apply Keeps.modEng | apply Keeps.foldl | apply keeps_runWhole
    | apply keeps_linkOn | split | intro _ _ _)

theorem keeps_busParity {s0 s : State} (hk : Keeps s0 s) : Keeps s0 (busParity s) := by
  unfold busParity
  with_reducible repeat' (first | assumption | apply Keeps.out | apply keeps_external)

theorem keeps_execDoorbell {s0 s : State} (hk : Keeps s0 s) (isWrite parityOk : Bool) (off size : Nat) (value : Word64) :
    KeepsO s0 (execDoorbell isWrite parityOk off size value s) := by
  unfold execDoorbell
  with_reducible repeat' (first
    | assumption | apply Keeps.next | apply Keeps.out | apply keeps_dropDoorbell | apply keeps_takeDoorbell
    | apply keeps_busParity | split)

theorem keeps_redoChunk {s0 s : State} (hk : Keeps s0 s) (c q : Nat) : Keeps s0 (redoChunk s c q) := by
  unfold redoChunk
  with_reducible repeat' (first | assumption | apply Keeps.modCtx | apply Keeps.modDesc | split)

theorem keeps_redoAfter_fst {s0 s : State} (hk : Keeps s0 s) (e : Nat) (t : SelfTest) : Keeps s0 (redoAfter s e t).1 :=
  Keeps.foldl hk (fun _ _ h => keeps_redoChunk h _ _)

theorem keeps_redoAfter {s0 s s1 : State} {b} {e : Nat} {t : SelfTest} (h : Keeps s0 s)
    (k : redoAfter s e t = (s1, b)) : Keeps s0 s1 := by
  have := keeps_redoAfter_fst h e t
  rwa [k] at this

theorem keeps_runSources {s0 s : State} (hk : Keeps s0 s) (e unit quire : Nat) :
    Keeps s0 (runSources s e unit quire) := by
  unfold runSources
  with_reducible repeat' (first | assumption | apply Keeps.modEng)

theorem keeps_execSelfTestEnd {s0 s : State} (hk : Keeps s0 s) (e unit quire : Nat) (pass : Bool) (pattern us : Nat) :
    KeepsO s0 (execSelfTestEnd e unit quire pass pattern us s) := by
  unfold execSelfTestEnd
  with_reducible repeat' (first
    | assumption
    | (extract_lets +onlyGivenNames x; (first | (refine Keeps.cutO (x := x) ?_ ?_; all_goals (first | (intro hx; clear_value x) | subst x)) | (refine Keeps.cut (x := x) ?_ ?_; all_goals (first | (intro hx; clear_value x) | subst x)) | clear_value x | skip))
    | apply Keeps.next | apply keeps_endTest | apply keeps_releaseInline | apply keeps_linkOn
    | apply keeps_redoAfter_fst | apply keeps_runSources | simp -zeta only [Keeps.upd] | split)

end Sys2Proof.Machine
end

