-- ==== Sys2Proof/Laws/KeepsPower.lean ====
section
/-! SUPPORT. `Keeps` of power, clocks and resets (Machine/Power.lean). -/

namespace Sys2Proof.Machine

theorem keeps_fabReadyNow {s0 s : State} (hk : Keeps s0 s) : Keeps s0 (fabReadyNow s) := by
  unfold fabReadyNow
  with_reducible repeat' (first | assumption | simp -zeta only [Keeps.upd])

theorem keeps_goOff {s0 s : State} (hk : Keeps s0 s) (e : Nat) : Keeps s0 (goOff s e) := by
  unfold goOff
  with_reducible repeat' (first
    | assumption | apply Keeps.modEng | apply Keeps.modLink | apply Keeps.foldl | apply keeps_issueStack
    | apply keeps_leaveCtx | apply keeps_dropWc | apply keeps_leaveCut | split | intro _ _ _)

theorem keeps_maybeStart {s0 s : State} (hk : Keeps s0 s) (e : Nat) : Keeps s0 (maybeStart s e) := by
  unfold maybeStart
  with_reducible repeat' (first
    | assumption
    | (extract_lets +onlyGivenNames x; (first | (refine Keeps.cut (x := x) ?_ ?_; all_goals (first | (intro hx; clear_value x) | subst x)) | clear_value x | skip))
    | apply Keeps.setEng | split)

theorem keeps_startQuiesce {s0 s : State} (hk : Keeps s0 s) (e : Nat) : Keeps s0 (startQuiesce s e) := by
  unfold startQuiesce
  with_reducible repeat' (first
    | assumption | apply Keeps.modEng | apply Keeps.foldl | apply keeps_writeSample | apply keeps_endCtx | split
    | intro _ _ _)

theorem keeps_maybeQuiesce {s0 s : State} (hk : Keeps s0 s) (e : Nat) : Keeps s0 (maybeQuiesce s e) := by
  unfold maybeQuiesce
  with_reducible repeat' (first | assumption | apply keeps_startQuiesce | split)

theorem keeps_startPart {s0 s : State} (hk : Keeps s0 s) (e step : Nat) : Keeps s0 (startPart s e step) := by
  unfold startPart
  with_reducible repeat' (first
    | assumption
    | (extract_lets +onlyGivenNames x; (first | (refine Keeps.cut (x := x) ?_ ?_; all_goals (first | (intro hx; clear_value x) | subst x)) | clear_value x | skip))
    | apply Keeps.setEng | split)

theorem keeps_execIslandPowerGood {s0 s : State} (hk : Keeps s0 s) (e : Nat) :
    KeepsO s0 (execIslandPowerGood e s) := by
  unfold execIslandPowerGood
  with_reducible repeat' (first | assumption | apply Keeps.next | apply keeps_startPart)

theorem keeps_execPllLock {s0 s : State} (hk : Keeps s0 s) (e : Nat) : KeepsO s0 (execPllLock e s) := by
  unfold execPllLock
  with_reducible repeat' (first | assumption | apply Keeps.next | apply keeps_startPart)

theorem keeps_execSramClearDone {s0 s : State} (hk : Keeps s0 s) (e : Nat) : KeepsO s0 (execSramClearDone e s) := by
  unfold execSramClearDone
  with_reducible repeat' (first | assumption | apply Keeps.next | apply keeps_startPart)

theorem keeps_bootPass {s0 s : State} (hk : Keeps s0 s) (e : Nat) : Keeps s0 (bootPass s e) := by
  unfold bootPass
  with_reducible repeat' (first
    | assumption
    | (extract_lets +onlyGivenNames x; (first | (refine Keeps.cut (x := x) ?_ ?_; all_goals (first | (intro hx; clear_value x) | subst x)) | clear_value x | skip))
    | apply Keeps.modEng | apply keeps_traceUnit | apply keeps_maybeQuiesce | split)

theorem keeps_bootFails {s0 s : State} (hk : Keeps s0 s) (e unit quire pattern us : Nat) :
    Keeps s0 (bootFails s e unit quire pattern us) := by
  unfold bootFails
  with_reducible repeat' (first
    | assumption | apply Keeps.modEng | apply keeps_writeErr | apply keeps_goOff | simp -zeta only [Keeps.upd])

theorem keeps_execBootSelfTestEnd {s0 s : State} (hk : Keeps s0 s) (e : Nat) (pass : Bool) (unit quire pattern us : Nat) :
    KeepsO s0 (execBootSelfTestEnd e pass unit quire pattern us s) := by
  unfold execBootSelfTestEnd
  with_reducible repeat' (first | assumption | apply Keeps.next | apply keeps_bootPass | apply keeps_bootFails | split)

theorem keeps_execQuiesceEnd {s0 s : State} (hk : Keeps s0 s) (e : Nat) : KeepsO s0 (execQuiesceEnd e s) := by
  unfold execQuiesceEnd
  with_reducible repeat' (first | assumption | apply Keeps.next | apply keeps_goOff | apply keeps_maybeStart | split)

theorem keeps_execClockChange {s0 s : State} (hk : Keeps s0 s) (e : Nat) : KeepsO s0 (execClockChange e s) := by
  unfold execClockChange
  with_reducible repeat' (first | assumption | apply Keeps.next | apply Keeps.setEng | split)

theorem keeps_execPowerCapPeriod {s0 s : State} (hk : Keeps s0 s) : KeepsO s0 (execPowerCapPeriod s) := by
  unfold execPowerCapPeriod
  with_reducible repeat' (first | assumption | apply Keeps.next | simp -zeta only [Keeps.upd])

theorem keeps_cutOff {s0 s : State} (hk : Keeps s0 s) (e : Nat) : Keeps s0 (cutOff s e) := by
  unfold cutOff
  with_reducible repeat' (first
    | assumption | apply Keeps.modEng | apply Keeps.modCtx | apply Keeps.foldl | apply keeps_dropHeldIn
    | apply keeps_goOff | intro _ _ _)

theorem keeps_dropCut {s0 s : State} (hk : Keeps s0 s) : Keeps s0 (dropCut s) := by
  unfold dropCut
  with_reducible repeat' (first | assumption | simp -zeta only [Keeps.upd])

theorem keeps_dropHolds {s0 s : State} (hk : Keeps s0 s) : Keeps s0 (dropHolds s) := by
  unfold dropHolds
  with_reducible repeat' (first | assumption | simp -zeta only [Keeps.upd])

theorem keeps_fabReset {s0 s : State} (hk : Keeps s0 s) : Keeps s0 (fabReset s) := by
  unfold fabReset
  with_reducible repeat' (first
    | assumption | apply Keeps.foldl | apply keeps_fabReadyNow | apply keeps_cutOff | apply keeps_dropCut
    | apply keeps_dropHolds | simp -zeta only [Keeps.upd] | intro _ _ _)

theorem keeps_execFabRstAssert {s0 s : State} (hk : Keeps s0 s) : KeepsO s0 (execFabRstAssert s) := by
  unfold execFabRstAssert
  with_reducible repeat' (first | assumption | apply Keeps.next | apply keeps_fabReset | simp -zeta only [Keeps.upd])

theorem keeps_execFabRstRelease {s0 s : State} (hk : Keeps s0 s) : KeepsO s0 (execFabRstRelease s) := by
  unfold execFabRstRelease
  with_reducible repeat' (first | assumption | apply Keeps.next | apply keeps_fabReadyNow | simp -zeta only [Keeps.upd])

theorem keeps_aonReset {s0 s : State} (h : Keeps s0 s) (pins : Pins) : Keeps s0 (aonReset s pins) :=
  ⟨h.1, h.2, h.3, h.4, h.5⟩

theorem keeps_execAonRstAssert {s0 s : State} (hk : Keeps s0 s) : KeepsO s0 (execAonRstAssert s) := by
  unfold execAonRstAssert
  with_reducible repeat' (first | assumption | apply Keeps.next | apply keeps_aonReset)

theorem keeps_undefinedIsland {s0 s : State} (hk : Keeps s0 s) (pins : Pins) : Keeps s0 (undefinedIsland s pins) :=
  ⟨hk.1, hk.2, hk.3, hk.4, hk.5⟩

theorem keeps_execAonRstRelease {s0 s : State} (hk : Keeps s0 s) (stable : Bool) :
    KeepsO s0 (execAonRstRelease stable s) := by
  unfold execAonRstRelease
  with_reducible repeat' (first
    | assumption | apply Keeps.next | apply keeps_undefinedIsland | simp -zeta only [Keeps.upd] | split)

theorem keeps_execAonPgRise {s0 s : State} (hk : Keeps s0 s) : KeepsO s0 (execAonPgRise s) := by
  unfold execAonPgRise
  with_reducible repeat' (first
    | assumption | apply Keeps.next | apply keeps_fabReadyNow | simp -zeta only [Keeps.upd] | split)

theorem keeps_execVddFabPgLow {s0 s : State} (hk : Keeps s0 s) (d : Nat) : KeepsO s0 (execVddFabPgLow d s) := by
  unfold execVddFabPgLow
  with_reducible repeat' (first
    | assumption | apply Keeps.next | apply Keeps.foldl | apply keeps_cutOff | simp -zeta only [Keeps.upd]
    | intro _ _ _)

theorem keeps_execVddFabPgHigh {s0 s : State} (hk : Keeps s0 s) (d : Nat) : KeepsO s0 (execVddFabPgHigh d s) := by
  unfold execVddFabPgHigh
  with_reducible repeat' (first | assumption | apply Keeps.next | simp -zeta only [Keeps.upd])

theorem keeps_execVddAonPgLow {s0 s : State} (hk : Keeps s0 s) : KeepsO s0 (execVddAonPgLow s) := by
  unfold execVddAonPgLow
  with_reducible repeat' (first | assumption | apply Keeps.next | apply keeps_aonReset)

theorem keeps_execVddAonPgHigh {s0 s : State} (hk : Keeps s0 s) : KeepsO s0 (execVddAonPgHigh s) := by
  unfold execVddAonPgHigh
  with_reducible repeat' (first
    | assumption | apply Keeps.next | apply keeps_undefinedIsland | simp -zeta only [Keeps.upd] | split)

theorem keeps_passFclk {s0 s : State} (hk : Keeps s0 s) (e n : Nat) : Keeps s0 (passFclk s e n) := by
  unfold passFclk
  with_reducible repeat' (first
    | assumption | apply Keeps.modEng | apply Keeps.modCtx | apply Keeps.foldl | split | intro _ _ _)

theorem keeps_fixCut {s0 s : State} (hk : Keeps s0 s) (e : Nat) : Keeps s0 (fixCut s e) := by
  unfold fixCut
  with_reducible repeat' (first | assumption | apply Keeps.modEng)

theorem keeps_fclkStep {s0 s : State} (hk : Keeps s0 s) (e : Nat) : Keeps s0 (fclkStep s e) := by
  unfold fclkStep
  with_reducible repeat' (first
    | assumption | apply Keeps.modEng | apply keeps_traceOwed | apply keeps_passFclk | apply keeps_fixCut | split)

theorem keeps_engineTick {s0 s : State} (h : Keeps s0 s) (e : Nat) : Keeps s0 (engineTick s e) := by
  unfold engineTick
  extract_lets x f
  split
  · exact Keeps.foldl (h.setEng _ _) (fun _ _ h => keeps_fclkStep h _)
  · exact h

theorem keeps_tick {s0 s : State} (hk : Keeps s0 s) : Keeps s0 (tick s) := by
  unfold tick
  with_reducible repeat' (first
    | assumption
    | (extract_lets +onlyGivenNames x; (first | (refine Keeps.cut (x := x) ?_ ?_; all_goals (first | (intro hx; clear_value x) | subst x)) | clear_value x | skip))
    | apply Keeps.foldl | apply keeps_tracePort | apply keeps_engineTick | simp -zeta only [Keeps.upd] | split
    | intro _ _ _)

end Sys2Proof.Machine
end

