-- ==== Sys2Proof/Laws/KeepsImage.lean ====
section
/-! SUPPORT. `Keeps` of images (Machine/Image.lean). -/

namespace Sys2Proof.Machine

theorem keeps_storeDefault {s0 s : State} (hk : Keeps s0 s) (w : DefWord) (v : Nat) :
    Keeps s0 (storeDefault s w v) := by
  unfold storeDefault
  with_reducible repeat' (first
    | assumption | apply Keeps.modEng | apply keeps_maybeQuiesce | simp -zeta only [Keeps.upd] | split)

theorem keeps_applyDefaults {s0 s : State} (hk : Keeps s0 s) (sec : List Byte) : Keeps s0 (applyDefaults s sec) := by
  unfold applyDefaults
  with_reducible repeat' (first | assumption | apply Keeps.foldl | apply keeps_storeDefault | split | intro _ _ _)

theorem keeps_commitImage {s0 s : State} (hk : Keeps s0 s) : Keeps s0 (commitImage s) := by
  unfold commitImage
  with_reducible repeat' (first
    | assumption
    | (extract_lets +onlyGivenNames x; (first | (refine Keeps.cut (x := x) ?_ ?_; all_goals (first | (intro hx; clear_value x) | subst x)) | clear_value x | skip))
    | apply keeps_fabReadyNow | apply keeps_applyDefaults | simp -zeta only [Keeps.upd] | split)

theorem keeps_loadImgBegin {s0 s : State} (hk : Keeps s0 s) : Keeps s0 (loadImgBegin s) := by
  unfold loadImgBegin
  with_reducible repeat' (first | assumption | simp -zeta only [Keeps.upd] | split)

theorem keeps_imgctlWrite {s0 s : State} (hk : Keeps s0 s) (v : Nat) : Keeps s0 (imgctlWrite s v) := by
  unfold imgctlWrite
  with_reducible repeat' (first | assumption | apply keeps_commitImage | apply keeps_loadImgBegin | split)

theorem keeps_imgdataWrite {s0 s : State} (hk : Keeps s0 s) (v : Nat) (all : Bool) :
    Keeps s0 (imgdataWrite s v all) := by
  unfold imgdataWrite
  with_reducible repeat' (first | assumption | simp -zeta only [Keeps.upd] | split)

end Sys2Proof.Machine
end

