-- ==== Sys2Proof/Laws/KeepsRibbon.lean ====
section
/-! SUPPORT. `Keeps` of sample points and the ribbon (Machine/Ribbon.lean). -/

namespace Sys2Proof.Machine

theorem keeps_samplePoint {s0 s : State} (hk : Keeps s0 s) (e : Nat) : Keeps s0 (samplePoint s e) := by
  unfold samplePoint
  with_reducible repeat' (first
    | assumption | apply Keeps.modEng | apply Keeps.foldl | apply keeps_writeSample | apply keeps_writeCtxRec
    | apply keeps_passFclk | apply keeps_fixCut | split | intro _ _ _)

theorem keeps_execSamplePoint {s0 s : State} (hk : Keeps s0 s) (e : Nat) : KeepsO s0 (execSamplePoint e s) := by
  unfold execSamplePoint
  with_reducible repeat' (first | assumption | apply Keeps.next | apply keeps_samplePoint | split)

theorem keeps_execAggregateRecord {s0 s : State} (hk : Keeps s0 s) : KeepsO s0 (execAggregateRecord s) := by
  unfold execAggregateRecord
  with_reducible repeat' (first | assumption | apply Keeps.next | simp -zeta only [Keeps.upd] | split)

theorem keeps_execTracePortTraining {s0 s : State} (hk : Keeps s0 s) : KeepsO s0 (execTracePortTraining s) := by
  unfold execTracePortTraining
  with_reducible repeat' (first | assumption | apply Keeps.next | simp -zeta only [Keeps.upd] | split)

theorem keeps_deliverEpoch {s0 s : State} (hk : Keeps s0 s) (e ep : Nat) : Keeps s0 (deliverEpoch s e ep) := by
  unfold deliverEpoch
  with_reducible repeat' (first
    | assumption | apply Keeps.modEng | apply Keeps.foldl | apply keeps_reEvaluate | intro _ _ _)

theorem keeps_takeEpoch {s0 s : State} (hk : Keeps s0 s) (e : Nat) : Keeps s0 (takeEpoch s e) := by
  unfold takeEpoch
  with_reducible repeat' (first | assumption | apply Keeps.modEng | apply keeps_deliverEpoch | split)

theorem keeps_execEpochDelivery {s0 s : State} (hk : Keeps s0 s) (e : Nat) : KeepsO s0 (execEpochDelivery e s) := by
  unfold execEpochDelivery
  with_reducible repeat' (first | assumption | apply Keeps.next | apply keeps_takeEpoch | split)

theorem keeps_execEpochDoneRise {s0 s : State} (hk : Keeps s0 s) : KeepsO s0 (execEpochDoneRise s) := by
  unfold execEpochDoneRise
  with_reducible repeat' (first | assumption | apply Keeps.next | simp -zeta only [Keeps.upd])

theorem keeps_grantRibbon {s0 s : State} (hk : Keeps s0 s) : Keeps s0 (grantRibbon s) := by
  unfold grantRibbon
  with_reducible repeat' (first | assumption | apply keeps_cutCheck | simp -zeta only [Keeps.upd] | split)

theorem keeps_execRibbonGrant {s0 s : State} (hk : Keeps s0 s) : KeepsO s0 (execRibbonGrant s) := by
  unfold execRibbonGrant
  with_reducible repeat' (first | assumption | apply Keeps.next | apply keeps_grantRibbon | split)

theorem keeps_takeAhead {s0 s : State} (hk : Keeps s0 s) (e : Nat) : Keeps s0 (takeAhead s e) := by
  unfold takeAhead
  with_reducible repeat' (first | assumption | apply Keeps.forN | apply keeps_takeEpoch | intro _ _ _)

theorem keeps_cutPoint {s0 s : State} (hk : Keeps s0 s) (e tag : Nat) (hold : Bool) :
    Keeps s0 (cutPoint s e tag hold) := by
  unfold cutPoint
  with_reducible repeat' (first | assumption | apply Keeps.modEng | apply keeps_sendReqs)

theorem keeps_execRibbonMarker {s0 s : State} (hk : Keeps s0 s) (e : Nat) : KeepsO s0 (execRibbonMarker e s) := by
  unfold execRibbonMarker
  with_reducible repeat' (first
    | assumption
    | (extract_lets +onlyGivenNames x; (first | (refine Keeps.cutO (x := x) ?_ ?_; all_goals (first | (intro hx; clear_value x) | subst x)) | (refine Keeps.cut (x := x) ?_ ?_; all_goals (first | (intro hx; clear_value x) | subst x)) | clear_value x | skip))
    | apply Keeps.next | apply keeps_takeAhead | apply keeps_cutPoint | split)

theorem keeps_capture {s0 s : State} (hk : Keeps s0 s) (e : Nat) : Keeps s0 (capture s e) := by
  unfold capture
  with_reducible repeat' (first
    | assumption | apply Keeps.modEng | apply keeps_traceEmitAt | apply keeps_writeSample | apply keeps_cutCheck
    | apply keeps_passFclk | apply keeps_fixCut | split)

theorem keeps_execCutCapture {s0 s : State} (hk : Keeps s0 s) (e : Nat) : KeepsO s0 (execCutCapture e s) := by
  unfold execCutCapture
  with_reducible repeat' (first
    | assumption
    | (extract_lets +onlyGivenNames x; (first | (refine Keeps.cutO (x := x) ?_ ?_; all_goals (first | (intro hx; clear_value x) | subst x)) | (refine Keeps.cut (x := x) ?_ ?_; all_goals (first | (intro hx; clear_value x) | subst x)) | clear_value x | skip))
    | apply Keeps.next | apply keeps_capture | split)

theorem keeps_resumeEngine {s0 s : State} (hk : Keeps s0 s) (e : Nat) : Keeps s0 (resumeEngine s e) := by
  unfold resumeEngine
  with_reducible repeat' (first
    | assumption
    | (extract_lets +onlyGivenNames x; (first | (refine Keeps.cut (x := x) ?_ ?_; all_goals (first | (intro hx; clear_value x) | subst x)) | clear_value x | skip))
    | apply Keeps.foldl | apply keeps_pump | apply keeps_releaseDoorbells | apply keeps_workLink
    | apply keeps_releaseInline | apply keeps_takeHeld | split | intro _ _ _)

theorem keeps_endHold {s0 s : State} (hk : Keeps s0 s) : Keeps s0 (endHold s) := by
  unfold endHold
  with_reducible repeat' (first
    | assumption | apply Keeps.foldl | apply keeps_resumeEngine | simp -zeta only [Keeps.upd] | intro _ _ _)

theorem keeps_releaseHold {s0 s : State} (hk : Keeps s0 s) : Keeps s0 (releaseHold s) := by
  unfold releaseHold
  with_reducible repeat' (first | assumption | apply Keeps.modDesc | apply keeps_endHold | split)

theorem keeps_stopCtx {s0 s : State} (hk : Keeps s0 s) (c : Nat) : Keeps s0 (stopCtx s c) := by
  unfold stopCtx
  with_reducible repeat' (first
    | assumption
    | (extract_lets +onlyGivenNames x; (first | (refine Keeps.cut (x := x) ?_ ?_; all_goals (first | (intro hx; clear_value x) | subst x)) | clear_value x | skip))
    | apply Keeps.modDesc | apply Keeps.foldl | apply keeps_abortGroup | split | intro _ _ _)

theorem keeps_stopHold {s0 s : State} (hk : Keeps s0 s) : Keeps s0 (stopHold s) := by
  unfold stopHold
  with_reducible repeat' (first
    | assumption | apply Keeps.foldl | apply keeps_endHold | apply keeps_stopCtx | split | intro _ _ _)

theorem keeps_execTestAccessWrite {s0 s : State} (hk : Keeps s0 s) (e sel : Nat) (v : Word64) :
    KeepsO s0 (execTestAccessWrite e sel v s) := by
  unfold execTestAccessWrite
  with_reducible repeat' (first | assumption | apply Keeps.next | simp -zeta only [Keeps.upd] | split)

end Sys2Proof.Machine
end

