-- ==== Sys2Proof/Laws/KeepsRegRead.lean ====
section
/-! SUPPORT. `Keeps` of reads that clear (Machine/RegRead.lean). -/

namespace Sys2Proof.Machine

theorem keeps_regClear {s0 s : State} (hk : Keeps s0 s) (r : Reg) : Keeps s0 (regClear s r) := by
  unfold regClear
  with_reducible repeat' (first
    | assumption | apply Keeps.modEng | apply Keeps.modInl | simp -zeta only [Keeps.upd] | split)

theorem keeps_execRcRead {s0 s : State} (hk : Keeps s0 s) (off : Nat) : KeepsO s0 (execRcRead off s) := by
  unfold execRcRead
  with_reducible repeat' (first | assumption | apply Keeps.next | apply Keeps.out | apply keeps_regClear | split)

end Sys2Proof.Machine
end

