-- ==== Sys2Proof/Laws/KeepsRegWrite.lean ====
section
/-! SUPPORT. `Keeps` of writes of set-up words (Machine/RegWrite.lean). -/

namespace Sys2Proof.Machine

theorem keeps_winWrite {s0 s : State} (hk : Keeps s0 s) (w k : Nat) (v : Word64) (be : BitVec 8) :
    Keeps s0 (winWrite s w k v be) := by
  unfold winWrite
  with_reducible repeat' (first
    | assumption
    | (extract_lets +onlyGivenNames x; (first | (refine Keeps.cut (x := x) ?_ ?_; all_goals (first | (intro hx; clear_value x) | subst x)) | clear_value x | skip))
    | apply Keeps.setWin | apply keeps_raiseEpoch | split)

theorem keeps_pdWordWrite {s0 s : State} (hk : Keeps s0 s) (d k : Nat) (v : Word64) (be : BitVec 8) :
    Keeps s0 (pdWordWrite s d k v be) := by
  unfold pdWordWrite
  with_reducible repeat' (first
    | assumption
    | (extract_lets +onlyGivenNames x; (first | (refine Keeps.cut (x := x) ?_ ?_; all_goals (first | (intro hx; clear_value x) | subst x)) | clear_value x | skip))
    | apply Keeps.setPd | apply keeps_raiseEpoch | simp -zeta only [Keeps.upd] | split)

theorem keeps_inlTurnOn {s0 s : State} (hk : Keeps s0 s) (i : Nat) (r : InlineSet) : Keeps s0 (inlTurnOn s i r) := by
  unfold inlTurnOn
  with_reducible repeat' (first
    | assumption
    | (extract_lets +onlyGivenNames x; (first | (refine Keeps.cut (x := x) ?_ ?_; all_goals (first | (intro hx; clear_value x) | subst x)) | clear_value x | skip))
    | apply Keeps.setInl | apply keeps_inlineEnable | split)

theorem keeps_inlTurnOff {s0 s : State} (hk : Keeps s0 s) (i : Nat) (r : InlineSet) :
    Keeps s0 (inlTurnOff s i r) := by
  unfold inlTurnOff
  with_reducible repeat' (first
    | assumption
    | (extract_lets +onlyGivenNames x; (first | (refine Keeps.cut (x := x) ?_ ?_; all_goals (first | (intro hx; clear_value x) | subst x)) | clear_value x | skip))
    | apply Keeps.setInl | apply keeps_inlineDisable | split)

theorem keeps_inlWrite {s0 s : State} (hk : Keeps s0 s) (i k : Nat) (v : Word64) (be : BitVec 8) :
    Keeps s0 (inlWrite s i k v be) := by
  unfold inlWrite
  with_reducible repeat' (first
    | assumption
    | (extract_lets +onlyGivenNames x; (first | (refine Keeps.cut (x := x) ?_ ?_; all_goals (first | (intro hx; clear_value x) | subst x)) | clear_value x | skip))
    | apply Keeps.setInl | apply keeps_flushStart | apply keeps_inlTurnOn | apply keeps_inlTurnOff | split)

theorem keeps_ctxTurnOn {s0 s : State} (hk : Keeps s0 s) (c : Nat) (r : CtxSet) : Keeps s0 (ctxTurnOn s c r) := by
  unfold ctxTurnOn
  with_reducible repeat' (first
    | assumption
    | (extract_lets +onlyGivenNames x; (first | (refine Keeps.cut (x := x) ?_ ?_; all_goals (first | (intro hx; clear_value x) | subst x)) | clear_value x | skip))
    | apply Keeps.setCtx | apply keeps_enableCtx | split)

theorem keeps_ctxWrite {s0 s : State} (hk : Keeps s0 s) (c k : Nat) (v : Word64) (be : BitVec 8) :
    Keeps s0 (ctxWrite s c k v be) := by
  unfold ctxWrite
  with_reducible repeat' (first
    | assumption
    | (extract_lets +onlyGivenNames x; (first | (refine Keeps.cut (x := x) ?_ ?_; all_goals (first | (intro hx; clear_value x) | subst x)) | clear_value x | skip))
    | apply Keeps.setCtx | apply keeps_disableCtx | apply keeps_ctxTurnOn | split)

theorem keeps_pwrWrite {s0 s : State} (hk : Keeps s0 s) (m : Nat) : Keeps s0 (pwrWrite s m) := by
  unfold pwrWrite
  with_reducible repeat' (first | assumption | simp -zeta only [Keeps.upd])

theorem keeps_arbWrite {s0 s : State} (hk : Keeps s0 s) (m : Nat) : Keeps s0 (arbWrite s m) := by
  unfold arbWrite
  with_reducible repeat' (first | assumption | simp -zeta only [Keeps.upd])

theorem keeps_groupWrite {s0 s : State} (hk : Keeps s0 s) (m : Nat) : Keeps s0 (groupWrite s m) := by
  unfold groupWrite
  with_reducible repeat' (first | assumption | simp -zeta only [Keeps.upd])

theorem keeps_dom0Write {s0 s : State} (hk : Keeps s0 s) (m : Nat) : Keeps s0 (dom0Write s m) := by
  unfold dom0Write
  with_reducible repeat' (first
    | assumption
    | (extract_lets +onlyGivenNames x; (first | (refine Keeps.cut (x := x) ?_ ?_; all_goals (first | (intro hx; clear_value x) | subst x)) | clear_value x | skip))
    | apply keeps_joinDomain | apply keeps_leaveDomain | simp -zeta only [Keeps.upd] | split)

theorem keeps_dom1Write {s0 s : State} (hk : Keeps s0 s) (m : Nat) : Keeps s0 (dom1Write s m) := by
  unfold dom1Write
  with_reducible repeat' (first | assumption | simp -zeta only [Keeps.upd] | split)

theorem keeps_dom2Write {s0 s : State} (hk : Keeps s0 s) (m : Nat) : Keeps s0 (dom2Write s m) := by
  unfold dom2Write
  with_reducible repeat' (first | assumption | simp -zeta only [Keeps.upd])

theorem keeps_err0Write {s0 s : State} (hk : Keeps s0 s) (m : Nat) : Keeps s0 (err0Write s m) := by
  unfold err0Write
  with_reducible repeat' (first
    | assumption
    | (extract_lets +onlyGivenNames x; (first | (refine Keeps.cut (x := x) ?_ ?_; all_goals (first | (intro hx; clear_value x) | subst x)) | clear_value x | skip))
    | simp -zeta only [Keeps.upd] | split)

theorem keeps_err1Write {s0 s : State} (hk : Keeps s0 s) (m : Nat) : Keeps s0 (err1Write s m) := by
  unfold err1Write
  with_reducible repeat' (first | assumption | simp -zeta only [Keeps.upd])

theorem keeps_globWrite {s0 s : State} (hk : Keeps s0 s) (k : Nat) (v : Word64) (be : BitVec 8) :
    Keeps s0 (globWrite s k v be) := by
  unfold globWrite
  with_reducible repeat' (first
    | assumption | apply keeps_imgctlWrite | apply keeps_imgdataWrite | apply keeps_pwrWrite | apply keeps_arbWrite
    | apply keeps_groupWrite | apply keeps_dom0Write | apply keeps_dom1Write | apply keeps_dom2Write
    | apply keeps_err0Write | apply keeps_err1Write | split)

theorem keeps_engctlWrite {s0 s : State} (hk : Keeps s0 s) (e m : Nat) : Keeps s0 (engctlWrite s e m) := by
  unfold engctlWrite
  with_reducible repeat' (first
    | assumption | apply Keeps.modEng | apply keeps_pump | apply keeps_workLink | apply keeps_maybeStart
    | apply keeps_maybeQuiesce | split)

theorem keeps_linkcfgWrite {s0 s : State} (hk : Keeps s0 s) (e m : Nat) : Keeps s0 (linkcfgWrite s e m) := by
  unfold linkcfgWrite
  with_reducible repeat' (first | assumption | apply Keeps.modEng | split)

theorem keeps_engWrite {s0 s : State} (hk : Keeps s0 s) (e k : Nat) (v : Word64) (be : BitVec 8) :
    Keeps s0 (engWrite s e k v be) := by
  unfold engWrite
  with_reducible repeat' (first | assumption | apply keeps_engctlWrite | apply keeps_linkcfgWrite | split)

theorem keeps_sampcfgWrite {s0 s : State} (hk : Keeps s0 s) (k m : Nat) : Keeps s0 (sampcfgWrite s k m) := by
  unfold sampcfgWrite
  with_reducible repeat' (first
    | assumption
    | (extract_lets +onlyGivenNames x; (first | (refine Keeps.cut (x := x) ?_ ?_; all_goals (first | (intro hx; clear_value x) | subst x)) | clear_value x | skip))
    | simp -zeta only [Keeps.upd] | split)

theorem keeps_snapWrite {s0 s : State} (hk : Keeps s0 s) (m : Nat) : Keeps s0 (snapWrite s m) := by
  unfold snapWrite
  with_reducible repeat' (first | assumption | simp -zeta only [Keeps.upd] | split)

theorem keeps_jobselWrite {s0 s : State} (hk : Keeps s0 s) (p m : Nat) : Keeps s0 (jobselWrite s p m) := by
  unfold jobselWrite
  with_reducible repeat' (first | assumption | apply Keeps.modLink)

theorem keeps_traceStart {s0 s : State} (hk : Keeps s0 s) : Keeps s0 (traceStart s) := by
  unfold traceStart
  with_reducible repeat' (first
    | assumption
    | (extract_lets +onlyGivenNames x; (first | (refine Keeps.cut (x := x) ?_ ?_; all_goals (first | (intro hx; clear_value x) | subst x)) | clear_value x | skip))
    | simp -zeta only [Keeps.upd])

theorem keeps_traceStop {s0 s : State} (hk : Keeps s0 s) : Keeps s0 (traceStop s) := by
  unfold traceStop
  with_reducible repeat' (first | assumption | simp -zeta only [Keeps.upd])

theorem keeps_trace0Write {s0 s : State} (hk : Keeps s0 s) (m : Nat) : Keeps s0 (trace0Write s m) := by
  unfold trace0Write
  with_reducible repeat' (first
    | assumption
    | (extract_lets +onlyGivenNames x; (first | (refine Keeps.cut (x := x) ?_ ?_; all_goals (first | (intro hx; clear_value x) | subst x)) | clear_value x | skip))
    | apply keeps_traceUnits | apply keeps_traceStart | apply keeps_traceStop | simp -zeta only [Keeps.upd] | split)

theorem keeps_engmaskWrite {s0 s : State} (hk : Keeps s0 s) (k m : Nat) : Keeps s0 (engmaskWrite s k m) := by
  unfold engmaskWrite
  with_reducible repeat' (first | assumption | apply keeps_traceUnits | simp -zeta only [Keeps.upd])

theorem keeps_trace4Write {s0 s : State} (hk : Keeps s0 s) (m p : Nat) : Keeps s0 (trace4Write s m p) := by
  unfold trace4Write
  with_reducible repeat' (first
    | assumption
    | (extract_lets +onlyGivenNames x; (first | (refine Keeps.cut (x := x) ?_ ?_; all_goals (first | (intro hx; clear_value x) | subst x)) | clear_value x | skip))
    | apply keeps_releaseHold | apply keeps_stopHold | simp -zeta only [Keeps.upd] | split)

theorem keeps_traceWrite {s0 s : State} (hk : Keeps s0 s) (k : Nat) (v : Word64) (be : BitVec 8) :
    Keeps s0 (traceWrite s k v be) := by
  unfold traceWrite
  with_reducible repeat' (first
    | assumption | apply keeps_trace0Write | apply keeps_engmaskWrite | apply keeps_trace4Write | split)

theorem keeps_regWrite {s0 s : State} (hk : Keeps s0 s) (r : Reg) (v : Word64) (be : BitVec 8) :
    Keeps s0 (regWrite s r v be) := by
  unfold regWrite
  with_reducible repeat' (first
    | assumption | apply keeps_winWrite | apply keeps_pdWordWrite | apply keeps_inlWrite | apply keeps_ctxWrite
    | apply keeps_globWrite | apply keeps_engWrite | apply keeps_sampcfgWrite | apply keeps_snapWrite
    | apply keeps_jobselWrite | apply keeps_traceWrite | split)

theorem keeps_busWrite {s0 s : State} (hk : Keeps s0 s) (r : Reg) (v : Word64) (be : BitVec 8) :
    Keeps s0 (busWrite s r v be) := by
  unfold busWrite
  with_reducible repeat' (first | assumption | apply Keeps.out | apply keeps_regWrite | split)

end Sys2Proof.Machine
end

