-- ==== Sys2Proof/Laws/KeepsSetup.lean ====
section
/-! SUPPORT. `Keeps` of the named set-up writes (Machine/Setup.lean). -/

namespace Sys2Proof.Machine

theorem keeps_execWindowDefine {s0 s : State} (hk : Keeps s0 s) (w : Nat) (v : Word64) (be : BitVec 8) :
    KeepsO s0 (execWindowDefine w v be s) := by
  unfold execWindowDefine
  with_reducible repeat' (first | assumption | apply Keeps.next | apply keeps_busWrite)

theorem keeps_execWindowWithdraw {s0 s : State} (hk : Keeps s0 s) (w : Nat) (v : Word64) (be : BitVec 8) :
    KeepsO s0 (execWindowWithdraw w v be s) := by
  unfold execWindowWithdraw
  with_reducible repeat' (first | assumption | apply Keeps.next | apply keeps_busWrite)

theorem keeps_execWindowEdit {s0 s : State} (hk : Keeps s0 s) (w word : Nat) (v : Word64) (be : BitVec 8) :
    KeepsO s0 (execWindowEdit w word v be s) := by
  unfold execWindowEdit
  with_reducible repeat' (first | assumption | apply Keeps.next | apply keeps_busWrite)

theorem keeps_execPdWrite {s0 s : State} (hk : Keeps s0 s) (d word : Nat) (v : Word64) (be : BitVec 8) :
    KeepsO s0 (execPdWrite d word v be s) := by
  unfold execPdWrite
  with_reducible repeat' (first | assumption | apply Keeps.next | apply keeps_busWrite)

theorem keeps_execInlineEnable {s0 s : State} (hk : Keeps s0 s) (i : Nat) (v : Word64) (be : BitVec 8) :
    KeepsO s0 (execInlineEnable i v be s) := by
  unfold execInlineEnable
  with_reducible repeat' (first | assumption | apply Keeps.next | apply keeps_busWrite)

theorem keeps_execInlineDisable {s0 s : State} (hk : Keeps s0 s) (i : Nat) (v : Word64) (be : BitVec 8) :
    KeepsO s0 (execInlineDisable i v be s) := by
  unfold execInlineDisable
  with_reducible repeat' (first | assumption | apply Keeps.next | apply keeps_busWrite)

theorem keeps_execFlush {s0 s : State} (hk : Keeps s0 s) (i : Nat) (v : Word64) (be : BitVec 8) :
    KeepsO s0 (execFlush i v be s) := by
  unfold execFlush
  with_reducible repeat' (first | assumption | apply Keeps.next | apply keeps_busWrite)

theorem keeps_execContextEnable {s0 s : State} (hk : Keeps s0 s) (c : Nat) (v : Word64) (be : BitVec 8) :
    KeepsO s0 (execContextEnable c v be s) := by
  unfold execContextEnable
  with_reducible repeat' (first | assumption | apply Keeps.next | apply keeps_busWrite)

theorem keeps_execContextDisable {s0 s : State} (hk : Keeps s0 s) (c : Nat) (v : Word64) (be : BitVec 8) :
    KeepsO s0 (execContextDisable c v be s) := by
  unfold execContextDisable
  with_reducible repeat' (first | assumption | apply Keeps.next | apply keeps_busWrite)

theorem keeps_execDomainJoin {s0 s : State} (hk : Keeps s0 s) (v : Word64) (be : BitVec 8) :
    KeepsO s0 (execDomainJoin v be s) := by
  unfold execDomainJoin
  with_reducible repeat' (first | assumption | apply Keeps.next | apply keeps_busWrite)

theorem keeps_execDomainLeave {s0 s : State} (hk : Keeps s0 s) (v : Word64) (be : BitVec 8) :
    KeepsO s0 (execDomainLeave v be s) := by
  unfold execDomainLeave
  with_reducible repeat' (first | assumption | apply Keeps.next | apply keeps_busWrite)

theorem keeps_execErron {s0 s : State} (hk : Keeps s0 s) (v : Word64) (be : BitVec 8) :
    KeepsO s0 (execErron v be s) := by
  unfold execErron
  with_reducible repeat' (first | assumption | apply Keeps.next | apply keeps_busWrite)

theorem keeps_execLoad {s0 s : State} (hk : Keeps s0 s) (v : Word64) (be : BitVec 8) :
    KeepsO s0 (execLoad v be s) := by
  unfold execLoad
  with_reducible repeat' (first | assumption | apply Keeps.next | apply keeps_busWrite)

theorem keeps_execImgdata {s0 s : State} (hk : Keeps s0 s) (v : Word64) (be : BitVec 8) :
    KeepsO s0 (execImgdata v be s) := by
  unfold execImgdata
  with_reducible repeat' (first | assumption | apply Keeps.next | apply keeps_busWrite)

theorem keeps_execCommit {s0 s : State} (hk : Keeps s0 s) (v : Word64) (be : BitVec 8) :
    KeepsO s0 (execCommit v be s) := by
  unfold execCommit
  with_reducible repeat' (first | assumption | apply Keeps.next | apply keeps_busWrite)

theorem keeps_execEngineEnable {s0 s : State} (hk : Keeps s0 s) (e : Nat) (v : Word64) (be : BitVec 8) :
    KeepsO s0 (execEngineEnable e v be s) := by
  unfold execEngineEnable
  with_reducible repeat' (first | assumption | apply Keeps.next | apply keeps_busWrite)

theorem keeps_execEngineDisable {s0 s : State} (hk : Keeps s0 s) (e : Nat) (v : Word64) (be : BitVec 8) :
    KeepsO s0 (execEngineDisable e v be s) := by
  unfold execEngineDisable
  with_reducible repeat' (first | assumption | apply Keeps.next | apply keeps_busWrite)

theorem keeps_execLinken {s0 s : State} (hk : Keeps s0 s) (pe : Nat) (v : Word64) (be : BitVec 8) :
    KeepsO s0 (execLinken pe v be s) := by
  unfold execLinken
  with_reducible repeat' (first | assumption | apply Keeps.next | apply keeps_busWrite)

theorem keeps_execFreq {s0 s : State} (hk : Keeps s0 s) (e : Nat) (v : Word64) (be : BitVec 8) :
    KeepsO s0 (execFreq e v be s) := by
  unfold execFreq
  with_reducible repeat' (first | assumption | apply Keeps.next | apply keeps_busWrite)

theorem keeps_execSnap {s0 s : State} (hk : Keeps s0 s) (v : Word64) (be : BitVec 8) :
    KeepsO s0 (execSnap v be s) := by
  unfold execSnap
  with_reducible repeat' (first | assumption | apply Keeps.next | apply keeps_busWrite)

theorem keeps_execTraceOn {s0 s : State} (hk : Keeps s0 s) (v : Word64) (be : BitVec 8) :
    KeepsO s0 (execTraceOn v be s) := by
  unfold execTraceOn
  with_reducible repeat' (first | assumption | apply Keeps.next | apply keeps_busWrite)

theorem keeps_execTraceOff {s0 s : State} (hk : Keeps s0 s) (v : Word64) (be : BitVec 8) :
    KeepsO s0 (execTraceOff v be s) := by
  unfold execTraceOff
  with_reducible repeat' (first | assumption | apply Keeps.next | apply keeps_busWrite)

theorem keeps_execRelease {s0 s : State} (hk : Keeps s0 s) (v : Word64) (be : BitVec 8) :
    KeepsO s0 (execRelease v be s) := by
  unfold execRelease
  with_reducible repeat' (first | assumption | apply Keeps.next | apply keeps_busWrite)

theorem keeps_execStopall {s0 s : State} (hk : Keeps s0 s) (v : Word64) (be : BitVec 8) :
    KeepsO s0 (execStopall v be s) := by
  unfold execStopall
  with_reducible repeat' (first | assumption | apply Keeps.next | apply keeps_busWrite)

theorem keeps_execRegisterWrite {s0 s : State} (hk : Keeps s0 s) (parityOk : Bool) (off : Nat) (v : Word64) (be : BitVec 8) :
    KeepsO s0 (execRegisterWrite parityOk off v be s) := by
  unfold execRegisterWrite
  with_reducible repeat' (first | assumption | apply Keeps.next | apply keeps_busParity | apply keeps_busWrite | split)

end Sys2Proof.Machine
end

