-- ==== Sys2Proof/WellFormed.lean ====
section
/-! DEFINITION. Well-formed commands: every operand lies in the range that the spec gives what it names: contexts (09),
engines (Table 9.1), PEs, windows, PDs and inline windows (08, 14), words of their entries, the fields of a frame
(Table 12.3), doorbell and inline accesses (R161, R351), pins (Table 17.5). A command's meaning is total; the ranges are what
the boundary can ask for. -/

namespace Sys2Proof

/-- Every header field fits its place (R246, Table 12.3), and PLEN bytes of payload follow it. -/
def FrameHdr.wf (h : FrameHdr) (bytes : Nat) : Bool :=
  decide (h.version < 2 ^ 4) && decide (h.ftype < 2 ^ 4) && decide (h.domain < 2 ^ 16) && decide (h.job < 2 ^ 12) &&
  decide (h.ticket < 2 ^ 48) && decide (h.bucket < 2 ^ 16) && decide (h.chunk < 2 ^ 18) && decide (h.course < 2 ^ 15) &&
  decide (h.src < 2 ^ 15) && decide (h.dst < 2 ^ 15) && decide (h.pfmt < 2 ^ 6) && decide (h.plen < 2 ^ 14) &&
  decide (h.mlen < 2 ^ 9) && decide (h.qlen < 2 ^ 11) && decide (h.seq < 2 ^ 16) && decide (h.flags < 2 ^ 8) &&
  decide (h.kind < 2 ^ 4) && decide (h.plen = bytes)

/-- A received frame is well-formed. -/
def RxFrame.wf (f : RxFrame) : Bool := decide (f.proto < 2 ^ 16) && f.frame.hdr.wf f.frame.payload.length

/-- A detection names a unit and a quire of Table 15.4, a syndrome of 32 bits, a place of 40 bits, a slot, and an engine. -/
def Detection.wf (d : Detection) : Bool :=
  (decide (d.unit ≤ 0x11) || d.unit == 0x1E) && decide (d.quire < 16) && decide (d.synd < 2 ^ 32) && decide (d.win < 4096) &&
  decide (d.loc < 2 ^ 40) && d.seq.all (fun q => decide (q < 65536)) && d.eng.all (fun e => decide (e < 128)) &&
  d.chunk.all (fun x => decide (x.1 < 4096)) && d.addr.all (fun a => decide (a < 2 ^ 48))

/-- What a part meets is well-formed. -/
def PartStatus.wf (p : PartStatus) : Bool := match p with | .failed k => k.wf | _ => true

/-- TAG is 16 bits wide and PD 8 (Table 17.9). -/
def Asker.wf (w : Asker) : Bool := decide (w.tag < 2 ^ 16) && decide (w.pd < 256)

/-- What a response answers is named by a context, a slot and a window. -/
def RespFor.wf (r : RespFor) : Bool :=
  match r with
  | .tag _ => true
  | .read c q w _ => decide (c < 4096) && decide (q < 65536) && decide (w < 4096)
  | .block c q a => decide (c < 4096) && decide (q < 65536) && decide (a < 2 ^ 48)

namespace Instr

/-- The context that a command names. -/
def context? (i : Instr) : Option Nat :=
  match i with
  | .convert c | .quantise c | .dequantise c | .rotate c | .fold c | .reduce c | .stats c | .sample c | .fillRandom c
  | .recipe c | .collective c | .rebond c | .ticketLease c | .signature c | .fence c | .ribbon c | .saveContext c
  | .restoreContext c | .drain c | .nop c | .descriptorFetch c | .stripIssue c _ | .flagPoll c _ _ | .chunkDone c _ _ _
  | .drainExchange c _ | .outputStage c _ | .completionWrite c _ | .contextImageWrite c _ | .bucketIssue c _
  | .chainStart c _ _ | .leaseRetry c _ | .leaseTimeout c _ | .contextEnable c _ _ | .contextDisable c _ _ => some c
  | _ => none

/-- The slot of a fetched descriptor that a command names. -/
def slot? (i : Instr) : Option Nat :=
  match i with
  | .flagPoll _ q _ | .chunkDone _ q _ _ | .completionWrite _ q
  | .contextImageWrite _ q | .bucketIssue _ q | .chainStart _ q _ | .leaseRetry _ q | .leaseTimeout _ q => some q
  | .drainExchange _ w | .outputStage _ w => some w.seq
  | _ => none

/-- The engine that a command names. -/
def engine? (i : Instr) : Option Nat :=
  match i with
  | .contextResident e | .stackResponse e _ _ | .networkResponse e _ _ _ | .selfTestStart e _ _ | .selfTestEnd e _ _ _ _ _
  | .samplePoint e | .clockChange e | .watchIdleTimeout e | .ribbonMarker e | .cutCapture e | .epochDelivery e
  | .islandPowerGood e | .pllLock e | .sramClearDone e | .bootSelfTestEnd e _ _ _ _ _ | .quiesceEnd e | .engineEnable e _ _
  | .engineDisable e _ _ | .freq e _ _ | .testAccessWrite e _ _ | .watchStartingEnd e | .merge e _ _ _ => some e
  | _ => none

/-- The PE whose link a command names. -/
def port? (i : Instr) : Option Nat :=
  match i with
  | .data p _ | .ack p _ | .nak p _ | .credit p _ | .announce p _ | .abort p _ | .heartbeat p _ | .leaseReq p _
  | .leaseGrant p _ | .mark p _ | .markAck p _ | .join p _ | .joined p _ | .elected p _ | .heartbeatTimer p _
  | .declareLost p _ | .lostProbe p _ | .ackTimer p _ _ _ | .creditDelay p _ _ _ | .creditRepeat p _ _ _
  | .retransmitTimeout p _ _ _ | .linkDown p | .linkUp p | .pauseIn p _ _ | .linken p _ _ => some p
  | _ => none

/-- The received frame of a command. -/
def frame? (i : Instr) : Option RxFrame :=
  match i with
  | .data _ f | .ack _ f | .nak _ f | .credit _ f | .announce _ f | .abort _ f | .heartbeat _ f | .leaseReq _ f
  | .leaseGrant _ f | .mark _ f | .markAck _ f | .join _ f | .joined _ f | .elected _ f => some f
  | _ => none

/-- The operands that only one row or a few rows have. -/
def ownOk (i : Instr) : Bool :=
  match i with
  | .stripIssue _ det => det.all Detection.wf
  | .drainExchange _ w | .outputStage _ w => w.det.all Detection.wf
  | .chunkDone _ _ w _ => decide (w < 4096)
  | .doorbell _ _ off _ _ => decide (off < 4096 * 0x1000)
  | .inlineRead _ ps a who n => decide (a < 2 ^ 48) && who.wf && decide (0 < n) && ps.all PartStatus.wf
  | .inlineWrite _ ps a who l => decide (a < 2 ^ 48) && who.wf && !l.isEmpty && ps.all PartStatus.wf
  | .merge _ i _ part => decide (i < 256) && part.wf
  | .inlineActivate i | .inlineEnable i _ _ | .inlineDisable i _ _ | .flush i _ _ => decide (i < 256)
  | .stackResponse _ r _ | .networkResponse _ r _ _ => r.wf
  | .heartbeatTimer _ d | .declareLost _ d | .lostProbe _ d => decide (d < 2 ^ 15)
  | .ackTimer _ j t d | .creditDelay _ j t d | .creditRepeat _ j t d | .retransmitTimeout _ j t d =>
    decide (j < 4096) && decide (t < 2 ^ 48) && decide (d < 2 ^ 15)
  | .pauseIn _ n _ => decide (n < 8)
  | .selfTestStart _ u q | .selfTestEnd _ u q _ _ _ | .bootSelfTestEnd _ _ u q _ _ => decide (u ≤ 0x11) && decide (q < 16)
  | .windowDefine w _ _ | .windowWithdraw w _ _ => decide (w < 4096)
  | .windowEdit w k _ _ => decide (w < 4096) && decide (k < 4)
  | .pdWrite d k _ _ => decide (d < 256) && decide (k < 2)
  | .rcRead off | .registerWrite _ off _ _ => decide (off < 0x1000000) && off % 8 == 0
  | .vddFabPgLow d | .vddFabPgHigh d => decide (d < 4)
  | _ => true

/-- A well-formed command. -/
def wf (i : Instr) : Bool :=
  i.context?.all (fun c => decide (c < 4096)) && i.slot?.all (fun q => decide (q < 65536)) &&
  i.engine?.all (fun e => decide (e < 128)) && i.port?.all (fun p => decide (p < 32)) && i.frame?.all RxFrame.wf && i.ownOk

end Instr

end Sys2Proof
end

