-- ==== Sys2Proof/Laws/PerInstr.lean ====
section
/-! SUPPORT. For every command: a well-formed command names a context, a slot, an engine and a PE that exist. -/

namespace Sys2Proof.Laws

/-- What a well-formed command names exists: one of the 4,096 contexts, a 16-bit slot, one of the 128 engines, one of the 32
PEs. -/
def Bounds.Statement (i : Instr) : Prop :=
  i.wf = true → (∀ c, i.context? = some c → c < 4096) ∧ (∀ q, i.slot? = some q → q < 65536) ∧
    (∀ e, i.engine? = some e → e < 128) ∧ (∀ p, i.port? = some p → p < 32)

theorem bounds_of_wf (i : Instr) : Bounds.Statement i := by
  intro h
  simp only [Instr.wf, Bool.and_eq_true] at h
  obtain ⟨⟨⟨⟨⟨hc, hq⟩, he⟩, hp⟩, -⟩, -⟩ := h
  refine ⟨fun c hx => ?_, fun q hx => ?_, fun e hx => ?_, fun p hx => ?_⟩
  · simpa [hx] using hc
  · simpa [hx] using hq
  · simpa [hx] using he
  · simpa [hx] using hp

theorem Bounds.convert (c : Nat) : Bounds.Statement (.convert c) := bounds_of_wf _
theorem Bounds.quantise (c : Nat) : Bounds.Statement (.quantise c) := bounds_of_wf _
theorem Bounds.dequantise (c : Nat) : Bounds.Statement (.dequantise c) := bounds_of_wf _
theorem Bounds.rotate (c : Nat) : Bounds.Statement (.rotate c) := bounds_of_wf _
theorem Bounds.fold (c : Nat) : Bounds.Statement (.fold c) := bounds_of_wf _
theorem Bounds.reduce (c : Nat) : Bounds.Statement (.reduce c) := bounds_of_wf _
theorem Bounds.stats (c : Nat) : Bounds.Statement (.stats c) := bounds_of_wf _
theorem Bounds.sample (c : Nat) : Bounds.Statement (.sample c) := bounds_of_wf _
theorem Bounds.fillRandom (c : Nat) : Bounds.Statement (.fillRandom c) := bounds_of_wf _
theorem Bounds.recipe (c : Nat) : Bounds.Statement (.recipe c) := bounds_of_wf _
theorem Bounds.collective (c : Nat) : Bounds.Statement (.collective c) := bounds_of_wf _
theorem Bounds.rebond (c : Nat) : Bounds.Statement (.rebond c) := bounds_of_wf _
theorem Bounds.ticketLease (c : Nat) : Bounds.Statement (.ticketLease c) := bounds_of_wf _
theorem Bounds.signature (c : Nat) : Bounds.Statement (.signature c) := bounds_of_wf _
theorem Bounds.fence (c : Nat) : Bounds.Statement (.fence c) := bounds_of_wf _
theorem Bounds.ribbon (c : Nat) : Bounds.Statement (.ribbon c) := bounds_of_wf _
theorem Bounds.saveContext (c : Nat) : Bounds.Statement (.saveContext c) := bounds_of_wf _
theorem Bounds.restoreContext (c : Nat) : Bounds.Statement (.restoreContext c) := bounds_of_wf _
theorem Bounds.drain (c : Nat) : Bounds.Statement (.drain c) := bounds_of_wf _
theorem Bounds.nop (c : Nat) : Bounds.Statement (.nop c) := bounds_of_wf _
theorem Bounds.descriptorFetch (c : Nat) : Bounds.Statement (.descriptorFetch c) := bounds_of_wf _
theorem Bounds.stripIssue (c : Nat) (det : Option Detection) : Bounds.Statement (.stripIssue c det) := bounds_of_wf _
theorem Bounds.flagPoll (c seq : Nat) (word : Word32) : Bounds.Statement (.flagPoll c seq word) := bounds_of_wf _
theorem Bounds.chunkDone (c seq win chunk : Nat) : Bounds.Statement (.chunkDone c seq win chunk) := bounds_of_wf _
theorem Bounds.drainExchange (c : Nat) (step : DrainStep) : Bounds.Statement (.drainExchange c step) := bounds_of_wf _
theorem Bounds.outputStage (c : Nat) (step : DrainStep) : Bounds.Statement (.outputStage c step) := bounds_of_wf _
theorem Bounds.completionWrite (c seq : Nat) : Bounds.Statement (.completionWrite c seq) := bounds_of_wf _
theorem Bounds.contextResident (e : Nat) : Bounds.Statement (.contextResident e) := bounds_of_wf _
theorem Bounds.contextImageWrite (c seq : Nat) : Bounds.Statement (.contextImageWrite c seq) := bounds_of_wf _
theorem Bounds.doorbell (isWrite parityOk : Bool) (off size : Nat) (value : Word64) : Bounds.Statement (.doorbell isWrite parityOk off size value) := bounds_of_wf _
theorem Bounds.inlineRead (parityOk : Bool) (parts : List PartStatus) (addr : Nat) (who : Asker) (len : Nat) : Bounds.Statement (.inlineRead parityOk parts addr who len) := bounds_of_wf _
theorem Bounds.inlineWrite (parityOk : Bool) (parts : List PartStatus) (addr : Nat) (who : Asker) (data : List (Option Byte)) : Bounds.Statement (.inlineWrite parityOk parts addr who data) := bounds_of_wf _
theorem Bounds.merge (se i block : Nat) (part : PartStatus) : Bounds.Statement (.merge se i block part) := bounds_of_wf _
theorem Bounds.inlineActivate (i : Nat) : Bounds.Statement (.inlineActivate i) := bounds_of_wf _
theorem Bounds.stackResponse (e : Nat) (r : RespFor) (st : RespStatus) : Bounds.Statement (.stackResponse e r st) := bounds_of_wf _
theorem Bounds.networkResponse (e : Nat) (r : RespFor) (st : RespStatus) (data : Word32) : Bounds.Statement (.networkResponse e r st data) := bounds_of_wf _
theorem Bounds.data (pe : Nat) (f : RxFrame) : Bounds.Statement (.data pe f) := bounds_of_wf _
theorem Bounds.ack (pe : Nat) (f : RxFrame) : Bounds.Statement (.ack pe f) := bounds_of_wf _
theorem Bounds.nak (pe : Nat) (f : RxFrame) : Bounds.Statement (.nak pe f) := bounds_of_wf _
theorem Bounds.credit (pe : Nat) (f : RxFrame) : Bounds.Statement (.credit pe f) := bounds_of_wf _
theorem Bounds.announce (pe : Nat) (f : RxFrame) : Bounds.Statement (.announce pe f) := bounds_of_wf _
theorem Bounds.abort (pe : Nat) (f : RxFrame) : Bounds.Statement (.abort pe f) := bounds_of_wf _
theorem Bounds.heartbeat (pe : Nat) (f : RxFrame) : Bounds.Statement (.heartbeat pe f) := bounds_of_wf _
theorem Bounds.leaseReq (pe : Nat) (f : RxFrame) : Bounds.Statement (.leaseReq pe f) := bounds_of_wf _
theorem Bounds.leaseGrant (pe : Nat) (f : RxFrame) : Bounds.Statement (.leaseGrant pe f) := bounds_of_wf _
theorem Bounds.mark (pe : Nat) (f : RxFrame) : Bounds.Statement (.mark pe f) := bounds_of_wf _
theorem Bounds.markAck (pe : Nat) (f : RxFrame) : Bounds.Statement (.markAck pe f) := bounds_of_wf _
theorem Bounds.join (pe : Nat) (f : RxFrame) : Bounds.Statement (.join pe f) := bounds_of_wf _
theorem Bounds.joined (pe : Nat) (f : RxFrame) : Bounds.Statement (.joined pe f) := bounds_of_wf _
theorem Bounds.elected (pe : Nat) (f : RxFrame) : Bounds.Statement (.elected pe f) := bounds_of_wf _
theorem Bounds.bucketIssue (c seq : Nat) : Bounds.Statement (.bucketIssue c seq) := bounds_of_wf _
theorem Bounds.chainStart (c seq chain : Nat) : Bounds.Statement (.chainStart c seq chain) := bounds_of_wf _
theorem Bounds.heartbeatTimer (pe dev : Nat) : Bounds.Statement (.heartbeatTimer pe dev) := bounds_of_wf _
theorem Bounds.declareLost (pe dev : Nat) : Bounds.Statement (.declareLost pe dev) := bounds_of_wf _
theorem Bounds.lostProbe (pe dev : Nat) : Bounds.Statement (.lostProbe pe dev) := bounds_of_wf _
theorem Bounds.ackTimer (pe job ticket src : Nat) : Bounds.Statement (.ackTimer pe job ticket src) := bounds_of_wf _
theorem Bounds.creditDelay (pe job ticket src : Nat) : Bounds.Statement (.creditDelay pe job ticket src) := bounds_of_wf _
theorem Bounds.creditRepeat (pe job ticket src : Nat) : Bounds.Statement (.creditRepeat pe job ticket src) := bounds_of_wf _
theorem Bounds.retransmitTimeout (pe job ticket dst : Nat) : Bounds.Statement (.retransmitTimeout pe job ticket dst) := bounds_of_wf _
theorem Bounds.joinRetry : Bounds.Statement (.joinRetry) := bounds_of_wf _
theorem Bounds.leaseRetry (c seq : Nat) : Bounds.Statement (.leaseRetry c seq) := bounds_of_wf _
theorem Bounds.leaseTimeout (c seq : Nat) : Bounds.Statement (.leaseTimeout c seq) := bounds_of_wf _
theorem Bounds.linkDown (pe : Nat) : Bounds.Statement (.linkDown pe) := bounds_of_wf _
theorem Bounds.linkUp (pe : Nat) : Bounds.Statement (.linkUp pe) := bounds_of_wf _
theorem Bounds.pauseIn (pe prio : Nat) (on : Bool) : Bounds.Statement (.pauseIn pe prio on) := bounds_of_wf _
theorem Bounds.selfTestStart (e unit quire : Nat) : Bounds.Statement (.selfTestStart e unit quire) := bounds_of_wf _
theorem Bounds.selfTestEnd (e unit quire : Nat) (pass : Bool) (pattern us : Nat) : Bounds.Statement (.selfTestEnd e unit quire pass pattern us) := bounds_of_wf _
theorem Bounds.samplePoint (e : Nat) : Bounds.Statement (.samplePoint e) := bounds_of_wf _
theorem Bounds.powerCapPeriod : Bounds.Statement (.powerCapPeriod) := bounds_of_wf _
theorem Bounds.clockChange (e : Nat) : Bounds.Statement (.clockChange e) := bounds_of_wf _
theorem Bounds.watchIdleTimeout (e : Nat) : Bounds.Statement (.watchIdleTimeout e) := bounds_of_wf _
theorem Bounds.tracePortTraining : Bounds.Statement (.tracePortTraining) := bounds_of_wf _
theorem Bounds.aggregateRecord : Bounds.Statement (.aggregateRecord) := bounds_of_wf _
theorem Bounds.ribbonGrant : Bounds.Statement (.ribbonGrant) := bounds_of_wf _
theorem Bounds.ribbonMarker (e : Nat) : Bounds.Statement (.ribbonMarker e) := bounds_of_wf _
theorem Bounds.cutCapture (e : Nat) : Bounds.Statement (.cutCapture e) := bounds_of_wf _
theorem Bounds.epochDelivery (e : Nat) : Bounds.Statement (.epochDelivery e) := bounds_of_wf _
theorem Bounds.epochDoneRise : Bounds.Statement (.epochDoneRise) := bounds_of_wf _
theorem Bounds.islandPowerGood (e : Nat) : Bounds.Statement (.islandPowerGood e) := bounds_of_wf _
theorem Bounds.pllLock (e : Nat) : Bounds.Statement (.pllLock e) := bounds_of_wf _
theorem Bounds.sramClearDone (e : Nat) : Bounds.Statement (.sramClearDone e) := bounds_of_wf _
theorem Bounds.bootSelfTestEnd (e : Nat) (pass : Bool) (unit quire pattern us : Nat) : Bounds.Statement (.bootSelfTestEnd e pass unit quire pattern us) := bounds_of_wf _
theorem Bounds.quiesceEnd (e : Nat) : Bounds.Statement (.quiesceEnd e) := bounds_of_wf _
theorem Bounds.windowDefine (w : Nat) (v : Word64) (be : BitVec 8) : Bounds.Statement (.windowDefine w v be) := bounds_of_wf _
theorem Bounds.windowWithdraw (w : Nat) (v : Word64) (be : BitVec 8) : Bounds.Statement (.windowWithdraw w v be) := bounds_of_wf _
theorem Bounds.windowEdit (w word : Nat) (v : Word64) (be : BitVec 8) : Bounds.Statement (.windowEdit w word v be) := bounds_of_wf _
theorem Bounds.pdWrite (d word : Nat) (v : Word64) (be : BitVec 8) : Bounds.Statement (.pdWrite d word v be) := bounds_of_wf _
theorem Bounds.inlineEnable (i : Nat) (v : Word64) (be : BitVec 8) : Bounds.Statement (.inlineEnable i v be) := bounds_of_wf _
theorem Bounds.inlineDisable (i : Nat) (v : Word64) (be : BitVec 8) : Bounds.Statement (.inlineDisable i v be) := bounds_of_wf _
theorem Bounds.flush (i : Nat) (v : Word64) (be : BitVec 8) : Bounds.Statement (.flush i v be) := bounds_of_wf _
theorem Bounds.contextEnable (c : Nat) (v : Word64) (be : BitVec 8) : Bounds.Statement (.contextEnable c v be) := bounds_of_wf _
theorem Bounds.contextDisable (c : Nat) (v : Word64) (be : BitVec 8) : Bounds.Statement (.contextDisable c v be) := bounds_of_wf _
theorem Bounds.domainJoin (v : Word64) (be : BitVec 8) : Bounds.Statement (.domainJoin v be) := bounds_of_wf _
theorem Bounds.domainLeave (v : Word64) (be : BitVec 8) : Bounds.Statement (.domainLeave v be) := bounds_of_wf _
theorem Bounds.erron (v : Word64) (be : BitVec 8) : Bounds.Statement (.erron v be) := bounds_of_wf _
theorem Bounds.load (v : Word64) (be : BitVec 8) : Bounds.Statement (.load v be) := bounds_of_wf _
theorem Bounds.imgdata (v : Word64) (be : BitVec 8) : Bounds.Statement (.imgdata v be) := bounds_of_wf _
theorem Bounds.commit (v : Word64) (be : BitVec 8) : Bounds.Statement (.commit v be) := bounds_of_wf _
theorem Bounds.engineEnable (e : Nat) (v : Word64) (be : BitVec 8) : Bounds.Statement (.engineEnable e v be) := bounds_of_wf _
theorem Bounds.engineDisable (e : Nat) (v : Word64) (be : BitVec 8) : Bounds.Statement (.engineDisable e v be) := bounds_of_wf _
theorem Bounds.linken (pe : Nat) (v : Word64) (be : BitVec 8) : Bounds.Statement (.linken pe v be) := bounds_of_wf _
theorem Bounds.freq (e : Nat) (v : Word64) (be : BitVec 8) : Bounds.Statement (.freq e v be) := bounds_of_wf _
theorem Bounds.snap (v : Word64) (be : BitVec 8) : Bounds.Statement (.snap v be) := bounds_of_wf _
theorem Bounds.traceOn (v : Word64) (be : BitVec 8) : Bounds.Statement (.traceOn v be) := bounds_of_wf _
theorem Bounds.traceOff (v : Word64) (be : BitVec 8) : Bounds.Statement (.traceOff v be) := bounds_of_wf _
theorem Bounds.release (v : Word64) (be : BitVec 8) : Bounds.Statement (.release v be) := bounds_of_wf _
theorem Bounds.stopall (v : Word64) (be : BitVec 8) : Bounds.Statement (.stopall v be) := bounds_of_wf _
theorem Bounds.rcRead (off : Nat) : Bounds.Statement (.rcRead off) := bounds_of_wf _
theorem Bounds.registerWrite (parityOk : Bool) (off : Nat) (v : Word64) (be : BitVec 8) : Bounds.Statement (.registerWrite parityOk off v be) := bounds_of_wf _
theorem Bounds.testAccessWrite (e sel : Nat) (v : Word64) : Bounds.Statement (.testAccessWrite e sel v) := bounds_of_wf _
theorem Bounds.aonRstAssert : Bounds.Statement (.aonRstAssert) := bounds_of_wf _
theorem Bounds.aonRstRelease (stable : Bool) : Bounds.Statement (.aonRstRelease stable) := bounds_of_wf _
theorem Bounds.aonPgRise : Bounds.Statement (.aonPgRise) := bounds_of_wf _
theorem Bounds.fabRstAssert : Bounds.Statement (.fabRstAssert) := bounds_of_wf _
theorem Bounds.fabRstRelease : Bounds.Statement (.fabRstRelease) := bounds_of_wf _
theorem Bounds.vddFabPgLow (d : Nat) : Bounds.Statement (.vddFabPgLow d) := bounds_of_wf _
theorem Bounds.vddFabPgHigh (d : Nat) : Bounds.Statement (.vddFabPgHigh d) := bounds_of_wf _
theorem Bounds.vddAonPgLow : Bounds.Statement (.vddAonPgLow) := bounds_of_wf _
theorem Bounds.vddAonPgHigh : Bounds.Statement (.vddAonPgHigh) := bounds_of_wf _
theorem Bounds.watchStartingEnd (e : Nat) : Bounds.Statement (.watchStartingEnd e) := bounds_of_wf _

end Sys2Proof.Laws
end

