-- ==== Sys2Proof/Tests/Slice0.lean ====
section
/-! SUPPORT. The model's own tests. First the well-formedness smoke: for each check of WellFormed one command that it
refuses. Then the witnesses: for each statement a state and operands that meet its hypotheses together, clause by clause.
Last the spec's own examples and tables, small results whose values the spec gives. -/

namespace Sys2Proof.Tests

open Sys2Proof Sys2Proof.Machine

/-! ## Well-formedness: what each check refuses -/

theorem test_wf_accepts : ([.convert 4095, .flagPoll 0 65535 0, .pllLock 127, .linkDown 31, .windowEdit 4095 3 0 0,
    .stripIssue 0 (some { unit := 0x11 }), .ack 0 {}, .rcRead 0xFFFFF8] : List Instr).all (·.wf) = true := by decide

theorem test_wf_context : (Instr.convert 4096).wf = false := by decide
theorem test_wf_slot : (Instr.flagPoll 0 65536 0).wf = false := by decide
theorem test_wf_engine : (Instr.pllLock 128).wf = false := by decide
theorem test_wf_port : (Instr.linkDown 32).wf = false := by decide
theorem test_wf_frame : ([.ack 0 { proto := 0x10000 }, .ack 0 { frame := { hdr := { ftype := 16 } } },
    .data 0 { frame := { hdr := { plen := 1 } } }, .nak 0 { frame := { hdr := { ticket := 2 ^ 48 } } }] : List Instr).any (·.wf) =
    false := by decide
theorem test_wf_own : ([.stripIssue 0 (some { unit := 0x12 }), .stripIssue 0 (some { quire := 16 }), .chunkDone 0 0 4096 0,
    .stripIssue 0 (some { eng := some 128 }), .stripIssue 0 (some { chunk := some (4096, 0) }),
    .outputStage 0 { det := some { synd := 2 ^ 32 } }, .doorbell true true 0x1000000 4 0, .inlineRead true [] (2 ^ 48) {} 1,
    .inlineRead true [] 0 { pd := 256 } 1, .inlineRead true [] 0 { tag := 65536 } 1, .inlineRead true [] 0 {} 0,
    .inlineRead true [.failed { unit := 0x12 }] 0 {} 1, .inlineWrite true [] 0 {} [], .merge 0 256 0 .ok, .inlineActivate 256,
    .stackResponse 0 (.read 4096 0 0 0) .ok, .networkResponse 0 (.block 0 0 (2 ^ 48)) .ok 0, .heartbeatTimer 0 32768,
    .ackTimer 0 4096 0 0, .ackTimer 0 0 (2 ^ 48) 0, .pauseIn 0 8 true, .selfTestStart 0 0x12 0, .windowDefine 4096 0 0,
    .windowEdit 0 4 0 0, .pdWrite 256 0 0 0, .pdWrite 0 2 0 0, .rcRead 4, .registerWrite true 0x1000000 0 0,
    .vddFabPgLow 4] : List Instr).any (·.wf) = false := by decide

/-- No word spells a command: the table gives its rows no bits. -/
theorem test_decode_none : decodeTableWord 32 0 = none ∧ State.reset.withFetchWord 32 0 = State.reset := ⟨rfl, rfl⟩

/-! ## States for the tests -/

/-- The header words of a descriptor in slot 5: opcode and flags, source and destination at the start of windows 1 and 2,
SUB, COUNT, the two format words, SEED. -/
def words (op fl sub n sf df : Nat) : List Nat :=
  [op + fl * 2 ^ 8 + 5 * 2 ^ 16, 1 * 2 ^ 40 + 2 * 2 ^ 52, sub * 2 ^ 56, n, sf, df, 7, 0]

/-- The header words of a descriptor that names no window. -/
def bare (op : Nat) : List Nat := [op + 5 * 2 ^ 16, 0, 0, 0, 0, 0, 0, 0]

/-- E4M3 in ashlars of 16 with E8M0 scales. -/
def packed : Nat := 0x03 * 2 ^ 58 + 0x20 * 2 ^ 52 + 2 ^ 50

def pinsUp : Pins := { aonRstN := true, fabRstN := true, aonPg := true, fabReady := true }
def se : Engine := { st := .on, enable := true, fcur := 800, epoch := 1 }
def pe : Engine := { se with linkEn := true, linkUp := true }
def cset (e : Nat) : CtxSet :=
  { pd := 1, engine := e, tileSlots := 4, sqBase := 0x800, cqBase := 0x900, paramBase := 0x1000 }
def cres (e : Nat) (l : List Desc) : Ctx := { enable := true, resident := true, reg := cset e, use := cset e, descs := l }
def wnd (k : Nat) : Window := { valid := true, chunk := 0, owner := 1, size := 4, base := 16 * k }

/-- A running block: SE 0 and PE 0, windows 1 to 3 of 16 KiB in chunks of 4 KiB (3 with flags), PD 1, context 1 on engine
`e` with descriptors `l`, context 3 on SE 0; the device is member 4 of domain 9, its keystone device 6. -/
def blk (e : Nat) (l : List Desc) (m : Mem) : State :=
  { State.reset with
    pins := pinsUp, img := { stat := 2, adopted := some [] }, epoch := 1, engines := [(0, se), (96, pe)]
    windows := [(1, wnd 1), (2, wnd 2), (3, { wnd 3 with flagged := true, flags := 0x2000 })]
    pds := [(1, { valid := true, ctxAdm := true, ribbon := true })], ctxs := [(1, cres e l), (3, cres 0 [])], mem := m
    dom := { join := true, member := true, deviceId := 4, keystone := 6, domain := 9, domtab := 0x4000 } }

/-- Words at the parameter block of a descriptor. -/
def parMem (l : List Nat) : Mem := Mem.wrBytes [] 0x40000 (l.map (leBytes 8)).flatten

/-- A descriptor of each streaming opcode, with its parameter block. -/
def streamCases : List (Nat × Desc × List Nat) := [
  (0x01, { seq := 5, words := words 0x01 0 0 4 0 (2 ^ 58) }, []),
  (0x02, { seq := 5, words := words 0x02 0 0 16 0 packed }, []),
  (0x03, { seq := 5, words := words 0x03 0 0 16 packed 0 }, []),
  (0x04, { seq := 5, words := words 0x04 0 4 16 0 0 }, []),
  (0x05, { seq := 5, words := words 0x05 8 0 1 2 0 }, [3 * 2 ^ 40, 0, 2, 0, 1, 1, 0, 1 + 2 ^ 8]),
  (0x06, { seq := 5, words := words 0x06 0 0 4 0 0 }, []),
  (0x07, { seq := 5, words := (words 0x07 0 0 4 0 0).set 6 0 }, []),
  (0x08, { seq := 5, words := words 0x08 0 0 1 0 (3 * 2 ^ 52 + 3 * 2 ^ 40) }, []),
  (0x09, { seq := 5, words := (words 0x09 0 1 4 0 0).set 1 (2 * 2 ^ 52) }, []),
  (0x0A, { seq := 5, words := words 0x0A 8 0 4 0 0 },
    [0x01 * 2 ^ 56 + 3 * 2 ^ 24 + 2 ^ 39 + 2 ^ 38, 0x10 * 2 ^ 56, 0x11 * 2 ^ 56 + 2 ^ 33])]


/-! ## Witnesses: fetching and admitting -/

/-- What the parameter block's read leaves. -/
def lp (s : State) (d : Desc) : State × List Nat := (loadParam s 1 d).getD (s, [])

theorem wit_StepRunsFront : step { blk 0 [] [] with pending := [.joinRetry, .nop 1] } =
    exec .joinRetry { blk 0 [] [] with pending := [.nop 1] } := rfl

theorem wit_QueueAndMapsKept : ∃ t, exec (.nop 1) (blk 0 [] []) = .next t := ⟨_, rfl⟩

theorem wit_IdleTick : State.reset.pending = [] ∧ (State.reset.pins.aonRstN && State.reset.pins.vddAon) = false ∧
    ({ blk 0 [] [] with engines := [] } : State).pending = [] ∧
    (({ blk 0 [] [] with engines := [] } : State).pins.aonRstN && ({ blk 0 [] [] with engines := [] } : State).pins.vddAon) = true ∧
    ({ blk 0 [] [] with engines := [] } : State).engines = [] ∧ ({ blk 0 [] [] with engines := [] } : State).trace.port = .idle := by
  decide

theorem wit_EveryStepIsSafe : MemOk State.reset ∧ MemOk (blk 0 [] (parMem [1, 2])) := by decide

/-- A context with 15 descriptors fetched, SQHEAD at 65535 and SQTAIL past the wrap. -/
def fetchAt : State := (blk 0 [] []).setCtx 1 { cres 0 ((List.range 15).map (fun k => { seq := k })) with
  sqHead := 65535, sqTail := 3, cqTail := 2, cqHead := 65534 }

theorem wit_DescriptorFetch : (fetchAt.eng (fetchAt.ctx 1).use.engine).works = true ∧
    (fetchAt.eng (fetchAt.ctx 1).use.engine).holding = false ∧ (fetchAt.ctx 1).resident = true ∧
    (fetchAt.ctx 1).enable = true ∧ (fetchAt.ctx 1).reEnable = false ∧ (fetchAt.ctx 1).saving = false ∧
    (fetchAt.ctx 1).restoring = false ∧ (fetchAt.ctx 1).ringErr = false ∧ (fetchAt.ctx 1).sqHead ≠ (fetchAt.ctx 1).sqTail ∧
    (fetchAt.ctx 1).descs.length < 16 ∧
    (fetchAt.ctx 1).descs.length + sub16 (fetchAt.ctx 1).cqTail (fetchAt.ctx 1).cqHead + 2 ≤ 2 ^ (fetchAt.ctx 1).use.cqLog2 := by
  decide

theorem wit_AdmitStreaming : ∀ x ∈ streamCases,
    Admits (blk 0 [x.2.1] (parMem x.2.2)) 1 x.1 x.2.1 (lp (blk 0 [x.2.1] (parMem x.2.2)) x.2.1).1
      (lp (blk 0 [x.2.1] (parMem x.2.2)) x.2.1).2 ∧
    (blk 0 [x.2.1] (parMem x.2.2)).desc? 1 x.2.1.seq = some x.2.1 ∧ x.2.1.count ≠ 0 := by decide +kernel

/-- The same commands with COUNT 0, those that write no record for it. -/
def noneCases : List (Nat × Desc × List Nat) :=
  (streamCases.filter (fun x => [0x01, 0x02, 0x03, 0x04, 0x06, 0x09, 0x0A].contains x.1)).map (fun x =>
    (x.1, { x.2.1 with words := x.2.1.words.set 3 0 }, x.2.2))

theorem wit_AdmitStreaming_none : noneCases.length = 7 ∧ ∀ x ∈ noneCases,
    Admits (blk 0 [x.2.1] (parMem x.2.2)) 1 x.1 x.2.1 (lp (blk 0 [x.2.1] (parMem x.2.2)) x.2.1).1
      (lp (blk 0 [x.2.1] (parMem x.2.2)) x.2.1).2 ∧ x.2.1.started = false ∧
    (blk 0 [x.2.1] (parMem x.2.2)).desc? 1 x.2.1.seq = some x.2.1 ∧ x.2.1.count = 0 ∧
    (x.2.1.watchCfg.active = true → ((blk 0 [x.2.1] (parMem x.2.2)).eng 0).watchFn = .on) := by decide +kernel

/-- A descriptor with a reserved flag bit set. -/
def badFlags (op : Nat) : Desc := { seq := 5, words := words op 0x80 0 1 0 0 }

theorem wit_AdmissionCheckFails :
    ∀ op ∈ [0x01, 0x02, 0x03, 0x04, 0x05, 0x06, 0x07, 0x08, 0x09, 0x0A, 0x10, 0x11, 0x12, 0x18, 0x20, 0x21, 0x22, 0x23, 0x24, 0x30],
      nextAdmit (blk 0 [badFlags op] []) 1 = some (badFlags op) ∧ (badFlags op).op = op ∧
      loadParam (blk 0 [badFlags op] []) 1 (badFlags op) = some (blk 0 [badFlags op] [], []) ∧
      tilesWait ((((blk 0 [badFlags op] []).ctx 1).descs).takeWhile (fun x => x.seq != (badFlags op).seq))
        { badFlags op with par := [] } = false ∧
      Desc.check (blk 0 [badFlags op] []) { badFlags op with par := [] } 1 5
        (if ({ badFlags op with par := [] } : Desc).isColl && (badFlags op).pb && isPe ((blk 0 [badFlags op] []).engOf 1) then
          groupFor (blk 0 [badFlags op] []) ((blk 0 [badFlags op] []).engOf 1 - 96) { badFlags op with par := [] } else {}) = some 0x12 ∧
      (blk 0 [badFlags op] []).desc? 1 (badFlags op).seq = some (badFlags op) := by decide

theorem wit_AdmitNopFence : ∀ op ∈ [0x20, 0x30],
    Admits (blk 0 [{ seq := 5, words := bare op }] []) 1 op { seq := 5, words := bare op }
      (blk 0 [{ seq := 5, words := bare op }] []) [] ∧
    (blk 0 [{ seq := 5, words := bare op }] []).desc? 1 5 = some { seq := 5, words := bare op } := by decide

theorem wit_AdmitNopFence_unknown : nextAdmit (blk 0 [{ seq := 5, words := bare 0xFF }] []) 1 = some { seq := 5, words := bare 0xFF } ∧
    (255 : Nat) ∉ [0x01, 0x02, 0x03, 0x04, 0x05, 0x06, 0x07, 0x08, 0x09, 0x0A, 0x10, 0x11, 0x12, 0x18, 0x20, 0x21, 0x22, 0x23, 0x24, 0x30] ∧
    loadParam (blk 0 [{ seq := 5, words := bare 0xFF }] []) 1 { seq := 5, words := bare 0xFF } =
      some (blk 0 [{ seq := 5, words := bare 0xFF }] [], []) := by decide

/-- An opcode that Table 0.4 does not hold: its first failing check is BAD_DESCRIPTOR. -/
theorem test_unknown_opcode :
    Desc.check (blk 0 [{ seq := 5, words := bare 0xFF }] []) { seq := 5, words := bare 0xFF } 1 5 {} = some 0x12 := by decide

/-- A DRAIN with OUT of the region at tile 1 of the float tiles: one row, one column. -/
def drainDesc : Desc := { seq := 5, words := (words 0x24 8 0 1 0 4).set 1 (2 * 2 ^ 52) }
def drainMem : Mem := parMem [0, 0, 0, 0, 0, 0, 0, 1 + 2 ^ 8 + 2 ^ 16 + 2 ^ 34]

/-- A RIBBON with tag 0xA5. -/
def ribbonDesc : Desc := { seq := 5, words := (bare 0x21).set 2 (0xA5 * 2 ^ 56) }
def leaseDesc : Desc := { seq := 5, words := bare 0x12 }
def sigDesc : Desc := { seq := 5, words := (bare 0x18).set 1 (2 * 2 ^ 52) }

/-- SAVE_CONTEXT and RESTORE_CONTEXT of context 3. -/
def saveDesc : Desc := { seq := 5, words := (bare 0x22).set 1 (3 + 2 * 2 ^ 52) }
def restDesc : Desc := { seq := 5, words := ((bare 0x23).set 1 (2 * 2 ^ 40)).set 2 3 }

theorem wit_AdmitDrain : Admits (blk 0 [drainDesc] drainMem) 1 0x24 drainDesc (lp (blk 0 [drainDesc] drainMem) drainDesc).1
      (lp (blk 0 [drainDesc] drainMem) drainDesc).2 ∧
    (blk 0 [drainDesc] drainMem).desc? 1 drainDesc.seq = some drainDesc ∧ drainDesc.started = false := by decide +kernel

theorem wit_AdmitRibbon : Admits (blk 0 [ribbonDesc] []) 1 0x21 ribbonDesc (blk 0 [ribbonDesc] []) [] ∧
    (blk 0 [ribbonDesc] []).desc? 1 ribbonDesc.seq = some ribbonDesc ∧ ribbonDesc.started = false := by decide

theorem wit_AdmitLease : Admits (blk 96 [leaseDesc] []) 1 0x12 leaseDesc (blk 96 [leaseDesc] []) [] ∧
    (blk 96 [leaseDesc] []).desc? 1 leaseDesc.seq = some leaseDesc ∧ leaseDesc.started = false ∧
    (blk 96 [leaseDesc] []).isIssuer = false := by decide

theorem wit_AdmitSave : Admits (blk 0 [saveDesc] []) 1 0x22 saveDesc (blk 0 [saveDesc] []) [] ∧
    (blk 0 [saveDesc] []).desc? 1 saveDesc.seq = some saveDesc ∧ saveDesc.started = false ∧ bits saveDesc.soff 11 0 ≠ 1 := by
  decide

theorem wit_AdmitSignature : Admits (blk 96 [sigDesc] []) 1 0x18 sigDesc (blk 96 [sigDesc] []) [] ∧
    (blk 96 [sigDesc] []).desc? 1 sigDesc.seq = some sigDesc ∧ sigDesc.started = false := by decide

/-- The inner clause of SIGNATURE: its 512 destination bytes may be touched once their chunk is held. -/
theorem wit_AdmitSignature_runs :
    bitAt sigDesc.sub 0 = false ∧ sigDesc.over = false ∧
    (gate (blk 96 [sigDesc] []) 1 5 [{ win := sigDesc.dwin, lo := sigDesc.doff, hi := sigDesc.doff + 512, wr := true }]).2 = true := by
  decide

theorem wit_AdmitRestore : Admits (blk 0 [restDesc] []) 1 0x23 restDesc (blk 0 [restDesc] []) [] ∧
    (blk 0 [restDesc] []).desc? 1 restDesc.seq = some restDesc ∧ restDesc.started = false ∧ bits restDesc.doff 11 0 ≠ 1 := by
  decide

/-! An image for RESTORE_CONTEXT, with no descriptor and no tile slot: its header, its digest, and zeros. -/

def imgTail : List Byte := [0, 0, 1, 0, 0, 0, 6, 6] ++ List.replicate 0x3FE0 0
def imgSum : Nat := crc64 imgTail
def sumByte (k : Nat) : Byte := (leBytes 8 imgSum).getD k 0
def imgAt : Nat := 0x20000

/-- The memory that holds the image at window 2: the bytes that are not 0, and the digest's. -/
def imgMem : Mem :=
  [(imgAt, 0x44), (imgAt + 1, 0x52), (imgAt + 2, 0x56), (imgAt + 3, 0x54), (imgAt + 4, 0x49), (imgAt + 5, 0x4D), (imgAt + 6, 0x47),
    (imgAt + 7, 0x31), (imgAt + 8, 1), (imgAt + 13, 0x40), (imgAt + 16, sumByte 0), (imgAt + 17, sumByte 1),
    (imgAt + 18, sumByte 2), (imgAt + 19, sumByte 3), (imgAt + 20, sumByte 4), (imgAt + 21, sumByte 5), (imgAt + 22, sumByte 6),
    (imgAt + 23, sumByte 7), (imgAt + 26, 1), (imgAt + 30, 6), (imgAt + 31, 6)]

/-- RESTORE_CONTEXT of context 3 from window 2, its source chunks held. -/
def imgDesc : Desc := { restDesc with started := true, claims := (List.range 4).map (fun k => { win := 2, chunk := k, phase := 1, touched := true }) }
def imgBlk : State := blk 0 [imgDesc] imgMem
theorem get_past (m : Mem) (k : Nat) (h : ∀ c ∈ m, c.1 < k) : SMap.get m 0 k = 0 := by
  induction m with
  | nil => rfl
  | cons c r ih =>
    have hc := h c (List.mem_cons_self ..)
    have ih := ih (fun x hx => h x (List.mem_cons_of_mem _ hx))
    obtain ⟨a, v⟩ := c
    simp only [SMap.get]
    rw [if_neg (by simp only at hc; omega), if_neg (by simp only at hc; omega)]
    exact ih

theorem leNat_leBytes (n v : Nat) : leNat (leBytes n v) = v % 256 ^ n := by
  induction n generalizing v with
  | zero => simp [leBytes, leNat, Nat.mod_one]
  | succ n ih =>
    rw [leBytes, leNat, ih, BitVec.toNat_ofNat, show (2 : Nat) ^ 8 = 256 from rfl, Nat.pow_succ', Nat.mod_mul (a := 256)]

theorem crc64Byte_lt (c b : Nat) (h : c < 2 ^ 64) : crc64Byte c b < 2 ^ 64 := by
  have hb : ∀ (l : List Nat) (x : Nat), x < 2 ^ 64 → l.foldl crc64Bit x < 2 ^ 64 := by
    intro l
    induction l with
    | nil => exact fun x hx => hx
    | cons k r ih =>
      intro x hx
      refine ih _ ?_
      unfold crc64Bit
      split
      · exact Nat.xor_lt_two_pow (Nat.mod_lt _ (by decide)) (by decide)
      · omega
  unfold crc64Byte forN
  exact hb _ _ (Nat.xor_lt_two_pow h (by have := Nat.mod_lt b (show 0 < 256 by decide); omega))

theorem crc64_lt (l : List Byte) : crc64 l < 2 ^ 64 := by
  have h : ∀ (l : List Byte) (x : Nat), x < 2 ^ 64 → l.foldl (fun c b => crc64Byte c b.toNat) x < 2 ^ 64 := by
    intro l
    induction l with
    | nil => exact fun x hx => hx
    | cons b r ih =>
      intro x hx
      rw [List.foldl_cons]
      exact ih _ (crc64Byte_lt x _ hx)
  unfold crc64
  exact h l 0 (by decide)

theorem bytes_add (m : Mem) (a i j : Nat) : Mem.bytes m a (i + j) = Mem.bytes m a i ++ Mem.bytes m (a + i) j := by
  simp [Mem.bytes, List.range_add, Nat.add_assoc]

theorem bytes_past (m : Mem) (a n : Nat) (h : ∀ c ∈ m, c.1 < a) (hn : a + n ≤ 2 ^ 48) :
    Mem.bytes m a n = List.replicate n 0 := by
  rw [Mem.bytes, List.eq_replicate_iff]
  refine ⟨by simp, fun b hb => ?_⟩
  obtain ⟨k, hk, rfl⟩ := List.mem_map.1 hb
  have hk := List.mem_range.1 hk
  refine get_past _ _ (fun c hc => ?_)
  have := h c hc
  rw [devAddr, Nat.mod_eq_of_lt (by omega)]
  omega

theorem img_head : Mem.bytes imgMem imgAt 32 =
    [0x44, 0x52, 0x56, 0x54, 0x49, 0x4D, 0x47, 0x31, 1, 0, 0, 0, 0, 0x40, 0, 0] ++ leBytes 8 imgSum ++ [0, 0, 1, 0, 0, 0, 6, 6] := rfl

theorem img_bytes (n : Nat) (h : n ≤ 0x4000) : Mem.bytes imgMem imgAt (32 + n) =
    [0x44, 0x52, 0x56, 0x54, 0x49, 0x4D, 0x47, 0x31, 1, 0, 0, 0, 0, 0x40, 0, 0] ++ leBytes 8 imgSum ++ ([0, 0, 1, 0, 0, 0, 6, 6] ++
      List.replicate n 0) := by
  rw [bytes_add, img_head, bytes_past imgMem (imgAt + 32) n (by simp [imgMem, imgAt]) (by simp only [imgAt]; omega),
    List.append_assoc, List.append_assoc]

def imgBytes : List Byte :=
  [0x44, 0x52, 0x56, 0x54, 0x49, 0x4D, 0x47, 0x31, 1, 0, 0, 0, 0, 0x40, 0, 0] ++ leBytes 8 imgSum ++ imgTail

/-- The checks of R294 over an image without descriptors. -/
theorem imageCheck_empty (s : State) (t room : Nat) (img : List Byte) (h0 : leAt img 0 8 = 0x31474D4954565244)
    (h1 : leAt img 8 4 = 1) (h2 : leAt img 0x0C 4 = 0x4000) (h3 : leAt img 0x1C 2 = 0) (h4 : leAt img 0x29 1 = 0)
    (h5 : leAt img 0x1E 1 = (s.ctx t).use.sqLog2) (h6 : leAt img 0x1F 1 = (s.ctx t).use.cqLog2)
    (h7 : leAt img 0x1A 1 = (s.ctx t).use.pd) (h8 : leAt img 0x10 8 = crc64 (img.drop 0x18)) (h9 : 0x4000 ≤ room) :
    imageCheck s t room img = none := by
  simp [imageCheck, h0, h1, h2, h3, h4, h5, h6, h7, h8, Nat.not_lt.2 h9]

theorem img_passes : imageCheck imgBlk 3 0x4000 imgBytes = none := by
  refine imageCheck_empty _ _ _ _ (by rfl) (by rfl) (by rfl) (by rfl) (by rfl) (by rfl) (by rfl) (by rfl) ?_ (by decide)
  show leNat (leBytes 8 imgSum) = imgSum
  rw [leNat_leBytes]
  exact Nat.mod_eq_of_lt (crc64_lt _)

theorem img_len : Mem.rd imgBlk.mem (imgBlk.addrOf imgDesc.swin imgDesc.soff + 0x0C) 4 = 0x4000 := by decide

theorem img_read : Mem.bytes imgBlk.mem (imgBlk.addrOf imgDesc.swin imgDesc.soff) 0x4000 = imgBytes :=
  (img_bytes 0x3FE0 (by decide)).trans rfl

theorem wit_AdmitRestore_image : imgBlk.desc? 1 5 = some imgDesc ∧ imgDesc.over = false ∧
    gate imgBlk 1 5 [{ win := imgDesc.swin, lo := imgDesc.soff, hi := min (imgBlk.win imgDesc.swin).bytes (imgDesc.soff + 0x4000) }] =
      (imgBlk, true) ∧
    imgDesc.soff + 0x4000 ≤ (imgBlk.win imgDesc.swin).bytes ∧
    imgDesc.soff + Mem.rd imgBlk.mem (imgBlk.addrOf imgDesc.swin imgDesc.soff + 0x0C) 4 ≤ (imgBlk.win imgDesc.swin).bytes ∧
    gate imgBlk 1 5 [{ win := imgDesc.swin, lo := imgDesc.soff
                       hi := imgDesc.soff + Mem.rd imgBlk.mem (imgBlk.addrOf imgDesc.swin imgDesc.soff + 0x0C) 4 }] =
      (imgBlk, true) ∧
    imageCheck imgBlk (bits imgDesc.doff 11 0) ((imgBlk.win imgDesc.swin).bytes - imgDesc.soff)
      (Mem.bytes imgBlk.mem (imgBlk.addrOf imgDesc.swin imgDesc.soff)
        (Mem.rd imgBlk.mem (imgBlk.addrOf imgDesc.swin imgDesc.soff + 0x0C) 4)) = none := by
  have hd : imgBlk.desc? 1 5 = some imgDesc := by rfl
  have ho : imgDesc.over = false := by decide
  rw [img_len, img_read]
  refine ⟨hd, ho, gate_held hd ho ?_, by decide, by decide, gate_held hd ho ?_, img_passes⟩ <;> decide

/-- Group 1 with the devices 4 and 7, this device at rank 0, beside a parameter block. -/
def grpMem (l : List Nat) : Mem := Mem.wr (Mem.wr (Mem.wr (parMem l) 16 8 (2 ^ 63 + 2 ^ 48 + 2 ^ 33)) 24 8 0x8000) 0x8000 4 0x70004

/-- A broadcast of four FP32 elements with root 0, ticket 300, bucket 0. -/
def collDesc : Desc := { seq := 5, words := words 0x10 8 3 4 0 0 }
def collPar : List Nat := [2 ^ 48 + 300, 0, 0, 0, 0, 0, 0, 0]

/-- A REBOND of a row of 16 FP32 elements, held in halves, to both members. -/
def rebDesc : Desc := { seq := 5, words := words 0x11 8 0 0 8 16 }
def rebPar : List Nat := [2 ^ 48 + 300, 2 ^ 61 + 16, 0, 2 ^ 44, 2, 0, 0, 0, 2, 2 ^ 61 + 16, 0, 0, 2, 0, 2, 2 ^ 52]

def collBlk (d : Desc) (par : List Nat) : State := blk 96 [d] (grpMem par)
def collGroup : Group := { valid := true, pd := 1, n := 2, self := 0, members := [4, 7] }
theorem wit_AdmitCollective : ∀ x ∈ [(0x10, collDesc, collPar), (0x11, rebDesc, rebPar)],
    let s := collBlk x.2.1 x.2.2
    let s1 := (lp s x.2.1).1
    let A := admittedAs x.2.1 x.2.2 (s.eng (s.engOf 1)).epoch
    nextAdmit s 1 = some x.2.1 ∧ x.2.1.op = x.1 ∧ x.2.1.pb = true ∧ isPe (s.engOf 1) = true ∧
    loadParam s 1 x.2.1 = some (s1, x.2.2) ∧ s.desc? 1 x.2.1.seq = some x.2.1 ∧
    tilesWait ((s.ctx 1).descs.takeWhile (fun y => y.seq != x.2.1.seq)) { x.2.1 with par := x.2.2 } = false ∧
    collGroup = groupFor s1 (s.engOf 1 - 96) { x.2.1 with par := x.2.2 } ∧
    Desc.check s1 { x.2.1 with par := x.2.2 } 1 x.2.1.seq collGroup = none ∧
    (s.link 0).inst? A.job A.ticket = none ∧
    (s.link 0).insts.any (fun i => (i.job == A.job && decide (A.ticket < i.ticket)) || (i.job != A.job && i.ticket == A.ticket)) =
      false ∧
    collGroup.members.any (fun m => (s.link 0).lost.contains m) = false ∧
    (s.link 0).ann.any (fun a => a.job == A.job && a.ticket == A.ticket && a.bucket == A.bucket) = false ∧
    SMap.wf (s.link 0).jobs {} = true := by decide +kernel

/-! ## Witnesses: strips, claims and drains -/

def held (w p : Nat) : List Claim := (List.range 4).map (fun k => { win := w, chunk := k, phase := p, touched := true })

/-- A descriptor under way, with every chunk of windows 1 to 3 held CLAIMED. -/
def under (d : Desc) (par : List Nat) : Desc :=
  { d with par := par, admitted := true, started := true, tag := 1, claims := held 1 1 ++ held 2 1 ++ held 3 1 }

theorem wit_StripIssues : ∀ x ∈ streamCases, x.1 ≠ 0x08 →
    let par := (lp (blk 0 [x.2.1] (parMem x.2.2)) x.2.1).2
    let d := under x.2.1 par
    let s := blk 0 [d] (parMem x.2.2)
    issues s (s.engOf 1) = true ∧ (s.ctx 1).resident = true ∧ (s.ctx 1).descs = [d] ∧ d.started = true ∧ d.count ≠ 0 ∧
    mayStrip s 1 d = true ∧ d.op ≠ 0x08 ∧
    HeldAll s d (d.stripSpan (d.nextStrip (lanes (s.engOf 1))).1 (d.nextStrip (lanes (s.engOf 1))).2) := by decide +kernel

/-- A SIGNATURE and a RESTORE_CONTEXT that wait to go on. -/
theorem wit_StripIssues_whole : ∀ d ∈ [under sigDesc [], under restDesc []],
    issues (blk 96 [d] []) ((blk 96 [d] []).engOf 1) = true ∧ ((blk 96 [d] []).ctx 1).resident = true ∧
    ((blk 96 [d] []).ctx 1).descs = [d] ∧ d.admitted = true ∧ d.over = false ∧ watchReady (blk 96 [d] []) 1 d = true ∧
    (d.op = 0x18 ∨ d.op = 0x23) := by decide +kernel

theorem wit_StripIssues_detection : ∀ x ∈ streamCases, x.1 ≠ 0x08 →
    let d := under x.2.1 (lp (blk 0 [x.2.1] (parMem x.2.2)) x.2.1).2
    let s := blk 0 [d] (parMem x.2.2)
    let k : Detection := { quire := 15 }
    d.isColl = false ∧ k.kind = .residue ∧ k.unit = 0 ∧ k.inside = false ∧ k.seq = none ∧ k.eng = none ∧
    repeated s (s.engOf 1) 0 (theQuire k) = false := by decide +kernel

def convDesc : Desc := { seq := 5, words := words 0x01 0 0 4 0 (2 ^ 58) }
def convUnder : Desc := under convDesc []

theorem wit_ConvertStrip : convUnder.op = 0x01 ∧ convUnder.cursor ≤ 4 ∧ 4 ≤ convUnder.count ∧ convUnder.held = [] := by decide

/-- A chunk of the flagged window 3 that waits for READY, with its flag word READY (2) and EMPTY (0) in chunk 1. -/
def pollDesc : Desc := { convUnder with claims := [{ win := 3, chunk := 0, phase := 4 }] }

theorem wit_FlagSwaps_poll : (blk 0 [pollDesc] []).desc? 1 5 = some pollDesc ∧
    carries (blk 0 [pollDesc] []) ((blk 0 [pollDesc] []).engOf 1) = true ∧
    ((blk 0 [pollDesc] []).eng ((blk 0 [pollDesc] []).engOf 1)).isOn = true ∧ pollDesc.over = false ∧
    (blk 0 [pollDesc] []).mayClaim 1 pollDesc = true ∧
    before32 pollDesc.tag ((blk 0 [pollDesc] []).eng ((blk 0 [pollDesc] []).engOf 1)).epoch = false ∧
    pollDesc.claims.find? (fun k => k.phase == 4) = some { win := 3, chunk := 0, phase := 4 } ∧
    (blk 0 [pollDesc] []).mayTrack 1 5 = true ∧ flagOf (2 : Word32).toNat 0 = 2 ∧ flagOf (1 : Word32).toNat 0 ≠ 2 := by decide

/-- A CONVERT past its last element, holding chunk 0 of the flagged window 3 and of window 2. -/
def doneDesc : Desc := { convUnder with
  cursor := 4, claims := [{ win := 2, chunk := 0, phase := 1 }, { win := 3, chunk := 0, phase := 1 }] }

theorem wit_FlagSwaps_done : (blk 0 [doneDesc] []).desc? 1 5 = some doneDesc ∧
    carries (blk 0 [doneDesc] []) ((blk 0 [doneDesc] []).engOf 1) = true ∧
    doneDesc.phaseOf 3 0 = some 1 ∧ writePending (blk 0 [doneDesc] []) 1 5 3 0 = false ∧
    touchesStill (blk 0 [doneDesc] []) 1 doneDesc 3 0 = false ∧ ((blk 0 [doneDesc] []).win 3).flagged = true ∧
    doneDesc.phaseOf 2 0 = some 1 ∧ writePending (blk 0 [doneDesc] []) 1 5 2 0 = false ∧
    touchesStill (blk 0 [doneDesc] []) 1 doneDesc 2 0 = false ∧ ((blk 0 [doneDesc] []).win 2).flagged = false := by decide

/-- SE 0 waits for the acknowledgement of tag 7 and for the swaps of tags 8 to 10. -/
def askReq (t k x : Nat) : Req :=
  { tag := t, sent := true, net := k != 0, kind := k, ctx := 1, seq := 5, win := 3, addr := 0x2000000, expect := x }
def askBlk : State := (blk 0 [pollDesc] []).setEng 0 { se with reqs := [askReq 7 0 0, askReq 8 1 2, askReq 9 2 3, askReq 10 3 3] }

theorem wit_Responses : (askBlk.eng 0).holding = false ∧ (askBlk.eng 0).heldResp = [] ∧
    (askBlk.eng 0).reqs.find? (fun r => r.sent && r.tag == 7 && r.net == false && r.kind != 5) = some (askReq 7 0 0) ∧
    (askReq 7 0 0).kind = 0 ∧
    (∀ x ∈ [(8, 1, 2), (9, 2, 3), (10, 3, 3)],
      (askBlk.eng 0).reqs.find? (fun r => r.sent && r.tag == x.1 && r.net == true && r.kind != 5) = some (askReq x.1 x.2.1 x.2.2) ∧
      (askReq x.1 x.2.1 x.2.2).kind = x.2.1 ∧ (BitVec.ofNat 32 x.2.2).toNat = (askReq x.1 x.2.1 x.2.2).expect) ∧
    (2 : Word32).toNat ≠ (askReq 9 2 3).expect ∧ flagOf (2 : Word32).toNat (askReq 9 2 3).chunk ≠ 3 ∧
    askBlk.desc? 1 5 = some pollDesc ∧ askBlk.engOf 1 = 0 := by decide

/-- Window 1 in stack 0, which SE 0 reads through its memory port. -/
def nearBlk : State := { askBlk with devMap := [{ base := 0, size := 2 ^ 37, stack := some 0 }] }
theorem wit_Responses_read : nearBlk.desc? 1 5 = some pollDesc ∧ nearBlk.engOf 1 = 0 ∧ (nearBlk.eng 0).holding = false ∧
    (nearBlk.eng 0).heldResp = [] ∧ nearBlk.usesNet 0 ((nearBlk.win 1).addr + 0 * (nearBlk.win 1).chunkBytes) = false := by decide

/-- A FOLD whose products are done, with its drain asked for. -/
def foldReq : DrainReq := { tile := 1, m := 1, n := 1, out := true }
def foldEnd (x : Bool) : Desc := { under drainDesc [0, 0, 0, 0, 0, 0, 0, 1 + 2 ^ 8 + 2 ^ 16 + 2 ^ 34] with
  drains := [{ foldReq with exchanged := x }] }

theorem wit_DrainExchange : (blk 0 [foldEnd false] []).desc? 1 5 = some (foldEnd false) ∧
    (foldEnd false).drains.find? (fun r => !r.exchanged) = some foldReq ∧
    carries (blk 0 [foldEnd false] []) ((blk 0 [foldEnd false] []).engOf 1) = true ∧ (foldEnd false).over = false ∧
    drainBlocked (blk 0 [foldEnd false] []) 1 (foldEnd false) foldReq = false ∧
    heldByTest ((blk 0 [foldEnd false] []).eng ((blk 0 [foldEnd false] []).engOf 1)) 1 5 = false ∧ 0 < tileBytes foldReq.bf16 ∧
    SMap.wf ((blk 0 [foldEnd false] []).ctx 1).live 0 = true := by decide

theorem wit_OutputStage : ((blk 0 [foldEnd true] []).ctx 1).descs = [foldEnd true] ∧ (foldEnd true).seq = 5 ∧
    (foldEnd true).op ≠ 0x0A ∧
    (foldEnd true).drains.find? (fun r => r.exchanged) = some { foldReq with exchanged := true } ∧
    carries (blk 0 [foldEnd true] []) ((blk 0 [foldEnd true] []).engOf 1) = true ∧
    ((blk 0 [foldEnd true] []).eng ((blk 0 [foldEnd true] []).engOf 1)).testing = false ∧ (foldEnd true).over = false ∧
    watchReady (blk 0 [foldEnd true] []) 1 (foldEnd true) = true ∧ (foldEnd true).started = true ∧
    heldByTest ((blk 0 [foldEnd true] []).eng ((blk 0 [foldEnd true] []).engOf 1)) 1 5 = false ∧
    HeldAll (blk 0 [foldEnd true] []) (foldEnd true) (foldEnd true).outSpan ∧ (foldEnd true).outSpan ≠ [] := by decide

/-! ## Witnesses: completion, contexts and doorbells -/

/-- A CONVERT with every element written and every chunk DONE, that asks for its event. -/
def overDesc : Desc := { convUnder with
  words := (words 0x01 0x20 0 4 0 (2 ^ 58)), cursor := 4, finished := true, claims := held 1 5 ++ held 2 5 }

theorem wit_CompletionWrite : (blk 0 [overDesc] []).desc? 1 5 = some overDesc ∧
    mayComplete (blk 0 [overDesc] []) 1 overDesc = true ∧ ((blk 0 [overDesc] []).eng ((blk 0 [overDesc] []).engOf 1)).heldResp = [] ∧
    overDesc.watchCfg.active = false ∧ overDesc.isColl = false ∧ overDesc.held = [] ∧
    overDesc.op ∉ [0x07, 0x12, 0x21, 0x22, 0x23] ∧ overDesc.notify = true ∧ (blk 0 [overDesc] []).trace.on = false := by decide

/-- SAVE_CONTEXT of context 3, which has stopped and has no tile slot, into window 2. -/
def saveUnder : Desc := { under saveDesc [] with claims := held 2 1 }
def saveBlk : State := (blk 0 [saveUnder] []).setCtx 3 { cres 0 [] with
  reg := { cset 0 with tileSlots := 0 }, use := { cset 0 with tileSlots := 0 }, saving := true }

theorem wit_ContextImageWrite : saveBlk.desc? 1 5 = some saveUnder ∧ saveUnder.op = 0x22 ∧ saveUnder.admitted = true ∧
    saveUnder.over = false ∧ carries saveBlk (saveBlk.engOf 1) = true ∧
    (3 : Nat) = bits saveUnder.soff 11 0 ∧ (saveBlk.ctx 3).saving = true ∧ (saveBlk.eng (saveBlk.ctx 3).use.engine).works = true ∧
    (saveBlk.ctx 3).descs.all (stoppedDesc saveBlk 3) = true ∧
    (saveBlk.ctx 3).descs.all (fun x => x.held.isEmpty && decide (x.pos ≤ x.cursor)) = true ∧
    HeldAll saveBlk saveUnder [{ win := saveUnder.dwin, lo := saveUnder.doff, hi := saveUnder.doff + 0x4000, wr := true }] := by
  decide

theorem leBytes_length (n v : Nat) : (leBytes n v).length = n := by
  induction n generalizing v with
  | zero => rfl
  | succ n ih => simp [leBytes, ih]

theorem padTo_length (n : Nat) (l : List Byte) (h : l.length ≤ n) : (padTo n l).length = n := by
  rw [padTo, List.length_append, List.length_replicate]; omega

theorem contextImage_length (s : State) (t : Nat) (h1 : (s.ctx t).use.tileSlots = 0) (h2 : (s.ctx t).descs = []) :
    (contextImage s t).length = 0x4000 := by
  unfold contextImage
  simp only [h1, h2, imageDescs, List.length_append, leBytes_length, List.append_nil, Nat.zero_mul, List.range_zero, List.map_nil,
    List.length_replicate, List.length_nil]
  rw [padTo_length, Nat.add_assoc]
  rw [padTo_length]
  · simp
  · simp [leBytes_length]

theorem wit_ContextImageWrite_length : (contextImage saveBlk 3).length = 0x4000 ∧
    saveUnder.doff + (contextImage saveBlk 3).length ≤ (saveBlk.win saveUnder.dwin).bytes := by
  have h := contextImage_length saveBlk 3 (by decide) (by decide)
  exact ⟨h, by rw [h]; decide⟩

/-- A ring of 64 whose indices are about to wrap. -/
def bellAt : Ctx := { cres 0 [] with sqHead := 65530, sqTail := 65535, cqTail := 3, cqHead := 65534 }
def bellBlk : State := (blk 0 [] []).setCtx 1 bellAt

theorem wit_DoorbellAccess : bellBlk.pins.aonPg = true ∧ bellBlk.ctx 1 = bellAt ∧ bellAt.enable = true ∧ bellAt.reEnable = false ∧
    bellAt.saving = false ∧ bellAt.restoring = false ∧ (bellBlk.eng bellAt.use.engine).fenced = false ∧
    (bellBlk.eng bellAt.use.engine).holding = false ∧ bellBlk.pins.fabRstN = true ∧
    (let p := bits (0x00020005 : Word64).toNat 15 0
     let h := bits (0x00020005 : Word64).toNat 31 16
     sub16 p bellAt.sqHead < 2 ^ bellAt.use.sqLog2 ∧ sub16 p bellAt.sqTail < 2 ^ bellAt.use.sqLog2 ∧
     sub16 bellAt.cqTail h ≤ sub16 bellAt.cqTail bellAt.cqHead ∧ p ≠ bellAt.sqTail) ∧
    (2 ^ bellAt.use.sqLog2 ≤ sub16 (bits (0x0002003A : Word64).toNat 15 0) bellAt.sqHead ∧
     sub16 bellAt.cqTail bellAt.cqHead < sub16 bellAt.cqTail (bits (0x0004FFFF : Word64).toNat 31 16)) ∧
    bits (0x0002FFFF : Word64).toNat 15 0 = bellAt.sqTail ∧ (bellBlk.eng bellAt.use.engine).works = true ∧
    sub16 (bits (0x0002FFFF : Word64).toNat 15 0) bellAt.sqHead < 2 ^ bellAt.use.sqLog2 := by decide

/-- The target of a RESTORE_CONTEXT, a context whose engine stands in a hold, and the contexts whose doorbells are dropped. -/
def heldBlk : State := (bellBlk.setCtx 3 { bellAt with restoring := true }).setEng 0 { se with cut := { marked := true, hold := true } }
theorem wit_DoorbellAccess_kept : (heldBlk.ctx 3).restoring = true ∧ (heldBlk.ctx 3).enable = true ∧ (heldBlk.ctx 3).saving = false ∧
    (heldBlk.ctx 1).resident = true ∧ (heldBlk.eng 0).isOn = true ∧ (heldBlk.eng 0).holding = true ∧
    (heldBlk.ctx 1).heldDb.length < 16 ∧ (heldBlk.ctx 1).restoring = false ∧ (heldBlk.eng 0).fenced = false ∧
    (heldBlk.ctx 9).enable = false ∧ ({ bellAt with saving := true } : Ctx).saving = true ∧
    ({ bellAt with ringErr := true } : Ctx).ringErr = true ∧ bellBlk.pins.fabRstN = true := by decide

/-- A seventeenth doorbell in a hold, and a context that only waits for residency while its engine stands in one. -/
theorem wit_DoorbellAccess_full :
    (let s := heldBlk.setCtx 1 { bellAt with resident := true, heldDb := List.replicate 16 0 }
     16 ≤ (s.ctx 1).heldDb.length ∧ (s.ctx 1).resident = true ∧ (s.eng 0).isOn = true ∧ (s.eng 0).holding = true ∧
      (s.ctx 1).restoring = false ∧ (s.ctx 1).enable = true ∧ (s.ctx 1).saving = false ∧ (s.ctx 1).reEnable = false ∧
      (s.eng 0).fenced = false ∧ s.pins.aonPg = true) ∧
    (let s := heldBlk.setCtx 1 { bellAt with resident := false }
     ((s.ctx 1).resident && (s.eng 0).isOn && (s.eng 0).holding) = false ∧ (s.ctx 1).restoring = false) := by decide

/-! ## Witnesses: inline service -/

/-- Inline window 2: 64 BF16 elements at the start of the aperture, kept as E4M3 in stack 0. -/
def islot : InlineSet := { pd := 1, view := 1, vbase := 2 ^ 34, vlen := 64, pbase := 0x1000, format := 3 * 2 ^ 58 }
def inlWin : InlineWin := { enable := true, active := true, reg := islot, use := islot }
def inlBlk (x : InlineWin) : State := { blk 0 [] [] with inlines := [(2, x)] }
def inlPart (k : Nat) : Part := (inlBlk inlWin).partAt (2 ^ 46 + 2 * k) 4

def inlS : State := inlBlk inlWin

/-- Elements 2 and 3 of the view, for the window's own PD (1) and for another (2). -/
theorem wit_InlineRead : inlS.absent = false ∧ inlS.accesses.find? (fun a => a.id == inlS.accNext + 1) = none ∧
    inlS.parts 4 (2 ^ 46 + 4) 4 = [inlPart 2] ∧ (inlPart 2).addr = 2 ^ 46 + 4 ∧ islot = (inlS.inl 2).use ∧
    (inlPart 2).win = some 2 ∧ (inlS.eng (inlPart 2).se).isOn = true ∧ (inlS.eng (inlPart 2).se).fenced = false ∧
    (inlS.eng (inlPart 2).se).testing = false ∧ (inlS.eng (inlPart 2).se).holding = false ∧
    inlS.inlineMay (inlS.eng (inlPart 2).se).epoch 2 2 true = false ∧ inlS.inlineMay (inlS.eng (inlPart 2).se).epoch 2 1 true = true ∧
    (inlS.inl 2).lost.contains (inlPart 2).block = false ∧ (inlS.eng (inlPart 2).se).entry? 2 (inlPart 2).block = none ∧
    Mem.rdBits inlS.mem (inlS.inlBase islot + islot.stateOff) (2 * (inlPart 2).block) 2 = 0 ∧
    nth ([] : List PartStatus) 0 .ok = .ok ∧ nth [PartStatus.stackErr] 0 .ok = .stackErr ∧ nth [PartStatus.parity] 0 .ok = .parity := by
  decide

/-- The part's engine OFF, fenced, in a self-test, and in a hold. -/
theorem wit_InlineRead_engine : ∀ x ∈ [({} : Engine), { se with fenced := true }, { se with tests := [{ started := true }] },
      { se with cut := { marked := true, hold := true } }],
    let s := inlS.setEng 0 x
    s.absent = false ∧ s.parts 4 (2 ^ 46 + 4) 4 = [inlPart 2] ∧ (inlPart 2).se = 0 ∧
    ((s.eng 0).isOn = false ∨ (s.eng 0).isOn = true ∧ ((s.eng 0).fenced = true ∨
      (s.eng 0).fenced = false ∧ ((s.eng 0).testing = true ∨ (s.eng 0).holding = true))) := by decide

/-- The first address after the view, and an absent fabric. -/
theorem wit_InlineRead_outside : inlS.absent = false ∧ inlS.parts 4 (2 ^ 46 + 128) 4 = [inlPart 64] ∧ (inlPart 64).win = none ∧
    ([some 1, none, some 2, none] : List (Option Byte)).length = 4 ∧
    ({ inlS with pins := { pinsUp with fabRstN := false } } : State).absent = true := by decide

/-- Three of the four bytes of elements 2 and 3 enabled. -/
def inlData : List (Option Byte) := [some 1, some 2, none, some 4]
def inlBytes : List (Nat × Byte) :=
  (List.range (inlPart 2).len).filterMap (fun k => (nth inlData k none).map (fun v => ((inlPart 2).off + k, v)))

theorem wit_InlineWrite : inlS.absent = false ∧ inlS.accesses.find? (fun a => a.id == inlS.accNext + 1) = none ∧
    inlS.parts inlData.length (2 ^ 46 + 4) inlData.length = [inlPart 2] ∧ (inlPart 2).addr = 2 ^ 46 + 4 ∧
    (inlPart 2).win = some 2 ∧ (inlS.eng (inlPart 2).se).isOn = true ∧ (inlS.eng (inlPart 2).se).fenced = false ∧
    (inlS.eng (inlPart 2).se).testing = false ∧ (inlS.eng (inlPart 2).se).holding = false ∧
    nth ([] : List PartStatus) 0 .ok = .ok ∧ inlS.inlineMay (inlS.eng (inlPart 2).se).epoch 2 2 false = false ∧
    inlS.inlineMay (inlS.eng (inlPart 2).se).epoch 2 1 false = true ∧ (inlS.inl 2).lost.contains (inlPart 2).block = false ∧
    (inlS.eng (inlPart 2).se).entry? 2 (inlPart 2).block = none ∧ (inlS.eng (inlPart 2).se).wc.length < 64 ∧
    WcEntry.mask { data := inlBytes } (inlS.inl 2).use.viewBytes ≠ 2 ^ (inlS.inl 2).use.blockC - 1 := by decide

def wcHeld : WcEntry := { win := 2, block := 0, data := [(4, 1), (5, 2)], stamp := 1, inFlush := true }
def mergeBlk : State := inlS.setEng 0 { se with wc := [wcHeld], wcStamp := 1 }
def initWin : InlineWin := { inlWin with active := false, initPending := true }

theorem wit_InlineMerge : (mergeBlk.eng 0).entry? 2 0 = some wcHeld ∧ (mergeBlk.eng 0).isOn = true ∧ wcHeld.inFlush = true ∧
    (mergeBlk.eng 0).testing = false ∧ (mergeBlk.eng 0).holding = false ∧ initWin = (inlBlk initWin).inl 2 ∧
    initWin.initPending = true ∧ ({} : Detection).kind ≠ .secdedCorr ∧
    ((mergeBlk.setEng 0 { se with st := .quiescing, wc := [wcHeld] }).eng 0).entry? 2 0 = some wcHeld ∧
    ((mergeBlk.setEng 0 { se with st := .quiescing, wc := [wcHeld] }).eng 0).st = .quiescing := by decide

/-! ## Witnesses: frames -/

/-- Devices 4 to 8 are members of the domain. -/
def domMem : Mem := [(0x100087, 0x80), (0x1000A7, 0x80), (0x1000C7, 0x80), (0x1000E7, 0x80), (0x100107, 0x80)]

/-- PE 0 with its link up, and the domain's words. -/
def net (dom : Domain) (l : Link) (d : List Desc) : State :=
  { blk 96 d domMem with
    links := [(0, l)]
    dom := dom }
def dom4 : Domain := { join := true, member := true, deviceId := 4, keystone := 6, domain := 9, domtab := 0x4000 }

/-- The same device as its domain's keystone, with deputies 5 and 7. -/
def dom4k : Domain := { dom4 with keystone := 4, issuing := true, nextTicket := 512, deputies := [5, 7], acks := [(5, 512), (7, 512)] }

/-- A frame of a type from a device to this one. -/
def fr (ty src : Nat) : FrameHdr := { ftype := ty, domain := 9, src := src, dst := 4 }
def rx (h : FrameHdr) : RxFrame := { frame := { hdr := h } }

theorem wit_FramesDropped : ∀ ty ∈ List.range 14, Hears (net dom4 {} []) 0 ty ∧
    (rx (fr ty 6)).frame.hdr.ftype = ty ∧
    fcsBad (net dom4 {} []) 0 { rx (fr ty 6) with fcsErr := true } = true ∧
    fcsBad (net dom4 {} []) 0 { rx (fr ty 6) with parityOk := false } = true ∧ fcsBad (net dom4 {} []) 0 (rx (fr ty 6)) = false ∧
    protoOk (net dom4 {} []) 0 { rx (fr ty 6) with proto := 0x0800 } = false ∧
    (rx { fr ty 6 with version := 2 }).frame.hdr.version ≠ 1 ∧
    (∀ k ∈ [14, 15], 14 ≤ (rx (fr k 6)).frame.hdr.ftype ∧ Hears (net dom4 {} []) 0 k ∧ fcsBad (net dom4 {} []) 0 (rx (fr k 6)) = false) ∧
    protoOk (net dom4 {} []) 0 (rx (fr ty 6)) = true ∧ (rx (fr ty 6)).frame.hdr.version = 1 ∧ (rx (fr ty 6)).frame.hdr.ftype < 14 ∧
    (rx { fr ty 6 with domain := 8 }).frame.hdr.domain ≠ (net dom4 {} []).dom.domain ∧
    (rx { fr ty 6 with dst := 5 }).frame.hdr.dst ≠ (net dom4 {} []).dom.deviceId ∧
    memberValid (net dom4 {} []) 9 = false := by decide

/-- Under ENCAP 1 a failed UDP checksum; and PE 0 in a ribbon hold. -/
theorem wit_FramesDropped_more :
    fcsBad ((net dom4 {} []).setEng 96 { pe with linkCfg := pe.linkCfg + 2 ^ 63 }) 0 { rx (fr 0 6) with udpOk := false } = true ∧
    Hears ((net dom4 {} []).setEng 96 { pe with linkCfg := pe.linkCfg + 2 ^ 63 }) 0 0 ∧
    (let s := (net dom4 {} []).setEng 96 { pe with cut := { marked := true, hold := true } }
     linkLive s 0 = true ∧ (s.eng (peEng 0)).fenced = false ∧ (s.eng (peEng 0)).holding = true) := by decide

theorem wit_FrameGoesOut : maySend (net dom4 {} []) 0 (fr 6 6) = true ∧ ((net dom4 {} []).link 0).txq = [] ∧
    memberValid (net dom4 {} []) 6 = true ∧ memberValid (net dom4 {} []) 9 = false := by decide

/-- A present instance of devices 4 and 7 with ticket 300, a stream to device 7 with the frames 65535 and 0 unacknowledged,
and one from it, next expected 65535. -/
def instA : Inst := { ticket := 300, pd := 1, members := [4, 7], kind := 3 }
def sentF (q : Nat) : Frame := { hdr := { ftype := 0, domain := 9, src := 4, dst := 7, ticket := 300, seq := q } }
def txA : TxStream := { ticket := 300, dst := 7, next := 1, limit := 4, unacked := [sentF 65535, sentF 0] }
def rxA : RxStream := { ticket := 300, src := 7, expect := 65535, limit := 4, sent := 2, unackedRx := 3 }
def linkA : Link := { insts := [instA], tx := [txA], rx := [rxA] }

/-- The member's descriptor of bucket 0: a broadcast with root 1, not OPEN (phase 0) or OPEN (phase 1). -/
def bcast (ph : Nat) : Desc := { seq := 5, words := words 0x10 8 3 4 0 0, par := [2 ^ 48 + 300, 2 ^ 32, 0, 0, 0, 0, 0, 0]
                                 admitted := true, tag := 1, started := ph == 1, coll := { phase := ph, members := [4, 7] } }
def netA (ph : Nat) : State := net dom4 linkA [bcast ph]

def frA (ty q : Nat) : FrameHdr := { fr ty 7 with ticket := 300, seq := q, kind := 3 }
/-- The state once the frame has arrived. -/
def after (s : State) (h : FrameHdr) : State := seeTicket (heard s 0 (rx h)) h.ticket

theorem wit_StreamFrames : Accepts (netA 1) 0 1 (rx (frA 1 0)) ∧
    ((((after (netA 1) (frA 1 0)).link 0).txOf 0 300 7).unacked.any (fun g => before16 g.hdr.seq 0)) = true ∧
    Accepts (netA 1) 0 3 (rx (frA 3 5)) ∧ (((after (netA 1) (frA 3 5)).link 0).inst? 0 300).isSome = true ∧
    before16 (((after (netA 1) (frA 3 5)).link 0).txOf 0 300 7).limit 5 = true ∧ Accepts (netA 1) 0 3 (rx (frA 3 4)) ∧
    before16 (((after (netA 1) (frA 3 4)).link 0).txOf 0 300 7).limit 4 = false ∧ Accepts (netA 1) 0 2 (rx (frA 2 0)) ∧
    ((((after (netA 1) (frA 2 0)).link 0).txOf 0 300 7).unacked.any (fun g => g.hdr.seq == 0)) = true ∧
    ((after (netA 1) (frA 2 0)).link 0).permitted 300 = true ∧
    ((((after (netA 1) (frA 2 9)).link 0).txOf 0 300 7).unacked.any (fun g => g.hdr.seq == 9)) = false := by decide

/-- The ANNOUNCE of bucket 0 from device 7, and one that names another kind. -/
def annF (k : Nat) : RxFrame :=
  { frame := { hdr := { frA 4 0 with pfmt := (bcast 0).annFmt, kind := k, plen := 16 }, payload := leBytes 8 4 ++ leBytes 8 0 } }

theorem wit_BucketFrames : Accepts (netA 0) 0 4 (annF 3) ∧
    (((seeTicket (heard (netA 0) 0 (annF 3)) 300).link 0).inst? 0 300).isSome = true ∧
    (seeTicket (heard (netA 0) 0 (annF 3)) 300).bucketDesc 0 0 300 0 = some (1, bcast 0) ∧ (bcast 0).over = false ∧
    annAgrees (bcast 0) (annOf (annF 3).frame) = true ∧ annAgrees (bcast 0) (annOf (annF 1).frame) = false ∧
    Accepts (netA 0) 0 5 (rx (frA 5 0)) ∧ (after (netA 0) (frA 5 0)).bucketDesc 0 0 300 0 = some (1, bcast 0) := by decide

/-- The one DATA frame of the broadcast, and the state as its fate is decided. -/
def dataF (q : Nat) : RxFrame := { frame := {
  hdr := { frA 0 q with pfmt := ((bcast 1).wireFmt true).elem, chunk := 1, plen := 16, flags := 2 }, payload := List.replicate 16 0 } }
def dataAt (lim : Nat) : State := net dom4 { linkA with rx := [{ rxA with limit := lim }] } [bcast 1]

/-- The next frame (65535), one before it, one after it, and the next with the limit reached; one that does not fit; one of a
ticket that is done, and one of no instance. -/
theorem wit_DataFrames : ∀ q ∈ [65535, 65534, 0], ∀ lim ∈ [4, 65535], Accepts (dataAt lim) 0 0 (dataF q) ∧
    ((dataAt lim).link 0).inst? 0 300 = some instA ∧ ((dataAt lim).link 0).rx? 0 300 7 = some { rxA with limit := lim } ∧
    bucketKnown instA ((dataAt lim).bucketDesc 0 0 300 0) 0 = true ∧ (dataAt lim).bucketDesc 0 0 300 0 = some (1, bcast 1) ∧
    (bcast 1).over = false ∧ frameFits (bcast 1) (dataF q).frame = true := by decide +kernel

theorem wit_DataFrames_fates : (before16 65534 rxA.expect = true ∧ before16 65535 rxA.expect = false ∧ before16 0 rxA.expect = false ∧
      rxA.expect = 65535 ∧ before16 65535 4 = true ∧ before16 65535 65535 = false) ∧
    frameFits (bcast 1) { (dataF 65535).frame with hdr := { (dataF 65535).frame.hdr with chunk := 9 } } = false := by decide +kernel

theorem wit_DataFrames_none : (∀ s ∈ [net dom4 { jobs := [(0, { lastDone := some 300 })] } [], net dom4 {} []],
      Accepts s 0 0 (dataF 0) ∧ (s.link 0).inst? 0 300 = none) ∧
    isStale (net dom4 { jobs := [(0, { lastDone := some 300 })] } []) 0 0 300 = true ∧ isStale (net dom4 {} []) 0 0 300 = false ∧
    otherTicket (net dom4 {} []) 0 (dataF 0).frame.hdr = none := by decide +kernel

theorem wit_DomainFrames : Accepts (net dom4 {} []) 0 6 (rx (fr 6 7)) ∧ bitAt (fr 6 7).flags 6 = false ∧ dom4.join = true ∧
    sentLately (heard (net dom4 {} []) 0 (rx (fr 6 7))) 0 7 = false ∧
    Accepts (net { dom4 with member := false } {} []) 0 12 (rx (fr 12 6)) ∧ (fr 12 6).src = dom4.keystone ∧
    Accepts (net dom4 {} []) 0 9 (rx (fr 9 6)) ∧ dom4.member = true := by decide

/-- A deputy and another device join. -/
theorem wit_DomainFrames_join : (∀ d ∈ [7, 8], Accepts (net dom4k {} []) 0 11 (rx (fr 11 d))) ∧ (net dom4k {} []).isIssuer = true ∧
    dom4k.deputies = [5, 7] := by decide

/-- A TICKET_LEASE that waits for its grant. -/
def leaseAsk : Desc := { under leaseDesc [] with claims := [], leaseAsked := true }

theorem wit_LeaseFrames : Accepts (net dom4k {} []) 0 7 (rx (fr 7 7)) ∧
    (net dom4k {} []).isIssuer = true ∧ (fr 7 7).src ≠ dom4k.deviceId ∧
    mayIssue (heard (net dom4k {} []) 0 (rx (fr 7 7))) = true ∧
    dom4k.served.find? (fun r => r.1 == 7 && r.2.1 == 0 && r.2.2.1 == 0) = none ∧
    Accepts (net dom4 {} [leaseAsk]) 0 8 (rx { fr 8 6 with job := 1, seq := 5, ticket := 512 }) ∧ (fr 8 6).src = dom4.keystone ∧
    (heard (net dom4 {} [leaseAsk]) 0 (rx { fr 8 6 with job := 1, seq := 5, ticket := 512 })).leases.contains (1, 5) = true ∧
    (heard (net dom4 {} [leaseAsk]) 0 (rx { fr 8 6 with job := 1, seq := 5, ticket := 512 })).engOf 1 = peEng 0 ∧
    Accepts (net dom4k {} []) 0 10 (rx (fr 10 5)) ∧ dom4k.deputies.contains 5 = true ∧ dom4k.waiting = [] ∧
    Accepts (net dom4 {} []) 0 13 (rx (fr 13 5)) ∧ dom4.join = true ∧ (fr 13 5).src ≠ dom4.keystone := by decide

/-! ## Witnesses: buckets and timers -/

theorem wit_BucketsAndChains : (netA 0).desc? 1 5 = some (bcast 0) ∧ isPe ((netA 0).engOf 1) = true ∧
    bucketMayIssue (netA 0) ((netA 0).engOf 1 - 96) 1 (bcast 0) = true := by decide

/-- This device, at rank 0, starts a chain of kinds 0 to 4 of a group of two; its neighbour has announced the bucket and granted
credit, and every chunk is held. -/
def startDesc (k : Nat) : Desc :=
  { under { seq := 5, words := words 0x10 8 k 4 0 0 } [2 ^ 48 + 300, 0, 0, 0, 0, 0, 0, 0] with
    coll := { phase := 1, members := [4, 7], self := 0 } }
def startNet (k : Nat) : State := net dom4 { linkA with
  insts := [{ instA with kind := k }], tx := [{ ticket := 300, dst := 7, next := 0, limit := 16 }]
  ann := [{ job := 0, ticket := 300, bucket := 0, src := 7, kind := k }] } [startDesc k]
theorem wit_BucketsAndChains_starts : ∀ k ∈ [0, 1, 2, 3, 4],
    let s := startNet k
    let d := startDesc k
    let j := d.starts.headD 9
    s.desc? 1 5 = some d ∧ bucketWorks s 0 1 d = true ∧ d.starts.contains j = true ∧ d.coll.started.contains j = false ∧
    d.started = true ∧ d.cn ≠ 1 ∧ d.kind = k ∧ mayStart s 0 d ((d.cr + 1) % d.cn) (decide (k ≠ 0 ∧ k ≠ 2)) = true ∧
    HeldAll s d (d.srcRun (d.srcIx d.cn d.cr (d.chainRange d.cn j).1) (d.chainRange d.cn j).2 ++
      d.dstRun (d.dstIx d.cn d.cr (d.chainRange d.cn j).1) (d.chainRange d.cn j).2) := by decide +kernel

theorem wit_TimersSend : (watchSet (netA 1) 0).contains 7 = true ∧ sentLately (netA 1) 0 7 = false ∧ (netA 1).dom.join = true ∧
    ((net dom4 { linkA with lost := [7] } []).link 0).lost.contains 7 = true ∧
    (net { dom4 with member := false } {} []).dom.join = true ∧ (net { dom4 with member := false } {} []).dom.member = false ∧
    (net { dom4 with join := false } {} []).dom.join = false ∧
    (net dom4 {} [leaseAsk]).leases.contains (1, 5) = true ∧ (net dom4 {} [leaseAsk]).isIssuer = false := by decide

theorem wit_StreamTimers : ((netA 1).link 0).rx? 0 300 7 = some rxA ∧ linkLive (netA 1) 0 = true ∧
    ((netA 1).eng (peEng 0)).holding = false ∧ 0 < rxA.unackedRx ∧ ((netA 1).link 0).inst? 0 300 = some instA ∧
    ((netA 1).link 0).permitted 300 = true ∧ rxA.limit ≠ rxA.sent ∧ before16 rxA.expect rxA.limit = true ∧
    (((netA 1).link 0).txOf 0 300 7).unacked = [sentF 65535, sentF 0] := by decide

theorem wit_LinkEvents : linkLive (netA 1) 0 = true ∧
    (watchSet (netA 1) 0).contains 7 = true ∧ ((netA 1).link 0).lost.contains 7 = false ∧
    ((netA 1).link 0).paused.contains 3 = false := by decide

/-! ## Witnesses: engines, power and clocks -/

def withEng (e : Nat) (x : Engine) : State := (blk 0 [] []).setEng e x

theorem wit_EngineStarts : ∀ k ∈ [0, 1, 2, 3], ∀ en ∈ [true, false],
    ((withEng 5 { st := .starting, enable := en, startStep := k }).eng 5).st = .starting ∧
    ((withEng 5 { st := .starting, enable := en, startStep := k }).eng 5).startStep = k ∧
    ((withEng 5 { st := .starting, enable := en, startStep := k }).eng 5).enable = en := by decide

def quietBlk : State := withEng 0 { se with st := .quiescing }
theorem wit_EngineStops : ((withEng 5 { st := .starting, startStep := 3 }).eng 5).st = .starting ∧
    ((withEng 5 { st := .starting, startStep := 3 }).eng 5).startStep = 3 ∧
    (quietBlk.eng 0).st = .quiescing ∧ (quietBlk.eng 0).wc = [] ∧ (quietBlk.eng 0).reqs = [] ∧ (quietBlk.eng 0).tests = [] ∧
    (quietBlk.eng 0).heldIn = [] ∧ (quietBlk.eng 0).holding = false ∧ quietBlk.residents 0 = [1, 3] ∧
    (∀ c ∈ quietBlk.residents 0, (quietBlk.ctx c).descs = []) ∧ ((withEng 0 { se with st := .quiescing, tests := [{}] }).eng 0).tests ≠ [] := by
  decide

/-- ENABLE and LINKEN with FREQ 1700. -/
def ctl (en li : Nat) : Word64 := BitVec.ofNat 64 (en * 2 ^ 63 + li * 2 ^ 58 + 1700 * 2 ^ 32)
def engM (s : State) (e : Nat) (v : Word64) : Nat := merged (engctlRead (s.eng e) e) v 0xFF

theorem wit_EngineControl : BusTakes (blk 0 [] []) 0xFF ∧ (blk 0 [] []).pins.fabRstN = true ∧
    (isPe 5 = false ∧ ((blk 0 [] []).eng 5).st = .off ∧ ((blk 0 [] []).eng 5).enable = false ∧ ((blk 0 [] []).eng 5).linkEn = false ∧
      bitAt (engM (blk 0 [] []) 5 (ctl 1 0)) 63 = true ∧ bitAt (engM (blk 0 [] []) 5 (ctl 1 0)) 58 = false ∧
      (blk 0 [] []).img.adopted.isSome = true ∧ ((blk 0 [] []).eng 5).fenced = false ∧ railGood (blk 0 [] []) 5 = true) ∧
    (isPe 0 = false ∧ ((blk 0 [] []).eng 0).st = .on ∧ bitAt (engM (blk 0 [] []) 0 (ctl 0 0)) 63 = false ∧
      bitAt (engM (blk 0 [] []) 0 (ctl 0 0)) 58 = false) ∧
    (((blk 0 [] []).eng 0).enable = true ∧ ((blk 0 [] []).eng 0).linkEn = false ∧
      bitAt (engM (blk 0 [] []) 0 (ctl 1 0)) 63 = true ∧ bitAt (engM (blk 0 [] []) 0 (ctl 1 0)) 58 = false) ∧
    ((127 : Nat) = 96 + 31 ∧ ((withEng 127 se).eng 127).st = .on ∧ ((withEng 127 se).eng 127).enable = true ∧
      ((withEng 127 se).eng 127).linkEn = false ∧ bitAt (engM (withEng 127 se) 127 (ctl 1 1)) 63 = true ∧
      bitAt (engM (withEng 127 se) 127 (ctl 1 1)) 58 = true ∧ railGood (withEng 127 se) 127 = true ∧
      lcPrioData ((withEng 127 se).eng 127).linkCfg ≠ lcPrioCtrl ((withEng 127 se).eng 127).linkCfg) := by decide

theorem wit_PowerCapAndClock : ((blk 0 [] []).eng 0).st ≠ .off ∧ ((blk 0 [] []).eng 0).fcur ≠ 0 := by decide

/-! ## Witnesses: self-tests and functions -/

def testA : SelfTest := { unit := 0, quire := 3, started := true }

theorem wit_UnitEvents : ((withEng 0 { se with tests := [testA] }).eng 0).tests.find?
      (fun t => t.started && unitKey t.unit t.quire == unitKey 0 3) = some testA ∧
    ((withEng 0 { se with tests := [testA] }).eng 0).tests.find?
      (fun t => t.started && unitKey t.unit t.quire == unitKey 1 0) = none ∧
    ((withEng 0 { se with watchFn := .starting }).eng 0).st = .on ∧
    ((withEng 0 { se with watchFn := .starting }).eng 0).watchFn = .starting ∧
    ((withEng 0 { se with watchFn := .on }).eng 0).watchFn = .on ∧ watchInUse (withEng 0 { se with watchFn := .on }) 0 = false ∧
    ({ blk 0 [] [] with trace := { port := .training } } : State).trace.port = .training := by decide

/-! ## Witnesses: counters, trace and the ribbon -/

def sampBlk : State := { blk 0 [] [] with samp := { on := true, base := 0x5000 } }

theorem wit_SamplePoint : (sampBlk.eng 0).works = true ∧ (sampBlk.eng 0).holding = false ∧ sampBlk.samp.on = true ∧
    sampBlk.samp.ctxOn = false ∧ (sampBlk.eng 0).ctxEff = false := by decide

theorem wit_Snapshot : BusTakes (blk 0 [] []) 0xFF ∧ bitAt (pulses (BitVec.ofNat 64 (2 ^ 63)) 0xFF) 63 = true ∧
    (blk 0 [] []).samp.busy = false ∧ BusTakes { blk 0 [] [] with samp := { busy := true } } 0xFF ∧
    ({ blk 0 [] [] with samp := { busy := true } } : State).samp.busy = true := by decide

/-- A RIBBON that waits, and one behind it in another context. -/
def ribbonUnder : Desc := { under ribbonDesc [] with claims := [] }
def ribBlk : State := { (blk 0 [ribbonUnder] []).setCtx 3 (cres 0 [{ ribbonUnder with seq := 6 }]) with
  trace := { ribbons := [(1, 5), (3, 6)] } }

theorem wit_RibbonCut : ribBlk.trace.cutBusy = false ∧ ribBlk.trace.ribbons = [(1, 5), (3, 6)] ∧
    (∀ r ∈ [(3, 6)], (ribBlk.desc? r.1 r.2).isSome = true ∧ (ribBlk.desc r.1 r.2).over = false) ∧
    ribBlk.desc? 1 5 = some ribbonUnder ∧ ribbonUnder.over = false := by decide

/-- An engine that takes part, with the marker at the head of its channel, and with an epoch before it. -/
def partEng (l : List ChanItem) : Engine := { se with cut := { part := true }, chan := l }
theorem wit_RibbonCut_marker : ∀ l ∈ [[ChanItem.marker 7 true], [ChanItem.epoch 2, ChanItem.marker 7 true]],
    ((withEng 0 (partEng l)).eng 0).cut.part = true ∧ ((withEng 0 (partEng l)).eng 0).cut.marked = false ∧
    ((withEng 0 (partEng l)).eng 0).works = true ∧ ((withEng 0 (partEng l)).eng 0).chan = l := by decide

theorem wit_RibbonCut_capture : ∀ x ∈ [(0, 3), (96, 2)],
    let y := (withEng x.1 { se with cut := { part := true, marked := true, respMarks := x.2 } }).eng x.1
    y.cut.part = true ∧ y.cut.marked = true ∧ y.cut.captured = false ∧ marksIn y x.1 = true := by decide

def holdBlk : State := { blk 0 [ribbonUnder] [] with
  trace := { cutBusy := true, cutDone := true, cutHold := true, granted := some (1, 5) } }

theorem wit_HoldEnds : BusTakes holdBlk 0xFF ∧ holdBlk.trace.cutBusy = true ∧ holdBlk.trace.cutDone = true ∧
    holdBlk.trace.cutHold = true ∧ bitAt (pulses (BitVec.ofNat 64 (2 ^ 62)) 0xFF) 62 = true ∧
    bitAt (pulses (BitVec.ofNat 64 (2 ^ 62)) 0xFF) 61 = false ∧ holdBlk.trace.granted = some (1, 5) ∧
    bitAt (pulses (BitVec.ofNat 64 (2 ^ 61)) 0xFF) 61 = true ∧ BusTakes (blk 0 [] []) 0xFF ∧
    ((blk 0 [] []).trace.cutBusy && (blk 0 [] []).trace.cutDone && (blk 0 [] []).trace.cutHold) = false := by decide

def traceBlk : State := { blk 0 [] [] with trace := { on := true } }

theorem wit_TraceControl : BusTakes (blk 0 [] []) 0xFF ∧ (blk 0 [] []).trace.on = false ∧
    bitAt (merged (traceRead (blk 0 [] []).trace 0) (BitVec.ofNat 64 (2 ^ 63 + 6)) 0xFF) 63 = true ∧ BusTakes traceBlk 0xFF ∧
    traceBlk.trace.on = true ∧ bitAt (merged (traceRead traceBlk.trace 0) (BitVec.ofNat 64 (2 ^ 63 + 6)) 0xFF) 63 = true ∧
    bitAt (merged (traceRead traceBlk.trace 0) 6 0xFF) 63 = false := by decide

/-! ## Witnesses: tables and registers -/

/-- SE 0 with an epoch, a marker or nothing at the head of its channel, and a descriptor of it that waits for a flag. -/
def chanBlk (l : List ChanItem) : State := (blk 0 [pollDesc] []).setEng 0 { se with chan := l }
theorem wit_EpochDelivery : ((chanBlk [.epoch 2]).eng 0).st ≠ .off ∧ ((chanBlk [.epoch 2]).eng 0).holding = false ∧
    ((chanBlk [.epoch 2]).eng 0).chan = [.epoch 2] ∧ (chanBlk []).residents 0 = [1, 3] ∧ pollDesc.atBoundary = true ∧
    ((blk 96 [] []).eng 5).st = .off ∧ ((chanBlk []).eng 0).chan = [] ∧
    ((chanBlk [.marker 7 true]).eng 0).chan = [.marker 7 true] ∧
    ((withEng 5 { se with cut := { marked := true, hold := true } }).eng 5).holding = true := by decide

/-- Its tag below the epoch, with the rights that it had and with its PD withdrawn, and at the epoch. -/
theorem wit_EpochDelivery_rights : (chanBlk []).desc? 1 5 = some pollDesc ∧ (chanBlk []).engOf 1 = 0 ∧
    before32 pollDesc.tag 1 = false ∧ before32 pollDesc.tag 2 = true ∧
    pollDesc.rightsOk (chanBlk []) 1 pollDesc.coll.members.length pollDesc.coll.self = true ∧
    pollDesc.rightsOk { chanBlk [] with pds := [] } 1 pollDesc.coll.members.length pollDesc.coll.self = false := by decide

theorem wit_EpochCounts : BusTakes (blk 0 [] []) 0x01 ∧ (blk 0 [] []).epoch < 2 ^ 32 ∧ (blk 0 [] []).epochDone < 2 ^ 32 := by decide

/-- Inline window 2 enabled: FLUSHING, with and without a second FLUSH that waits. -/
def flushWin (again : Bool) : InlineWin := { inlWin with flushing := true, flushAgain := again }
def flushWord (en : Nat) : Word64 := BitVec.ofNat 64 (en * 2 ^ 63 + 2 ^ 61 + 2 ^ 50 + 2 ^ 40)

theorem wit_PulsePairs : BusTakes (inlBlk inlWin) 0xFF ∧ bitAt (pulses (BitVec.ofNat 64 (3 * 2 ^ 61)) 0xFF) 62 = true ∧
    bitAt (pulses (BitVec.ofNat 64 (3 * 2 ^ 61)) 0xFF) 61 = true ∧ ((inlBlk inlWin).inl 2).enable = true ∧
    bitAt (merged (inlRead ((inlBlk inlWin).inl 2) 0) (flushWord 0) 0xFF) 63 = false ∧
    (let x := flushWin false
     let m := merged (inlRead ((inlBlk x).inl 2) 0) (flushWord 1) 0xFF
     x = (inlBlk x).inl 2 ∧ BusTakes (inlBlk x) 0xFF ∧ x.enable = true ∧ x.heldEnable = false ∧ x.flushing = true ∧
      inlReserved 0 m = false ∧ bitAt m 63 = true ∧ inlSet x.reg 0 m = x.reg ∧ bitAt (pulses (flushWord 1) 0xFF) 61 = true) ∧
    (let x := flushWin true
     x = (inlBlk x).inl 2 ∧ x.flushing = true ∧ (inlBlk x).flushPending 2 = false ∧ x.disabling = false ∧ x.flushAgain = true) := by
  decide

def wA : Window := { valid := true, chunk := 2, owner := 1, size := 0x2000, base := 0x100 }

/-- VALID, chunk 2, owner 1, SIZE 0x2000; and the same with SIZE 0, which R144 refuses. -/
def wWord (v n : Nat) : Word64 := BitVec.ofNat 64 (v * 2 ^ 63 + 2 * 2 ^ 48 + 2 ^ 40 + n)
def winBlk (x : Window) : State := { blk 0 [] [] with windows := [(9, x)] }
def winY (x : Window) (m : Nat) : Window := { x with
  valid := bitAt m 63, flagged := bitAt m 62, refused := false, chunk := bits m 51 48, owner := bits m 47 40, size := bits m 28 0 }

theorem wit_WindowWrites : BusTakes (winBlk wA) 0xFF ∧
    (let x := { wA with valid := false, size := 0 }
     let m := merged (winRead ((winBlk x).win 9) 0) (wWord 1 0x2000) 0xFF
     winReserved 0 m = false ∧ ((winBlk x).win 9).valid = false ∧ (winY x m).valid = true ∧ windowOk (winBlk x) (winY x m) = true) ∧
    (let m := merged (winRead ((winBlk wA).win 9) 0) (wWord 0 0x2000) 0xFF
     winReserved 0 m = false ∧ ((winBlk wA).win 9).valid = true ∧ (winY wA m).valid = false) ∧
    (let x := { wA with valid := false, size := 0 }
     let m := merged (winRead ((winBlk x).win 9) 0) (wWord 1 0) 0xFF
     winReserved 0 m = false ∧ (winY x m).valid = true ∧ windowOk (winBlk x) (winY x m) = false) ∧
    winReserved 3 (merged (winRead ((winBlk wA).win 9) 3) 0x003 0xFF) = false ∧
    (let m := merged (winRead ((winBlk wA).win 9) 1) (BitVec.ofNat 64 (0x101 * 2 ^ 12)) 0xFF
     winReserved 1 m = false ∧ bits m 47 12 ≠ ((winBlk wA).win 9).base) := by decide

theorem wit_PdWrites : BusTakes (blk 0 [] []) 0x80 ∧
    bits (merged (pdRead ((blk 0 [] []).pdt 1) 0) (BitVec.ofNat 64 (2 ^ 59)) 0x80) 59 0 ≠ 0 ∧
    bits (merged (pdRead ((blk 0 [] []).pdt 1) 0) (BitVec.ofNat 64 (2 ^ 63)) 0x80) 59 0 = 0 := by decide

/-- ENABLE, INITST 1, BF16 view, PD 1. -/
def iWord (en : Nat) : Word64 := BitVec.ofNat 64 (en * 2 ^ 63 + 2 ^ 50 + 2 ^ 40)
def inlR (r : InlineSet) (m : Nat) : InlineSet := { r with
  initSt := bitAt m 58, sharedRd := bitAt m 57, stack := bits m 55 52, view := bits m 51 50, pd := bits m 47 40 }
def inlOff : InlineWin := { reg := islot }

theorem wit_InlineSetup : BusTakes (inlBlk inlOff) 0xFF ∧
    (let m := merged (inlRead ((inlBlk inlOff).inl 2) 0) (iWord 1) 0xFF
     inlReserved 0 m = false ∧ inlOff.heldEnable = false ∧ inlOff.enable = false ∧ bitAt m 63 = true ∧ inlOff.flushing = false ∧
      (inlBlk inlOff).inlineOk 2 (inlR islot m) = true) ∧
    (let x := { inlOff with reg := { islot with vlen := 63 } }
     let m := merged (inlRead ((inlBlk x).inl 2) 0) (iWord 1) 0xFF
     inlReserved 0 m = false ∧ bitAt m 63 = true ∧ (inlBlk x).inlineOk 2 (inlR x.reg m) = false) ∧
    (let m := merged (inlRead ((inlBlk inlWin).inl 2) 0) (iWord 0) 0xFF
     inlReserved 0 m = false ∧ inlWin.enable = true ∧ inlWin.heldEnable = false ∧ bitAt m 63 = false) ∧
    (let v : Word64 := iWord 1 ||| BitVec.ofNat 64 (2 ^ 61)
     let m := merged (inlRead ((inlBlk inlWin).inl 2) 0) v 0xFF
     inlReserved 0 m = false ∧ bitAt m 63 = true ∧ inlR islot m = inlWin.reg ∧ bitAt (pulses v 0xFF) 61 = true) := by decide

/-- ENABLE, PD 1, engine 0, four tile slots. -/
def cWord (en pd tiles : Nat) : Word64 := BitVec.ofNat 64 (en * 2 ^ 63 + pd * 2 ^ 48 + tiles * 2 ^ 32)
def ctxR (r : CtxSet) (m : Nat) : CtxSet := { r with pd := bits m 55 48, engine := bits m 47 41, tileSlots := bits m 40 32 }
def ctxOff : Ctx := { reg := cset 0 }
def ctxBlk (x : Ctx) : State := (blk 0 [] []).setCtx 1 x
theorem wit_ContextSetup : BusTakes (ctxBlk ctxOff) 0xFF ∧ SMap.wf (ctxBlk ctxOff).ctxs {} = true ∧
    (let m := merged (ctxRead ((ctxBlk ctxOff).ctx 1) 0) (cWord 1 1 4) 0xFF
     ctxReserved 0 m = false ∧ ctxOff.enable = false ∧ bitAt m 63 = true ∧ ctxOff.resident = false ∧
      contextOk (ctxBlk ctxOff) (ctxR ctxOff.reg m) = true) ∧
    (let m := merged (ctxRead ((ctxBlk ctxOff).ctx 1) 0) (cWord 1 1 511) 0xFF
     ctxReserved 0 m = false ∧ bitAt m 63 = true ∧ contextOk (ctxBlk ctxOff) (ctxR ctxOff.reg m) = false) ∧
    (let m := merged (ctxRead ((ctxBlk (cres 0 [])).ctx 1) 0) (cWord 0 1 4) 0xFF
     ctxReserved 0 m = false ∧ ((ctxBlk (cres 0 [])).ctx 1).enable = true ∧ bitAt m 63 = false ∧
      ((ctxBlk (cres 0 [])).ctx 1).resident = true ∧ SMap.wf (ctxBlk (cres 0 [])).ctxs {} = true) ∧
    (let x := { cres 0 [] with resident := false }
     let m := merged (ctxRead ((ctxBlk x).ctx 1) 0) (cWord 0 1 4) 0xFF
     ctxReserved 0 m = false ∧ x.enable = true ∧ bitAt m 63 = false ∧ x.resident = false ∧ SMap.wf (ctxBlk x).ctxs {} = true) := by
  decide

/-- Context 1 waits for SE 0. -/
def waitBlk : State := { ctxBlk { cres 0 [] with resident := false } with waitQ := [1] }

theorem wit_ContextSetup_resident : waitBlk.firstWaiting 0 = some 1 ∧ (waitBlk.eng 0).works = true ∧
    (waitBlk.residents 0).length < 64 ∧ (waitBlk.ctx 1).use.tileSlots ≤ waitBlk.tileFree 0 := by decide

/-- A device that is no member, with its table; JOIN with device 4, domain 9, and a named keystone. -/
def outBlk : State := { blk 0 [] domMem with dom := { domtab := 0x4000 } }
def joinWord (k : Nat) : Word64 := BitVec.ofNat 64 (2 ^ 63 + 2 ^ 60 + 4 * 2 ^ 32 + 9 * 2 ^ 16 + k)
def domT (s : State) (m : Nat) : State := { s with dom := { s.dom with
  kname := bitAt m 60, kport := bits m 59 55, deviceId := bits m 46 32, domain := bits m 31 16, knamed := bits m 14 0 } }
def domM (s : State) (v : Word64) : Nat := merged (globRead s 8) v 0xFF

theorem wit_DomainSetup : BusTakes outBlk 0xFF ∧ outBlk.dom.join = false ∧
    (∀ k ∈ [4, 6], bitAt (domM outBlk (joinWord k)) 63 = true ∧
      memberValid (domT outBlk (domM outBlk (joinWord k))) (domT outBlk (domM outBlk (joinWord k))).dom.deviceId = true ∧
      memberZeroOk (domT outBlk (domM outBlk (joinWord k))) (domT outBlk (domM outBlk (joinWord k))).dom.deviceId = true ∧
      (domT outBlk (domM outBlk (joinWord k))).dom.kname = true) ∧
    (domT outBlk (domM outBlk (joinWord 4))).dom.knamed = (domT outBlk (domM outBlk (joinWord 4))).dom.deviceId ∧
    (domT outBlk (domM outBlk (joinWord 6))).dom.knamed ≠ (domT outBlk (domM outBlk (joinWord 6))).dom.deviceId ∧
    (let s := { outBlk with mem := [] }
     bitAt (domM s (joinWord 4)) 63 = true ∧ memberValid (domT s (domM s (joinWord 4))) (domT s (domM s (joinWord 4))).dom.deviceId = false) ∧
    ((net dom4 {} []).dom.join = true ∧ bitAt (domM (net dom4 {} []) 0) 63 = false ∧ BusTakes (net dom4 {} []) 0xFF) := by decide

def errBlk (on : Bool) : State := { blk 0 [] [] with err := { on := on } }
def imgBlk2 (n : Nat) (l : List Byte) : State := { blk 0 [] [] with engines := [], img := { stat := n, loading := l } }

theorem wit_ErrorRingAndImage : BusTakes (errBlk false) 0xFF ∧ (errBlk false).err.on = false ∧
    bitAt (merged (globRead (errBlk false) 12) (BitVec.ofNat 64 (2 ^ 63 + 6 * 2 ^ 56)) 0xFF) 63 = true ∧
    (errBlk true).err.on = true ∧
    bitAt (merged (globRead (errBlk true) 12) (BitVec.ofNat 64 (2 ^ 63 + 6 * 2 ^ 56)) 0xFF) 63 = true ∧
    bitAt (merged (globRead (errBlk true) 12) 0 0xFF) 63 = false ∧
    (imgBlk2 0 []).anyEngine = false ∧ bitAt (pulses (BitVec.ofNat 64 (2 ^ 63)) 0xFF) 63 = true ∧
    bitAt (pulses (BitVec.ofNat 64 (2 ^ 63)) 0xFF) 62 = false ∧ (imgBlk2 1 []).img.stat = 1 ∧
    bitAt (pulses (BitVec.ofNat 64 (2 ^ 62)) 0xFF) 63 = false ∧ bitAt (pulses (BitVec.ofNat 64 (2 ^ 62)) 0xFF) 62 = true ∧
    imgReason (imgBlk2 1 [0, 0, 0, 0, 0, 0, 0, 0]).img.loading ≠ 0 := by decide

theorem wit_ApertureAccess : (blk 0 [] []).pins.aonPg = true ∧ (0xFF : BitVec 8) ≠ 0 ∧ (127 : Nat) < 128 ∧
    ({ blk 0 [] [] with pins := { pinsUp with fabRstN := false } } : State).pins.fabRstN = false := by decide

theorem wit_AlwaysOnReset : State.reset.pins.vddAon = true ∧ State.reset.pins.aonRstN = false ∧
    ({ State.reset with pins := { aonRstN := true } } : State).pins.vddAon = true ∧
    ({ State.reset with pins := { aonRstN := true } } : State).pins.aonRstN = true ∧
    (∀ up ∈ [true, false], ({ State.reset with pins := { vddAon := false, aonRstN := up } } : State).pins.vddAon = false ∧
      ({ State.reset with pins := { vddAon := false, aonRstN := up } } : State).pins.aonRstN = up) := by decide

theorem wit_FabricReset : SMap.wf (netA 1).engines {} = true ∧ SMap.wf (netA 1).ctxs {} = true ∧ SMap.wf inlS.inlines {} = true ∧
    SMap.wf (netA 1).links {} = true ∧ dieOf 0 = 0 ∧ ((netA 1).ctx 3).use.engine < 128 ∧ dieOf ((netA 1).ctx 3).use.engine = 0 := by
  decide

/-! An image that COMMIT adopts: a header, the four sections that must be there, of which only the lane polynomials hold
bytes, all of them distinct. -/

def enc4 (l : List Nat) : List Byte := (l.map (leBytes 4)).flatten

theorem words4_enc4 (l : List Nat) (h : ∀ v ∈ l, v < 2 ^ 32) : words4 (enc4 l) = l := by
  induction l with
  | nil => rfl
  | cons v r ih =>
    have e : words4 (enc4 (v :: r)) = leNat (leBytes 4 v) :: words4 (enc4 r) := by simp [enc4, leBytes, words4]
    rw [e, leNat_leBytes, ih (fun x hx => h x (List.mem_cons_of_mem _ hx)), Nat.mod_eq_of_lt]
    exact h v (List.mem_cons_self ..)

theorem enc4_length (l : List Nat) : (enc4 l).length = 4 * l.length := by
  induction l with
  | nil => rfl
  | cons v r ih =>
    have e : enc4 (v :: r) = leBytes 4 v ++ enc4 r := by simp [enc4]
    rw [e, List.length_append, leBytes_length, ih, List.length_cons]
    omega

theorem pairwiseOk_nodup (l : List Nat) (h : l.Nodup) : pairwiseOk (fun a b => a == b) l = true := by
  induction l with
  | nil => rfl
  | cons a r ih =>
    rw [List.nodup_cons] at h
    rw [pairwiseOk, ih h.2, Bool.and_true, List.all_eq_true]
    intro b hb
    have : a ≠ b := fun e => h.1 (e ▸ hb)
    simp [this]

def polyWords : List Nat := (List.range allLanes).map (· + 2 ^ 31)
def polyBytes : List Byte := enc4 polyWords

theorem polyWords_ok (v : Nat) (h : v ∈ polyWords) : v < 2 ^ 32 ∧ bitAt v 31 = true := by
  obtain ⟨k, hk, rfl⟩ := List.mem_map.1 h
  have hk : k < 114688 := List.mem_range.1 hk
  refine ⟨by omega, ?_⟩
  rw [bitAt, show (k + 2 ^ 31) / 2 ^ 31 = 1 by omega]
  rfl

theorem polyWords_nodup : polyWords.Nodup := by
  rw [polyWords, List.nodup_iff_pairwise_ne, List.pairwise_map]
  exact (List.nodup_range (n := allLanes)).imp (fun h e => h (by omega))

theorem polyBytes_length : polyBytes.length = 458752 := by
  rw [polyBytes, enc4_length, polyWords, List.length_map, List.length_range]
  rfl

theorem polyBytes_ok : polysOk polyBytes = true := by
  unfold polysOk
  rw [polyBytes_length, polyBytes, words4_enc4 _ (fun v h => (polyWords_ok v h).1)]
  simp only [Bool.and_eq_true, decide_eq_true_eq, List.all_eq_true]
  refine ⟨rfl, fun e _ => ⟨fun v hv => (polyWords_ok v (List.mem_of_mem_drop (List.mem_of_mem_take hv))).2, ?_⟩⟩
  exact pairwiseOk_nodup _ (((List.take_sublist ..).trans (List.drop_sublist ..)).nodup polyWords_nodup)

/-- NSECT and the directory: the polynomials from byte 88, and the three other sections empty. -/
def imgDirBytes : List Byte :=
  leBytes 4 4 ++ [2, 0, 0, 0, 88, 0, 0, 0, 0, 0, 7, 0, 0, 0, 0, 0, 3, 0, 0, 0, 0x58, 0, 7, 0, 0, 0, 0, 0, 0, 0, 0, 0,
    4, 0, 0, 0, 0x58, 0, 7, 0, 0, 0, 0, 0, 0, 0, 0, 0, 6, 0, 0, 0, 0x58, 0, 7, 0, 0, 0, 0, 0, 0, 0, 0, 0]
def imgCrc : Nat := crc32c (imgDirBytes ++ polyBytes)
def goodImg : List Byte :=
  [0x44, 0x52, 0x56, 0x54, 0x43, 0x46, 0x47, 0x30, 1, 0, 0, 0, 0x58, 0, 7, 0] ++ leBytes 4 imgCrc ++ imgDirBytes ++ polyBytes

theorem crc32c_lt (l : List Byte) : crc32c l < 2 ^ 32 := by
  have hb : ∀ (l : List Nat) (x : Nat), x < 2 ^ 32 → l.foldl crc32Bit x < 2 ^ 32 := by
    intro l
    induction l with
    | nil => exact fun x hx => hx
    | cons k r ih =>
      intro x hx
      refine ih _ ?_
      unfold crc32Bit
      split
      · exact Nat.xor_lt_two_pow (by omega) (by decide)
      · omega
  have h : ∀ (l : List Byte) (x : Nat), x < 2 ^ 32 → l.foldl (fun c b => forN 8 (c ^^^ b.toNat) crc32Bit) x < 2 ^ 32 := by
    intro l
    induction l with
    | nil => exact fun x hx => hx
    | cons b r ih =>
      intro x hx
      rw [List.foldl_cons]
      refine ih _ ?_
      unfold forN
      exact hb _ _ (Nat.xor_lt_two_pow hx (by have := b.isLt; omega))
  unfold crc32c
  exact Nat.xor_lt_two_pow (h l _ (by decide)) (by decide)

theorem goodImg_length : goodImg.length = 458840 := by
  have h : imgDirBytes.length = 68 := rfl
  rw [goodImg, List.length_append, List.length_append, List.length_append, leBytes_length, polyBytes_length, h]
  rfl

theorem goodImg_dir : imgDir goodImg 4 = [{ ty := 2, off := 88, len := 458752, zero := 0 }, { ty := 3, off := 458840, len := 0, zero := 0 },
    { ty := 4, off := 458840, len := 0, zero := 0 }, { ty := 6, off := 458840, len := 0, zero := 0 }] := rfl

theorem goodImg_crc : leAt goodImg 0x10 4 = imgCrc := by
  show leNat (leBytes 4 imgCrc) = imgCrc
  rw [leNat_leBytes]
  exact Nat.mod_eq_of_lt (crc32c_lt _)

theorem goodImg_polys : imgSection goodImg 2 = polyBytes := by
  have h1 : leAt goodImg 0x1C 4 = 88 := rfl
  have h2 : leAt goodImg 0x20 4 = 458752 := by decide +kernel
  have h4 : goodImg.drop 20 = imgDirBytes ++ polyBytes := rfl
  have h3 : goodImg.drop 88 = polyBytes := by
    rw [show 88 = 20 + 68 from rfl, ← List.drop_drop, h4]
    exact List.drop_left' rfl
  have h : imgSection goodImg 2 = (goodImg.drop (leAt goodImg 0x1C 4)).take (leAt goodImg 0x20 4) := rfl
  rw [h, h1, h2, h3, ← polyBytes_length, List.take_length]

theorem goodImg_field (a : Nat) (h : a + 4 ≤ 458840) : imgField goodImg a = some (leAt goodImg a 4) := by
  rw [imgField, if_pos (goodImg_length ▸ h)]

theorem wit_ErrorRingAndImage_adopts : imgReason goodImg = 0 := by
  have h0 : leAt goodImg 0 8 = imgMagic := rfl
  have h1 : leAt goodImg 8 4 = 1 := rfl
  have h2 : leAt goodImg 0x0C 4 = 458840 := rfl
  have h3 : leAt goodImg 0x14 4 = 4 := rfl
  have h4 : goodImg.drop 0x14 = imgDirBytes ++ polyBytes := rfl
  have h5 : defaultsOk (imgSection goodImg 1) = true := rfl
  have h6 : dirOk goodImg = true := by
    rw [dirOk, goodImg_field 0x14 (by decide), h3]
    simp only [goodImg_dir, goodImg_length]
    decide
  unfold imgReason
  rw [goodImg_field 0x0C (by decide), goodImg_field 0x10 (by decide), goodImg_polys, goodImg_crc, h0, h1, h2, h4, h5, h6, polyBytes_ok,
    goodImg_length]
  simp [imgMax, imgCrc]

/-! ## Small results: the spec's own examples -/

/-- Example 2.1: plane offsets of a packed tensor. -/
theorem test_planes : FmtW.ofNat 0x1E08C00000000050 =
      { elem := 0x07, scale := 0x20, ash := 2, bound := false, quoins := 1, rowsc := true, rotk := 0, rowlen := 80 } ∧
    ({ f := FmtW.ofNat 0x1E08C00000000050, n := 320 } : Tensor).planes =
      { mortar := 192, quoin := 256, rowscale := 320, total := 336 } := by decide

/-- Example 2.2: a bound ashlar of 16 with a quoin at position 3. -/
def ex22 : Mem := Mem.wrBytes (Mem.wrBytes [] 0 [0x7D, 0x92, 0x05, 0xC3, 0x71, 0x4A, 0x60, 0x2B, 0x1F]) 64 [0xEC, 0xC0, 0x03, 0x80]

theorem test_bound_ashlar : (List.range 16).map (fun i => toF32 (({ f := FmtW.ofNat 0x1E06800000000010, n := 16 } : Tensor).value ex22 i)) =
    [0x3E800000, 0xBE000000, 0x3F400000, 0xC0EC0000, 0x3EC00000, 0xBF000000, 0x3E000000, 0x3FC00000, 0xBE800000, 0x3F000000, 0,
      0x3F800000, 0xBEC00000, 0x3E800000, 0xBFC00000, 0x3E000000] := by decide

/-- Example 3.1: a conversion from FP32, with its event as 1 saturated, 2 flushed, 4 nonfinite. -/
def cv (src dst : Nat) (inAsh nf : Bool) (m : RMode) (r : Nat) : Nat × Nat :=
  let o := convert (elemValue fmtFp32 false src) (fmtD dst) inAsh nf m r
  (o.1, bit o.2.sat + 2 * bit o.2.flush + 4 * bit (codeNonfinite (fmtD dst) o.1))

theorem test_convert_float :
    [cv 0x3F8CCCCD 0x01 false false .rne 0, cv 0x3F8CCCCD 0x01 false false .sr 0x30, cv 0x3F8CCCCD 0x01 false false .sr 0x34,
      cv 0x40A00000 0x07 false false .rne 0, cv 0x40E00000 0x07 false false .rne 0, cv 0x3E4CCCCD 0x07 false false .rne 0,
      cv 0x3E4CCCCD 0x07 false false .sr 0xA0, cv 0xBE4CCCCD 0x07 false false .rne 0, cv 0x3BC00000 0x03 false false .rne 0] =
    [(0x3F8D, 0), (0x3F8C, 0), (0x3F8D, 0), (0x6, 0), (0x7, 1), (0x0, 2), (0x1, 0), (0x8, 2), (0x03, 0)] := by decide

theorem test_convert_other :
    [cv 0xC0200000 0x10 false false .rne 0, cv 0xC0200000 0x11 false false .rne 0, cv 0x3FA66666 0x12 true false .rne 0,
      cv 0x47800000 0x02 false false .rne 0, cv 0x47800000 0x02 false true .rne 0, cv 0x7F800000 0x03 false false .rne 0,
      cv 0x7F800000 0x03 false true .rne 0, cv 0xFFC12345 0x07 false false .rne 0, cv 0x3F8CCCCD 0x0B false false .rne 0] =
    [(0xFE, 0), (0x00, 1), (0x5, 0), (0x7BFF, 1), (0x7C00, 4), (0x7E, 1), (0x7F, 4), (0x7, 1), (0xBACC3F8D, 0)] := by decide

/-- The test vectors of Table 7.2. -/
theorem test_mixer : mix 0 0 0 0 = { a := 0x2F52A696, b := 0xA4E01100, c := 0xA1C7C08F, d := 0x61EAD5DE } ∧
    mix 0x0123456789ABCDEF 1 0x10 0 = { a := 0xF2D39139, b := 0x25249E01, c := 0x90B6073B, d := 0xBCDC2A88 } := by decide

/-- The check values of R122 and R341 over "123456789". -/
theorem test_crc : crc64 [0x31, 0x32, 0x33, 0x34, 0x35, 0x36, 0x37, 0x38, 0x39] = 0x6C40DF5F0B497347 ∧
    crc32c [0x31, 0x32, 0x33, 0x34, 0x35, 0x36, 0x37, 0x38, 0x39] = 0xE3069283 := by decide +kernel

/-- Example 12.1: the header of a course frame. -/
def ex121 : FrameHdr := {
  domain := 0x42, job := 0x5A, ticket := 0x123400, bucket := 7, course := 2, src := 0x13, dst := 0x10, pfmt := 7, plen := 0x500
  mlen := 0x100, seq := 0x101, flags := 4, kind := 2 }

theorem test_header : hdrBytes ex121 =
    [0x10, 0x00, 0x42, 0x05, 0xA0, 0x00, 0x00, 0x01, 0x23, 0x40, 0x00, 0x00, 0x70, 0x00, 0x00, 0x00, 0x10, 0x01, 0x30, 0x02, 0x03,
      0x8A, 0x01, 0x00, 0x00, 0x00, 0x20, 0x20, 0x84, 0x00, 0x00, 0x00] := by decide

/-- Table 18.7. -/
theorem test_offsets : [0x20AF00, 0x500030, 0x580260, 0x135000, 0x185008, 0x601558, 0x700020].map regAt =
    [.ctx 700 0, .pd 3 0, .inl 9 4, .eng 53 0, .eng 101 1, .link 5 11, .trace 4] := by decide

/-- Example 11.1: courses 1 to 3 of an ashlar, without and with a raise. -/
def e2m1 (l : List Nat) (sc : Nat) : List XVal :=
  l.map (fun c => (xvCode (fmtD 0x07) true c).mul (xvCode (FmtW.ofNat 0x1E04000000000000).sfmt false sc))
def ex111 (cin : List Nat) (s h : Nat) (loc : List Nat) : List Nat × Nat × Nat × Nat :=
  let o := courseAshlar (FmtW.ofNat 0x1E04000000000000) cin s h (e2m1 loc 0x7F) false .rne []
  (o.codes, o.scale, o.h, o.raises)
theorem test_course : ex111 [6, 4, 0xA, 1] 0x7F 0 [4, 5, 0xA, 1] = ([7, 6, 0xC, 2], 0x7F, 0, 0) ∧
    ex111 [7, 6, 0xC, 2] 0x7F 0 [2, 2, 9, 2] = ([6, 4, 0xA, 2], 0x80, 1, 1) ∧
    ex111 [6, 4, 0xA, 2] 0x80 1 [5, 1, 0xE, 1] = ([7, 4, 0xD, 2], 0x80, 1, 0) := by decide

/-- The memory and the first descriptor of context 1 after a strip of it. -/
def stripped (s : State) : Mem × Desc :=
  match exec (.stripIssue 1 none) s with
  | .next t => (t.mem, t.desc 1 5)
  | _ => ([], {})

def bf16s (a : Nat) (l : List Nat) : Mem := Mem.wrBytes [] a (l.map (leBytes 2)).flatten

/-- Example 4.2: a row of 16 BF16 elements into FP4-E2M1 with a bound scale of 16 and one quoin, with scale search. -/
def ex42 : State := blk 0 [under { seq := 5, words := words 0x02 0x10 0 16 (2 ^ 58 + 16) 0x1E06800000000010 } []]
  (bf16s 0x10000 [0x3F40, 0xBE80, 0x3F90, 0x3D80, 0xBF80, 0xC118, 0x3FD0, 0x3F00, 0xBF60, 0x3E00, 0, 0x3EC0, 0xBEC0, 0x3E80, 0xBF20, 0x3F20])

theorem test_quantise : Mem.bytes (stripped ex42).1 0x20000 9 = [0x7D, 0xA5, 0x06, 0x0E, 0x47, 0x1E, 0x30, 0x2B, 0x4C] ∧
    Mem.bytes (stripped ex42).1 0x20040 4 = [0x18, 0xC1, 0x05, 0x80] ∧ (stripped ex42).2.flush = 1 ∧ (stripped ex42).2.sat = 0 := by
  decide +kernel

/-- Example 6.1: a row of five FP32 elements summed in column order and exactly. -/
def ex61 (opf df : Nat) : State := blk 0 [under { seq := 5, words := words 0x06 (0x10 * opf) 0 5 5 df } []]
  (Mem.wrBytes [] 0x10000 ([0x4B800000, 0x3F800000, 0x3F800000, 0xCB800000, 0x3F800000].map (leBytes 4)).flatten)
theorem test_reduce : Mem.rd (stripped (ex61 0 0)).1 0x20000 4 = 0x3F800000 ∧
    Mem.rd (stripped (ex61 1 (0x0A * 2 ^ 58))).1 0x20000 8 = 0x40400000 := by decide +kernel

/-- Example 5.1: three products folded in order; the accumulator reads +0, where another order gives 1. -/
def ex51 : State := blk 0 [under { seq := 5, words := words 0x05 8 0 1 0x1E04000000000003 1 }
    [2 ^ 52 * 2 + 3 * 2 ^ 40, 0, 0x0400400000000003, 0, 1, 1, 0, 1 + 2 ^ 8 + 2 ^ 33]]
  (Mem.wrBytes (Mem.wrBytes (Mem.wrBytes (Mem.wrBytes [] 0x10000 [0x17, 0x0F]) 0x10040 [0x85]) 0x30000 [0x80, 0x49, 0x80, 0x3E, 0x80, 0x49])
    0x30040 [0, 0, 0, 0x3E])

/-- Example 7.2: the first bytes of the result of one row: the token and the largest z. -/
def ex72 : State := blk 0 [{ under { seq := 5, words := words 0x08 0 0 1 (2 ^ 58) (3 * 2 ^ 52 + 3 * 2 ^ 40) } [] with words := (words 0x08 0 0 1 (2 ^ 58) (3 * 2 ^ 52 + 3 * 2 ^ 40)).set 6 0 }]
  (Mem.wrBytes (bf16s 0x10000 [0x4000, 0x3F80, 0x3FC0, 0x3F00]) 0x30008 [4, 0, 0, 0, 0, 0, 0x80, 0x3F])
/-- The state after `n` strips of context 1. -/
def strips : Nat → State → State
  | 0, s => s
  | n + 1, s => match exec (.stripIssue 1 none) s with | .next t => strips n t | _ => s

theorem test_fold : storeRd ((strips 3 ex51).ctx 1).live 0 4 = 0 ∧ ((strips 3 ex51).desc 1 5).cursor = 3 := by decide +kernel

theorem test_sample : Mem.rd (stripped ex72).1 0x20000 4 = 2 ∧ Mem.rd (stripped ex72).1 0x20004 4 / 2 ^ 16 = 0xBFA4 ∧
    Mem.rd (stripped ex72).1 0x20008 4 = 0x40000000 := by decide +kernel

/-- Example 7.1: a stochastic CONVERT of ten elements, seed 0. -/
def ex71 : State := blk 0 [under { seq := 5, words := (words 0x01 2 0 10 0 (2 ^ 58)).set 6 0 } []]
  (Mem.wrBytes [] 0x10000 (((List.range 10).map (fun _ => leBytes 4 0x3F8CCCCD)).flatten))

theorem test_stochastic : [0, 4, 5, 9].map (fun i => Mem.rd (stripped ex71).1 (0x20000 + 2 * i) 2) = [0x3F8D, 0x3F8C, 0x3F8C, 0x3F8D] := by
  decide +kernel

/-- Example 18.1: window 17 as it stands before steps 4 and 5. -/
def ex181 (v : Bool) : State := { State.reset with
  pins := pinsUp, epoch := if v then 0x102 else 0x101
  windows := [(17, { valid := v, flagged := v, owner := if v then 3 else 0, size := if v then 0x4000 else 0, base := 0x4000000
                     flags := 0x140000000, grants := 0x45 })] }
def epochOf (o : Host.Outcome State Fault Refusal) : Nat × Nat :=
  match o with
  | .next t => (t.epoch, regRead t (regAt 0x400220))
  | _ => (0, 0)
theorem test_window_steps :
    epochOf (exec (.windowDefine 17 0xC004030000004000 0xFF) (ex181 false)) = (0x102, 0xC004030000004000) ∧
    epochOf (exec (.registerWrite true 0x400228 0x4100000000 0xFF) (ex181 true)) = (0x102, 0xE004030000004000) ∧
    epochOf (exec (.windowEdit 17 3 0x47 0xFF) (ex181 true)) = (0x103, 0xC004030000004000) ∧
    epochOf (exec (.windowWithdraw 17 0x4004030000004000 0xFF) (ex181 true)) = (0x103, 0x4004030000004000) := by decide
end Sys2Proof.Tests
end

section
/-! The doorbell aperture (R173, R174, R347): what an arriving write does under each condition of its context, what each kind
of request answers, and the statement about both. -/

namespace Sys2Proof.Machine

/-! ## What an arriving write does (R174, R289, R295, R308, R333) -/

/-- A field of the low word of a 64-bit value is read the same from that word alone. -/
theorem bits_low32 (v hi lo : Nat) (h : hi ≤ 31) : bits (bits v 31 0) hi lo = bits v hi lo := by
  refine Nat.eq_of_testBit_eq fun i => ?_
  simp only [bits, Nat.testBit_mod_two_pow, Nat.testBit_div_two_pow]
  by_cases hin : i < hi + 1 - lo
  · simp [hin, show i + lo < 32 by omega]
  · simp [hin]

section Arrival
variable {s : State} {c v : Nat}

/-- R289, R308 and log 33: a context that is not enabled, waits for a held enable, is being saved, or has a fenced engine. -/
theorem takeDoorbell_of_closed (h : (s.ctx c).enable = false ∨ (s.ctx c).reEnable = true ∨ (s.ctx c).saving = true ∨
    (s.eng (s.ctx c).use.engine).fenced = true) : takeDoorbell s c v = dropDoorbell s c := by
  have hclosed : (!(s.ctx c).enable || (s.ctx c).reEnable || (s.eng (s.ctx c).use.engine).fenced ||
      (s.ctx c).saving) = true := by
    rcases h with h | h | h | h <;> simp [h]
  simp only [takeDoorbell, hclosed, if_true]

/-- What is left of an arriving write once R289, R308 and log 33 do not drop it: the holds of R295 and R333. -/
theorem takeDoorbell_of_open (he : (s.ctx c).enable = true) (hr : (s.ctx c).reEnable = false)
    (hs : (s.ctx c).saving = false) (hf : (s.eng (s.ctx c).use.engine).fenced = false) :
    takeDoorbell s c v =
      if (s.ctx c).restoring || ((s.ctx c).resident && (s.eng (s.ctx c).use.engine).isOn &&
          (s.eng (s.ctx c).use.engine).holding) then
        if (s.ctx c).restoring || (s.ctx c).heldDb.length < 16 then
          s.setCtx c { s.ctx c with heldDb := (s.ctx c).heldDb ++ [v] }
        else dropDoorbell s c
      else ringDoorbell s c v := by
  simp [takeDoorbell, he, hr, hs, hf]

/-- Both indices pass and P differs from SQTAIL (R174). -/
theorem ringDoorbell_of_new_tail
    (hp : sub16 (bits v 15 0) (s.ctx c).sqHead < 2 ^ (s.ctx c).use.sqLog2)
    (ht : sub16 (bits v 15 0) (s.ctx c).sqTail < 2 ^ (s.ctx c).use.sqLog2)
    (hh : sub16 (s.ctx c).cqTail (bits v 31 16) ≤ sub16 (s.ctx c).cqTail (s.ctx c).cqHead)
    (hne : bits v 15 0 ≠ (s.ctx c).sqTail) :
    ringDoorbell s c v =
      s.setCtx c { s.ctx c with sqTail := bits v 15 0, cqHead := bits v 31 16, rang := true } := by
  simp [ringDoorbell, CtxSet.sqSize, hp, ht, hh, hne]

/-- Both indices pass and P repeats SQTAIL: a working engine reads the awaited flags again (R148, R174). -/
theorem ringDoorbell_of_same_tail
    (hp : sub16 (bits v 15 0) (s.ctx c).sqHead < 2 ^ (s.ctx c).use.sqLog2)
    (ht : sub16 (bits v 15 0) (s.ctx c).sqTail < 2 ^ (s.ctx c).use.sqLog2)
    (hh : sub16 (s.ctx c).cqTail (bits v 31 16) ≤ sub16 (s.ctx c).cqTail (s.ctx c).cqHead)
    (heq : bits v 15 0 = (s.ctx c).sqTail) (hw : (s.eng (s.ctx c).use.engine).works = true) :
    ringDoorbell s c v =
      reReadFlags (s.setCtx c { s.ctx c with sqTail := bits v 15 0, cqHead := bits v 31 16, rang := true }) c := by
  rw [heq] at hp ht
  simp [ringDoorbell, CtxSet.sqSize, hp, ht, hh, heq, hw]

/-- An index that does not pass stops the ring (R174). -/
theorem ringDoorbell_of_bad_index
    (h : 2 ^ (s.ctx c).use.sqLog2 ≤ sub16 (bits v 15 0) (s.ctx c).sqHead ∨
      2 ^ (s.ctx c).use.sqLog2 ≤ sub16 (bits v 15 0) (s.ctx c).sqTail ∨
      sub16 (s.ctx c).cqTail (s.ctx c).cqHead < sub16 (s.ctx c).cqTail (bits v 31 16)) :
    ringDoorbell s c v = s.setCtx c { s.ctx c with ringErr := true } := by
  have hbad : ¬ (sub16 (bits v 15 0) (s.ctx c).sqHead < (s.ctx c).use.sqSize ∧
      sub16 (bits v 15 0) (s.ctx c).sqTail < (s.ctx c).use.sqSize ∧
      sub16 (s.ctx c).cqTail (bits v 31 16) ≤ sub16 (s.ctx c).cqTail (s.ctx c).cqHead) := by
    simp only [CtxSet.sqSize]
    omega
  simp only [ringDoorbell, Bool.and_eq_true, decide_eq_true_eq, and_assoc, if_neg hbad]

end Arrival

/-- The low word of the written value is all that a ring sees of it. -/
theorem ringDoorbell_low32 (s : State) (c v : Nat) : ringDoorbell s c (bits v 31 0) = ringDoorbell s c v := by
  simp only [ringDoorbell, bits_low32 v 15 0 (by omega), bits_low32 v 31 16 (by omega)]

/-- A dropped write counts once in the block's counter (R173). -/
@[simp] theorem dropDoorbell_dbDrop (s : State) (c : Nat) : (dropDoorbell s c).dbDrop = satInc32 s.dbDrop 1 := by
  simp only [dropDoorbell]
  split <;> rfl

/-- Without RINGERR is one of R171's conditions of a fetch. -/
theorem mayFetch_of_ringErr {s : State} {c : Nat} (h : (s.ctx c).ringErr = true) : mayFetch s c = false := by
  simp [mayFetch, h]

theorem exec_descriptorFetch_of_ringErr {s : State} {c : Nat} (h : (s.ctx c).ringErr = true) :
    exec (.descriptorFetch c) s = .next s := by
  change execDescriptorFetch c s = _
  simp only [execDescriptorFetch, mayFetch_of_ringErr h, Bool.false_eq_true, if_false]

/-! ## Requests at the doorbell aperture (R173, R347, R351) -/

/-- The meaning of the row, from the model's table. -/
theorem exec_doorbell (isWrite parityOk : Bool) (off size : Nat) (v : Word64) (s : State) :
    exec (.doorbell isWrite parityOk off size v) s = execDoorbell isWrite parityOk off size v s := rfl

theorem page_of_offset {c o : Nat} (hc : c < 4096) (ho : o < 0x1000) : (c * 0x1000 + o) / 0x1000 % 4096 = c := by
  omega

theorem offset_in_page {c o : Nat} (ho : o < 0x1000) : (c * 0x1000 + o) % 0x1000 = o := by
  rw [Nat.mul_add_mod_self_right, Nat.mod_eq_of_lt ho]

section Aperture
variable {s : State} {c off : Nat} (hpg : s.pins.aonPg = true) (hpage : off / 0x1000 % 4096 = c)
include hpg hpage

/-- R347 and log 59: a request with bad parity is recorded under engine 0, after a write has counted as dropped. -/
theorem exec_doorbell_bad_parity (isWrite : Bool) (size : Nat) (v : Word64) :
    exec (.doorbell isWrite false off size v) s = .next (busParity (if isWrite then dropDoorbell s c else s)) := by
  simp [exec_doorbell, execDoorbell, hpg, hpage]

/-- A write reaches its context only at the start of the page, in 4 or 8 bytes, out of fabric reset (R173). -/
theorem exec_doorbell_write (size : Nat) (v : Word64) :
    exec (.doorbell true true off size v) s =
      .next (busOk (if off % 0x1000 = 0 ∧ (size = 4 ∨ size = 8) ∧ s.pins.fabRstN = true then
        takeDoorbell s c (bits v.toNat 31 0) else dropDoorbell s c)) := by
  simp [exec_doorbell, execDoorbell, hpg, hpage, busOk, and_assoc]

/-- A read gives SQHEAD and CQTAIL at the start of the page out of fabric reset, and 0 elsewhere (R173). -/
theorem exec_doorbell_read (size : Nat) (v : Word64) :
    exec (.doorbell false true off size v) s =
      .next (s.out (.bus (if off % 0x1000 = 0 ∧ s.pins.fabRstN = true then
        (s.ctx c).sqHead + (s.ctx c).cqTail * 65536 else 0) 0)) := by
  simp [exec_doorbell, execDoorbell, hpg, hpage]

end Aperture

end Sys2Proof.Machine

namespace Sys2Proof.Laws
open Sys2Proof Sys2Proof.Machine

/-- Settles O24: the aperture's three kinds of request, then what an arriving write does by the context's conditions. -/
theorem doorbellAccess : Obligations.DoorbellAccess := by
  rintro c size v s x hpg hc rfl
  have hpage : c * 0x1000 / 0x1000 % 4096 = c := by omega
  have hstart : c * 0x1000 % 0x1000 = 0 := Nat.mul_mod_left _ _
  refine ⟨fun hrst hsize => ?_, fun o ho hout => ?_, dropDoorbell_dbDrop s c, fun herr => ?_, fun hrst => ?_,
    fun o ho hout => ?_, ?_, ?_⟩
  · rw [exec_doorbell_write hpg hpage, if_pos ⟨hstart, hsize, hrst⟩]
    refine ⟨fun he hr hs hf => ?_, fun hclosed => by rw [takeDoorbell_of_closed hclosed]⟩
    rw [takeDoorbell_of_open he hr hs hf]
    refine ⟨fun hres hhold => ?_, fun hkept => ?_, fun hres hin hon hhold hfull => ?_⟩
    · rw [if_neg (by simp [hres, hhold]), ringDoorbell_low32]
      exact ⟨fun hp ht hh => ⟨fun hne => by rw [ringDoorbell_of_new_tail hp ht hh hne],
        fun heq hw => by rw [ringDoorbell_of_same_tail hp ht hh heq hw]⟩,
        fun hbad => by rw [ringDoorbell_of_bad_index hbad]⟩
    · rcases hkept with hres | ⟨hin, hon, hhold, hroom⟩
      · rw [if_pos (by simp [hres]), if_pos (by simp [hres])]
      · rw [if_pos (by simp [hin, hon, hhold]), if_pos (by simp [hroom])]
    · rw [if_pos (by simp [hin, hon, hhold]), if_neg (by simp [hres, hfull])]
  · have hmiss : ¬ (o = 0 ∧ (size = 4 ∨ size = 8) ∧ s.pins.fabRstN = true) := by
      rintro ⟨h0, hsize, hrst⟩
      rcases hout with h | ⟨h4, h8⟩ | h
      · exact h h0
      · exact hsize.elim h4 h8
      · simp [hrst] at h
    rw [exec_doorbell_write hpg (page_of_offset hc ho), offset_in_page ho, if_neg hmiss]
  · rw [exec_descriptorFetch_of_ringErr herr]
  · rw [exec_doorbell_read hpg hpage, if_pos ⟨hstart, hrst⟩]
  · have hmiss : ¬ (o = 0 ∧ s.pins.fabRstN = true) := by
      rintro ⟨h0, hrst⟩
      exact hout.elim (· h0) (by simp [hrst])
    rw [exec_doorbell_read hpg (page_of_offset hc ho), offset_in_page ho, if_neg hmiss]
  · rw [exec_doorbell_bad_parity hpg hpage, if_neg Bool.false_ne_true, busParity]
  · rw [exec_doorbell_bad_parity hpg hpage, if_pos rfl, busParity]

end Sys2Proof.Laws
end

section
/-! The drops of a received frame (R249, R333, R347; logs 96 and 102): the fourteen frame rows are one operation, what that
operation answers to a frame that its PE takes notice of, and the statement about both. -/

namespace Sys2Proof.Machine

/-- The rows in which a frame arrives, each with the TYPE that is its own. -/
def frameRows : List ((Nat → RxFrame → Instr) × Nat) :=
  [(Instr.data, 0), (Instr.ack, 1), (Instr.nak, 2), (Instr.credit, 3), (Instr.announce, 4), (Instr.abort, 5),
    (Instr.heartbeat, 6), (Instr.leaseReq, 7), (Instr.leaseGrant, 8), (Instr.mark, 9), (Instr.markAck, 10),
    (Instr.join, 11), (Instr.joined, 12), (Instr.elected, 13)]

/-- Every frame row is `receive` for its type; the rows differ only in what they do with a frame that passes. -/
theorem exec_frameRow {row : Nat → RxFrame → Instr} {ty : Nat} (h : (row, ty) ∈ frameRows) (p : Nat) (f : RxFrame)
    (s : State) : ∃ rec k, exec (row p f) s = .next (receive s p ty f rec k) := by
  simp only [frameRows, List.mem_cons, Prod.mk.injEq, List.not_mem_nil, or_false] at h
  rcases h with ⟨rfl, rfl⟩ | ⟨rfl, rfl⟩ | ⟨rfl, rfl⟩ | ⟨rfl, rfl⟩ | ⟨rfl, rfl⟩ | ⟨rfl, rfl⟩ | ⟨rfl, rfl⟩ | ⟨rfl, rfl⟩ |
    ⟨rfl, rfl⟩ | ⟨rfl, rfl⟩ | ⟨rfl, rfl⟩ | ⟨rfl, rfl⟩ | ⟨rfl, rfl⟩ | ⟨rfl, rfl⟩
  all_goals exact ⟨_, _, rfl⟩

/-- What becomes of a frame that none of the drops of R249 applies to: its sender is no longer lost (R259), a RECV record is
written where `rec` asks for it, and `k` works on it, through the control receive queue if it is a control frame (R250). -/
def takePassed (s : State) (p ty : Nat) (h : FrameHdr) (rec : Bool) (k : State → FrameHdr → State) : State :=
  let s := s.modLink p (fun l => { l with lost := l.lost.filter (· ≠ h.src) })
  let s := if rec then traceFrame s (peEng p) h true false else s
  if ty = 0 then k s h else leaveCtl (k (enterCtl s p) h) p

section Arrival
variable {s : State} {p ty : Nat} {f : RxFrame} {rec : Bool} {k : State → FrameHdr → State}
  (hty : f.frame.hdr.ftype = ty ∨ 14 ≤ f.frame.hdr.ftype)
include hty

/-- R249 with log 102: the drops in the order of their counters, then the frame that passes. -/
theorem receive_of_hears (hears : Hears s p f.frame.hdr.ftype) :
    receive s p ty f rec k =
      if fcsBad s p f = true then dropFcs s p
      else if protoOk s p f = false ∨ f.frame.hdr.version ≠ 1 ∨ 14 ≤ f.frame.hdr.ftype then dropHdr s p
      else if f.frame.hdr.domain ≠ s.dom.domain ∨ f.frame.hdr.dst ≠ s.dom.deviceId ∨
        memberValid s f.frame.hdr.src = false then dropAddr s p
      else takePassed s p ty f.frame.hdr rec k := by
  obtain ⟨hp, hlive, hfence, hhold⟩ := hears
  have hown : ¬ (f.frame.hdr.ftype ≠ ty ∧ f.frame.hdr.ftype < 14) := by omega
  have hheld : ¬ ((s.eng (peEng p)).holding = true ∧ f.frame.hdr.ftype ≠ 6) := fun h => h.2 (hhold h.1)
  simp [receive, takePassed, fcsBad, Nat.not_le.2 hp, hlive, hfence, hown, hheld, or_assoc]

/-- R333: in a ribbon hold a frame that is no HEARTBEAT is counted and has no other effect. -/
theorem receive_of_holding (hp : p < 32) (hlive : linkLive s p = true) (hfence : (s.eng (peEng p)).fenced = false)
    (hhold : (s.eng (peEng p)).holding = true) (hbeat : f.frame.hdr.ftype ≠ 6) :
    receive s p ty f rec k =
      s.modLink p (fun l => { l with cnt := { l.cnt with holdDrop := satInc32 l.cnt.holdDrop 1 } }) := by
  have hown : ¬ (f.frame.hdr.ftype ≠ ty ∧ f.frame.hdr.ftype < 14) := by omega
  simp [receive, Nat.not_le.2 hp, hlive, hfence, hown, hhold, hbeat]

end Arrival

end Sys2Proof.Machine

namespace Sys2Proof.Laws
open Sys2Proof Sys2Proof.Machine

/-- Settles O28: every frame row is `receive`, which raises the first counter whose reason holds (log 102). -/
theorem framesDropped : Obligations.FramesDropped := by
  intro row ty p f s hrow hty
  obtain ⟨rec, k, hexec⟩ := exec_frameRow hrow p f s
  rw [hexec]
  refine ⟨fun hears hfcs => ?_, fun hears hfcs hhdr => ?_, fun hears hfcs hproto hver hlow haddr => ?_,
    fun hp hlive hfence hhold hbeat => by rw [receive_of_holding hty hp hlive hfence hhold hbeat]⟩
  · rw [receive_of_hears hty hears, if_pos hfcs]
  · rw [receive_of_hears hty hears, if_neg (by simp [hfcs]), if_pos hhdr]
  · have hhdr : ¬ (protoOk s p f = false ∨ f.frame.hdr.version ≠ 1 ∨ 14 ≤ f.frame.hdr.ftype) := by
      simp [hproto, hver, hlow]
    rw [receive_of_hears hty hears, if_neg (by simp [hfcs]), if_neg hhdr, if_pos haddr]

end Sys2Proof.Laws
end

section
/-! The epoch (R282, Table 14.2): a write of a window or PD entry is refused or accepted, an accepted one raises EPOCH as its
word says, and PEPOCH, the comparison of epochs and the channels follow it. -/

namespace Sys2Proof.Machine

/-! ## Writes that the control bus takes (R351, R355) -/

theorem busWrite_of_takes {s : State} {be : BitVec 8} (h : BusTakes s be) (r : Reg) (v : Word64) :
    busWrite s r v be = busOk (regWrite s r v be) := by
  obtain ⟨hpg, hbe⟩ := h
  rw [busWrite, if_neg (by simp [hpg]), if_neg hbe, busOk]

theorem exec_windowEdit_of_takes {s : State} {be : BitVec 8} (h : BusTakes s be) (w k : Nat) (v : Word64) :
    exec (.windowEdit w k v be) s = .next (busOk (winWrite s w k v be)) :=
  congrArg Host.Outcome.next (busWrite_of_takes h (.win w k) v)

theorem exec_pdWrite_of_takes {s : State} {be : BitVec 8} (h : BusTakes s be) (d k : Nat) (v : Word64) :
    exec (.pdWrite d k v be) s = .next (busOk (pdWordWrite s d k v be)) :=
  congrArg Host.Outcome.next (busWrite_of_takes h (.pd d k) v)

/-! ## The epoch that an entry's write leaves (R282) -/

/-- A window entry's word is refused, or it is accepted, and then word 0 and word 3 raise the epoch. -/
theorem winWrite_cases (s : State) (w k : Nat) (v : Word64) (be : BitVec 8) :
    winWrite s w k v be = s.setWin w { s.win w with refused := true } ∨
      ∃ y : Window, y.refused = false ∧
        winWrite s w k v be = if k = 0 ∨ k = 3 then raiseEpoch (s.setWin w y) else s.setWin w y := by
  simp only [winWrite, Bool.or_eq_true, decide_eq_true_eq]
  split
  · exact .inl rfl
  · exact .inr ⟨_, rfl, rfl⟩

/-- A PD entry's word is refused, or it is accepted and raises the epoch; only the edits remembered for the inline paths
(log 35) depend on what it changes. -/
theorem pdWordWrite_cases (s : State) (d k : Nat) (v : Word64) (be : BitVec 8) :
    pdWordWrite s d k v be = s.setPd d { s.pdt d with refused := true } ∨
      ∃ (y : PdEntry) (l : List (Nat × Nat × Bool)), y.refused = false ∧
        pdWordWrite s d k v be = { raiseEpoch (s.setPd d y) with pdHist := l } := by
  unfold pdWordWrite
  extract_lets x m y t
  have hy : y.refused = false := by
    simp only [y]
    split <;> rfl
  generalize (if k = 0 then bits m 59 0 else m) = reserved
  split
  · exact .inl rfl
  · split
    · exact .inr ⟨y, t.pdHist, hy, rfl⟩
    · exact .inr ⟨y, t.pdHist ++ [(t.epoch, d, x.valid)], hy, rfl⟩

/-- The new epoch goes out on the channel of every engine that is not OFF (R283). -/
theorem raiseEpoch_eq (s : State) : raiseEpoch s = { s with
    epoch := (s.epoch + 1) % 2 ^ 32
    engines := SMap.mapVals s.engines {} (fun x =>
      if x.st = .off then x else { x with chan := x.chan ++ [.epoch ((s.epoch + 1) % 2 ^ 32)] }) } := by
  simp only [raiseEpoch, beq_iff_eq]

/-- PEPOCH is word 4 of the global block (Table 14.2). -/
theorem regRead_pepoch (s : State) (he : s.epoch < 2 ^ 32) (hd : s.epochDone < 2 ^ 32) :
    regRead s (regAt 0x20) = s.epoch * 2 ^ 32 + s.epochDone := by
  have hreg : regAt 0x20 = .glob 4 := by decide
  simp only [hreg, regRead, globRead, place, Nat.mod_eq_of_lt he, Nat.mod_eq_of_lt hd]
  omega

/-- Epochs are compared by the sign of their 32-bit difference (R282). -/
theorem before32_eq_msb_sub (a b : Word32) : before32 a.toNat b.toNat = (a - b).msb := by
  have hdiff : (a.toNat + 2 ^ 32 - b.toNat % 2 ^ 32) % 2 ^ 32 = (a - b).toNat := by
    bv_omega
  rw [before32, hdiff, BitVec.msb_eq_decide]

end Sys2Proof.Machine

namespace Sys2Proof.Laws
open Sys2Proof Sys2Proof.Machine

/-- Settles O50: what a write of an entry can do, through the bus that takes it, then the epoch itself. -/
theorem epochCounts : Obligations.EpochCounts := by
  intro v be s htakes
  refine ⟨fun w k => ?_, fun d k => ?_, raiseEpoch_eq, regRead_pepoch s, before32_eq_msb_sub⟩
  · rw [exec_windowEdit_of_takes htakes]
    obtain hrefused | ⟨y, hy, haccepted⟩ := winWrite_cases s w k v be
    · exact .inl (by rw [hrefused])
    · exact .inr ⟨y, hy, by rw [haccepted]⟩
  · rw [exec_pdWrite_of_takes htakes]
    obtain hrefused | ⟨y, l, hy, haccepted⟩ := pdWordWrite_cases s d k v be
    · exact .inl (by rw [hrefused])
    · exact .inr ⟨y, l, hy, by rw [haccepted]⟩

end Sys2Proof.Laws
end

section
/-! Pulse fields written together (R363): what clearing one pulse bit of a written value leaves of the resulting word, what
the two words with a pair of pulses do with it, how a flush ends, and the statement about them. -/

namespace Sys2Proof.Machine

/-! ## A written word with one bit cleared (R355) -/

theorem bitAt_eq_testBit (n i : Nat) : bitAt n i = n.testBit i := by
  rw [Bool.eq_iff_iff, bitAt, Nat.testBit_eq_decide_div_mod_eq, beq_iff_eq, decide_eq_true_eq]

/-- Clearing bit `k` of the written value changes no other bit of the word that the write leaves. -/
theorem testBit_merged_clear {i k : Nat} (h : i ≠ k) (old : Nat) (v : Word64) (be : BitVec 8) :
    (merged old (v &&& ~~~((1 : Word64) <<< k)) be).testBit i = (merged old v be).testBit i := by
  have hone : ((1 : Word64) <<< k).getLsbD i = false := by
    rw [show (1 : Word64) <<< k = BitVec.twoPow 64 k from (BitVec.twoPow_eq 64 k).symm, BitVec.getLsbD_twoPow,
      decide_eq_false h.symm, Bool.and_false]
  simp only [merged, mergeBytes, BitVec.testBit_toNat, BitVec.getLsbD_or, BitVec.getLsbD_and, BitVec.getLsbD_not, hone]
  by_cases hi : i < 64
  · simp [hi]
  · simp [BitVec.getLsbD_of_ge v i (Nat.not_lt.1 hi)]

theorem bitAt_merged_clear {i k : Nat} (h : i ≠ k) (old : Nat) (v : Word64) (be : BitVec 8) :
    bitAt (merged old (v &&& ~~~((1 : Word64) <<< k)) be) i = bitAt (merged old v be) i := by
  rw [bitAt_eq_testBit, bitAt_eq_testBit, testBit_merged_clear h]

theorem bits_merged_clear {hi lo k : Nat} (h : k < lo ∨ hi < k) (old : Nat) (v : Word64) (be : BitVec 8) :
    bits (merged old (v &&& ~~~((1 : Word64) <<< k)) be) hi lo = bits (merged old v be) hi lo := by
  refine Nat.eq_of_testBit_eq fun i => ?_
  simp only [bits, Nat.testBit_mod_two_pow, Nat.testBit_div_two_pow]
  by_cases hin : i < hi + 1 - lo
  · rw [testBit_merged_clear (by omega)]
  · simp [hin]

/-! ## RELEASE and STOPALL (trace word 4) -/

/-- With STOPALL set the word's other pulse does not count. -/
theorem trace4Write_of_stopall {p : Nat} (h : bitAt p 61 = true) (s : State) (m : Nat) :
    trace4Write s m p = stopHold { s with trace := { s.trace with hold := bitAt m 63 } } := by
  rw [trace4Write, if_pos h]

theorem traceWrite_clear_release {v : Word64} {be : BitVec 8} (h : bitAt (pulses v be) 61 = true) (s : State) :
    traceWrite s 4 (v &&& ~~~((1 : Word64) <<< 62)) be = traceWrite s 4 v be := by
  have hstop : bitAt (pulses (v &&& ~~~((1 : Word64) <<< 62)) be) 61 = true := by
    rw [pulses, bitAt_merged_clear (by omega), ← pulses, h]
  simp only [traceWrite]
  rw [trace4Write_of_stopall hstop, trace4Write_of_stopall h, bitAt_merged_clear (by omega)]

/-! ## FLUSH and ENABLE (inline word 0) -/

/-- FLUSH is none of the bits that Table 8.2 reserves. -/
theorem inlReserved_clear_flush (old : Nat) (v : Word64) (be : BitVec 8) :
    inlReserved 0 (merged old (v &&& ~~~((1 : Word64) <<< 61)) be) = inlReserved 0 (merged old v be) := by
  simp only [inlReserved]
  rw [bitAt_merged_clear (by omega), bits_merged_clear (by omega), bits_merged_clear (by omega)]

/-- FLUSH is in none of the word's fields. -/
theorem inlSet_clear_flush (r : InlineSet) (old : Nat) (v : Word64) (be : BitVec 8) :
    inlSet r 0 (merged old (v &&& ~~~((1 : Word64) <<< 61)) be) = inlSet r 0 (merged old v be) := by
  simp only [inlSet]
  rw [bitAt_merged_clear (by omega), bitAt_merged_clear (by omega), bits_merged_clear (by omega),
    bits_merged_clear (by omega), bits_merged_clear (by omega)]

section Word0
variable {s : State} {i : Nat} {v : Word64} {be : BitVec 8} (hen : (s.inl i).enable = true)
include hen

/-- Word 0 written with ENABLE 0 to an enabled window: refused, or a disable; FLUSH is not looked at. -/
theorem inlWrite_of_disable (hoff : bitAt (merged (inlRead (s.inl i) 0) v be) 63 = false) :
    inlWrite s i 0 v be = if inlReserved 0 (merged (inlRead (s.inl i) 0) v be) = true
      then s.setInl i { s.inl i with refused := true }
      else inlTurnOff s i (inlSet (s.inl i).reg 0 (merged (inlRead (s.inl i) 0) v be)) := by
  have henabled : (s.inl i).enabled = true := by simp [InlineWin.enabled, hen]
  simp [inlWrite, henabled, hoff]

/-- Word 0 written with ENABLE and FLUSH to an enabled window whose fields it leaves: a flush. -/
theorem inlWrite_of_flush (hres : inlReserved 0 (merged (inlRead (s.inl i) 0) v be) = false)
    (hon : bitAt (merged (inlRead (s.inl i) 0) v be) 63 = true)
    (hsame : inlSet (s.inl i).reg 0 (merged (inlRead (s.inl i) 0) v be) = (s.inl i).reg)
    (hpulse : bitAt (pulses v be) 61 = true) :
    inlWrite s i 0 v be = (s.setInl i { s.inl i with refused := false }).flushStart i := by
  have henabled : (s.inl i).enabled = true := by simp [InlineWin.enabled, hen]
  simp [inlWrite, henabled, hres, hon, hsame, hpulse]

theorem inlWrite_clear_flush (hoff : bitAt (merged (inlRead (s.inl i) 0) v be) 63 = false) :
    inlWrite s i 0 (v &&& ~~~((1 : Word64) <<< 61)) be = inlWrite s i 0 v be := by
  have hoff' : bitAt (merged (inlRead (s.inl i) 0) (v &&& ~~~((1 : Word64) <<< 61)) be) 63 = false := by
    rw [bitAt_merged_clear (by omega), hoff]
  rw [inlWrite_of_disable hen hoff', inlWrite_of_disable hen hoff, inlReserved_clear_flush, inlSet_clear_flush]

end Word0

/-! ## Flushes that follow one another (R160, R363) -/

namespace State

theorem setInl_setInl (s : State) (i : Nat) (x y : InlineWin) (h : x ≠ {}) :
    (s.setInl i x).setInl i y = s.setInl i y := by
  simp [setInl, SMap.set_set _ _ _ _ _ h]

/-- An entry changed just after it was written is written once. -/
theorem modInl_setInl (s : State) (i : Nat) (x : InlineWin) (f : InlineWin → InlineWin) (h : x ≠ {}) :
    (s.setInl i x).modInl i f = s.setInl i (f x) := by
  rw [modInl, inl_setInl s i x h, setInl_setInl s i x _ h]

/-- A FLUSH while FLUSHING is 1 waits. -/
theorem flushStart_of_flushing {s : State} {i : Nat} (h : (s.inl i).flushing = true) :
    s.flushStart i = s.modInl i (fun x => { x with flushAgain := true }) := by
  rw [flushStart, if_pos h]

/-- The end of a flush with another waiting: the second covers what is held now, and ends at once if that is nothing. -/
theorem flushEnd_of_flushAgain {s : State} {i : Nat} (hfl : (s.inl i).flushing = true)
    (hpend : s.flushPending i = false) (hdis : (s.inl i).disabling = false) (hagain : (s.inl i).flushAgain = true) :
    s.flushEnd i =
      if ((s.setInl i { s.inl i with flushAgain := false }).coverFlush i).flushPending i = true
      then (s.setInl i { s.inl i with flushAgain := false }).coverFlush i
      else ((s.setInl i { s.inl i with flushAgain := false }).coverFlush i).modInl i
        (fun x => { x with flushing := false }) := by
  simp [flushEnd, hfl, hpend, hdis, hagain]

end State

/-! ## The rows as writes that the bus takes (R351) -/

section Rows
variable {s : State} {be : BitVec 8} (h : BusTakes s be) (v : Word64)
include h

theorem exec_release_of_takes : exec (.release v be) s = .next (busOk (traceWrite s 4 v be)) :=
  congrArg Host.Outcome.next (busWrite_of_takes h (.trace 4) v)

theorem exec_stopall_of_takes : exec (.stopall v be) s = .next (busOk (traceWrite s 4 v be)) :=
  congrArg Host.Outcome.next (busWrite_of_takes h (.trace 4) v)

theorem exec_flush_of_takes (i : Nat) : exec (.flush i v be) s = .next (busOk (inlWrite s i 0 v be)) :=
  congrArg Host.Outcome.next (busWrite_of_takes h (.inl i 0) v)

theorem exec_inlineDisable_of_takes (i : Nat) :
    exec (.inlineDisable i v be) s = .next (busOk (inlWrite s i 0 v be)) :=
  congrArg Host.Outcome.next (busWrite_of_takes h (.inl i 0) v)

end Rows

end Sys2Proof.Machine

namespace Sys2Proof.Laws
open Sys2Proof Sys2Proof.Machine

/-- Settles O51: of each pair of pulses the losing bit can be cleared, and a second flush waits for the first to end. -/
theorem pulsePairs : Obligations.PulsePairs := by
  intro v be s htakes
  refine ⟨fun _ hstop => ?_, fun i hen hoff => ?_, ?_, ?_⟩
  · rw [exec_release_of_takes htakes, exec_stopall_of_takes htakes, traceWrite_clear_release hstop]
  · rw [exec_flush_of_takes htakes, exec_inlineDisable_of_takes htakes, inlWrite_clear_flush hen hoff]
  · rintro i m x rfl rfl hen - hfl hres hon hsame hpulse
    have hkept : { s.inl i with refused := false } ≠ ({} : InlineWin) := fun hdef => by
      simpa [hen] using congrArg InlineWin.enable hdef
    have hflushing : ((s.setInl i { s.inl i with refused := false }).inl i).flushing = true := by
      rw [State.inl_setInl s i _ hkept, hfl]
    rw [exec_flush_of_takes htakes, inlWrite_of_flush hen hres hon hsame hpulse,
      State.flushStart_of_flushing hflushing, State.modInl_setInl s i _ _ hkept]
  · rintro i x u rfl hfl hpend hdis hagain rfl
    exact State.flushEnd_of_flushAgain hfl hpend hdis hagain

end Sys2Proof.Laws
end

section
/-! The step (R3, R143; logs 2, 5, 21): every row answers a next state and keeps the queue, the package's maps and the canonical
form of memory, so a step does; an empty queue with nothing running lets one nanosecond pass; what reset leaves. -/

namespace Sys2Proof.Machine

/-- Every row's effect keeps the queue, the maps and canonical memory: one lemma per row, collected. -/
theorem keeps_exec {s0 s : State} (h : Keeps s0 s) (i : Instr) : KeepsO s0 (exec i s) := by
  cases i with
  | convert c => exact keeps_execConvert h _
  | quantise c => exact keeps_execQuantise h _
  | dequantise c => exact keeps_execDequantise h _
  | rotate c => exact keeps_execRotate h _
  | fold c => exact keeps_execFold h _
  | reduce c => exact keeps_execReduce h _
  | stats c => exact keeps_execStats h _
  | sample c => exact keeps_execSample h _
  | fillRandom c => exact keeps_execFillRandom h _
  | recipe c => exact keeps_execRecipe h _
  | collective c => exact keeps_execCollective h _
  | rebond c => exact keeps_execRebond h _
  | ticketLease c => exact keeps_execTicketLease h _
  | signature c => exact keeps_execSignature h _
  | fence c => exact keeps_execFence h _
  | ribbon c => exact keeps_execRibbon h _
  | saveContext c => exact keeps_execSaveContext h _
  | restoreContext c => exact keeps_execRestoreContext h _
  | drain c => exact keeps_execDrain h _
  | nop c => exact keeps_execNop h _
  | descriptorFetch c => exact keeps_execDescriptorFetch h _
  | stripIssue c det => exact keeps_execStripIssue h _ _
  | flagPoll c seq word => exact keeps_execFlagPoll h _ _ _
  | chunkDone c seq win chunk => exact keeps_execChunkDone h _ _ _ _
  | drainExchange c step => exact keeps_execDrainExchange h _ _
  | outputStage c step => exact keeps_execOutputStage h _ _
  | completionWrite c seq => exact keeps_execCompletionWrite h _ _
  | contextResident e => exact keeps_execContextResident h _
  | contextImageWrite c seq => exact keeps_execContextImageWrite h _ _
  | doorbell isWrite parityOk off size value => exact keeps_execDoorbell h _ _ _ _ _
  | inlineRead parityOk parts addr who len => exact keeps_execInlineRead h _ _ _ _ _
  | inlineWrite parityOk parts addr who data => exact keeps_execInlineWrite h _ _ _ _ _
  | merge se w block part => exact keeps_execMerge h _ _ _ _
  | inlineActivate w => exact keeps_execInlineActivate h _
  | stackResponse e r st => exact keeps_execStackResponse h _ _ _
  | networkResponse e r st data => exact keeps_execNetworkResponse h _ _ _ _
  | data pe f => exact keeps_execData h _ _
  | ack pe f => exact keeps_execAck h _ _
  | nak pe f => exact keeps_execNak h _ _
  | credit pe f => exact keeps_execCredit h _ _
  | announce pe f => exact keeps_execAnnounce h _ _
  | abort pe f => exact keeps_execAbort h _ _
  | heartbeat pe f => exact keeps_execHeartbeat h _ _
  | leaseReq pe f => exact keeps_execLeaseReq h _ _
  | leaseGrant pe f => exact keeps_execLeaseGrant h _ _
  | mark pe f => exact keeps_execMark h _ _
  | markAck pe f => exact keeps_execMarkAck h _ _
  | join pe f => exact keeps_execJoin h _ _
  | joined pe f => exact keeps_execJoined h _ _
  | elected pe f => exact keeps_execElected h _ _
  | bucketIssue c seq => exact keeps_execBucketIssue h _ _
  | chainStart c seq chain => exact keeps_execChainStart h _ _ _
  | heartbeatTimer pe dev => exact keeps_execHeartbeatTimer h _ _
  | declareLost pe dev => exact keeps_execDeclareLost h _ _
  | lostProbe pe dev => exact keeps_execLostProbe h _ _
  | ackTimer pe job ticket src => exact keeps_execAckTimer h _ _ _ _
  | creditDelay pe job ticket src => exact keeps_execCreditDelay h _ _ _ _
  | creditRepeat pe job ticket src => exact keeps_execCreditRepeat h _ _ _ _
  | retransmitTimeout pe job ticket dst => exact keeps_execRetransmitTimeout h _ _ _ _
  | joinRetry => exact keeps_execJoinRetry h
  | leaseRetry c seq => exact keeps_execLeaseRetry h _ _
  | leaseTimeout c seq => exact keeps_execLeaseTimeout h _ _
  | linkDown pe => exact keeps_execLinkDown h _
  | linkUp pe => exact keeps_execLinkUp h _
  | pauseIn pe prio on => exact keeps_execPauseIn h _ _ _
  | selfTestStart e unit quire => exact keeps_execSelfTestStart h _ _ _
  | selfTestEnd e unit quire pass pattern us => exact keeps_execSelfTestEnd h _ _ _ _ _ _
  | samplePoint e => exact keeps_execSamplePoint h _
  | powerCapPeriod => exact keeps_execPowerCapPeriod h
  | clockChange e => exact keeps_execClockChange h _
  | watchIdleTimeout e => exact keeps_execWatchIdleTimeout h _
  | tracePortTraining => exact keeps_execTracePortTraining h
  | aggregateRecord => exact keeps_execAggregateRecord h
  | ribbonGrant => exact keeps_execRibbonGrant h
  | ribbonMarker e => exact keeps_execRibbonMarker h _
  | cutCapture e => exact keeps_execCutCapture h _
  | epochDelivery e => exact keeps_execEpochDelivery h _
  | epochDoneRise => exact keeps_execEpochDoneRise h
  | islandPowerGood e => exact keeps_execIslandPowerGood h _
  | pllLock e => exact keeps_execPllLock h _
  | sramClearDone e => exact keeps_execSramClearDone h _
  | bootSelfTestEnd e pass unit quire pattern us => exact keeps_execBootSelfTestEnd h _ _ _ _ _ _
  | quiesceEnd e => exact keeps_execQuiesceEnd h _
  | windowDefine w v be => exact keeps_execWindowDefine h _ _ _
  | windowWithdraw w v be => exact keeps_execWindowWithdraw h _ _ _
  | windowEdit w word v be => exact keeps_execWindowEdit h _ _ _ _
  | pdWrite d word v be => exact keeps_execPdWrite h _ _ _ _
  | inlineEnable w v be => exact keeps_execInlineEnable h _ _ _
  | inlineDisable w v be => exact keeps_execInlineDisable h _ _ _
  | flush w v be => exact keeps_execFlush h _ _ _
  | contextEnable c v be => exact keeps_execContextEnable h _ _ _
  | contextDisable c v be => exact keeps_execContextDisable h _ _ _
  | domainJoin v be => exact keeps_execDomainJoin h _ _
  | domainLeave v be => exact keeps_execDomainLeave h _ _
  | erron v be => exact keeps_execErron h _ _
  | load v be => exact keeps_execLoad h _ _
  | imgdata v be => exact keeps_execImgdata h _ _
  | commit v be => exact keeps_execCommit h _ _
  | engineEnable e v be => exact keeps_execEngineEnable h _ _ _
  | engineDisable e v be => exact keeps_execEngineDisable h _ _ _
  | linken pe v be => exact keeps_execLinken h _ _ _
  | freq e v be => exact keeps_execFreq h _ _ _
  | snap v be => exact keeps_execSnap h _ _
  | traceOn v be => exact keeps_execTraceOn h _ _
  | traceOff v be => exact keeps_execTraceOff h _ _
  | release v be => exact keeps_execRelease h _ _
  | stopall v be => exact keeps_execStopall h _ _
  | rcRead off => exact keeps_execRcRead h _
  | registerWrite parityOk off v be => exact keeps_execRegisterWrite h _ _ _ _
  | testAccessWrite e sel v => exact keeps_execTestAccessWrite h _ _ _
  | aonRstAssert => exact keeps_execAonRstAssert h
  | aonRstRelease stable => exact keeps_execAonRstRelease h _
  | aonPgRise => exact keeps_execAonPgRise h
  | fabRstAssert => exact keeps_execFabRstAssert h
  | fabRstRelease => exact keeps_execFabRstRelease h
  | vddFabPgLow d => exact keeps_execVddFabPgLow h _
  | vddFabPgHigh d => exact keeps_execVddFabPgHigh h _
  | vddAonPgLow => exact keeps_execVddAonPgLow h
  | vddAonPgHigh => exact keeps_execVddAonPgHigh h
  | watchStartingEnd e => exact keeps_execWatchStartingEnd h _

/-- No row ends in a fault or a refusal. -/
theorem exec_answers_next (i : Instr) (s : State) : ∃ t, exec i s = .next t := by
  cases i
  all_goals exact ⟨_, rfl⟩

theorem step_of_nil {s : State} (h : s.pending = []) : step s = .next (tick s) := by
  simp only [step, h]

theorem step_of_cons {s : State} {c : Instr} {rest : List Instr} (h : s.pending = c :: rest) :
    step s = exec c { s with pending := rest } := by
  simp only [step, h]

/-- The trace port sends nothing while it is idle (R352). -/
theorem tracePort_of_idle {s : State} (h : s.trace.port = .idle) : tracePort s = s := by
  simp [tracePort, h]

/-- Without the always-on island the timebase stands (R324, log 5). -/
theorem tick_of_no_island {s : State} (h : (s.pins.aonRstN && s.pins.vddAon) = false) : tick s = s := by
  simp [tick, h]

/-- With no engine listed and the trace port idle, a nanosecond only moves the timebase (log 5). -/
theorem tick_of_no_engine {s : State} (h : (s.pins.aonRstN && s.pins.vddAon) = true) (he : s.engines = [])
    (hp : s.trace.port = .idle) : tick s = { s with time := (s.time + 1) % 2 ^ 64 } := by
  simp only [tick, h, he, if_true, List.map_nil, List.foldl_nil]
  split
  · exact tracePort_of_idle hp
  · rfl

end Sys2Proof.Machine

namespace Sys2Proof.Laws
open Sys2Proof Sys2Proof.Machine

/-- Settles O1: the front of the queue is the case of `step` that runs a command. -/
theorem stepRunsFront : Obligations.StepRunsFront := fun _ _ _ => step_of_cons rfl

/-- Settles O2: the tick with the island stopped, and with nothing to run. -/
theorem idleTick : Obligations.IdleTick := by
  refine ⟨fun s hq hstop => ?_, fun s hq hrun he hp => ?_⟩
  · rw [step_of_nil hq, tick_of_no_island hstop]
  · rw [step_of_nil hq, tick_of_no_engine hrun he hp]

/-- Settles O3: the tick and every row keep memory's form, and both answer next. -/
theorem everyStepIsSafe : Obligations.EveryStepIsSafe := by
  intro s hmem
  cases hq : s.pending with
  | nil => exact ⟨tick s, step_of_nil hq, (keeps_tick (Keeps.rfl' s)).mem hmem⟩
  | cons c rest =>
    obtain ⟨t, ht⟩ := exec_answers_next c { s with pending := rest }
    exact ⟨t, (step_of_cons hq).trans ht, (keeps_exec (Keeps.rfl' _) c t ht).mem hmem⟩

/-- Settles O4: the frame of every row. -/
theorem queueAndMapsKept : Obligations.QueueAndMapsKept := by
  intro c s t ht
  obtain ⟨hq, hmap, hbase, hsize, -⟩ := keeps_exec (Keeps.rfl' s) c t ht
  exact ⟨hq, hmap, hbase, hsize⟩

/-- Settles O5: the empty tables of reset read as their default entries. -/
theorem resetValues : Obligations.ResetValues :=
  ⟨rfl, rfl, rfl, rfl, rfl, rfl, rfl, fun _ => ⟨rfl, rfl, rfl⟩, fun _ => ⟨rfl, rfl⟩, fun _ => rfl,
    fun _ => ⟨rfl, rfl⟩, fun _ => ⟨rfl, rfl⟩⟩

end Sys2Proof.Laws
end

section
/-! Writes of the window, PD and inline window tables (R144, R155, R160, R278, R282, R357): when a word is refused, what an
accepted one leaves, and the statements about the rows that write them. -/

namespace Sys2Proof.Machine

/-! ## The window table (R144, R357) -/

section Windows
variable {s : State} {w k : Nat} {v : Word64} {be : BitVec 8}

/-- What a word of a window entry is accepted for: no reserved bit, the geometry of a VALID entry, and the checks of R144 on an
entry that becomes VALID. -/
abbrev WinAccepts (s : State) (w k m : Nat) : Prop :=
  winReserved k m = false ∧
    ((s.win w).valid = true → (winSet (s.win w) k m).valid = true → sameGeometry (s.win w) (winSet (s.win w) k m) = true) ∧
    ((s.win w).valid = false → (winSet (s.win w) k m).valid = true → windowOk s (winSet (s.win w) k m) = true)

theorem winWrite_of_accepts (h : WinAccepts s w k (merged (winRead (s.win w) k) v be)) :
    winWrite s w k v be =
      if k = 0 ∨ k = 3 then
        raiseEpoch (s.setWin w { winSet (s.win w) k (merged (winRead (s.win w) k) v be) with refused := false })
      else s.setWin w { winSet (s.win w) k (merged (winRead (s.win w) k) v be) with refused := false } := by
  obtain ⟨hres, hgeo, hok⟩ := h
  unfold winWrite
  generalize hy : winSet (s.win w) k (merged (winRead (s.win w) k) v be) = y at hgeo hok
  cases hx : (s.win w).valid <;> cases hv : y.valid <;> simp_all

theorem winWrite_of_not_accepts (h : ¬ WinAccepts s w k (merged (winRead (s.win w) k) v be)) :
    winWrite s w k v be = s.setWin w { s.win w with refused := true } := by
  unfold winWrite
  unfold WinAccepts at h
  generalize hy : winSet (s.win w) k (merged (winRead (s.win w) k) v be) = y at h
  cases hx : (s.win w).valid <;> cases hv : y.valid <;> simp_all

end Windows

theorem sameGeometry_grants (x : Window) (n : Nat) : sameGeometry x { x with grants := n } = true := by
  simp [sameGeometry]

/-! ## The PD table (R278, R282, R285) -/

theorem pdWordWrite_of_reserved {s : State} {d : Nat} {v : Word64} {be : BitVec 8}
    (h : bits (merged (pdRead (s.pdt d) 0) v be) 59 0 ≠ 0) :
    pdWordWrite s d 0 v be = s.setPd d { s.pdt d with refused := true } := by
  simp [pdWordWrite, h]

theorem pdWordWrite_of_accepted {s : State} {d m : Nat} {v : Word64} {be : BitVec 8}
    (hm : m = merged (pdRead (s.pdt d) 0) v be) (h : bits m 59 0 = 0) :
    pdWordWrite s d 0 v be =
      { raiseEpoch (s.setPd d { valid := bitAt m 63, ctxAdm := bitAt m 62, ribbon := bitAt m 61 }) with
        pdHist := if (s.pdt d).valid = bitAt m 63 then s.pdHist
          else s.pdHist ++ [((s.epoch + 1) % 2 ^ 32, d, (s.pdt d).valid)] } := by
  subst hm
  simp only [pdWordWrite, if_true, h, ne_eq, not_true_eq_false, if_false]
  split <;> rfl

/-! ## The inline window table (R155, R160, R357) -/

/-- A property of all entries that an entry's new value has is kept by writing it, and by nothing else. -/
theorem SMap.all_set_of_pos {α : Type} [DecidableEq α] (m : List (Nat × α)) (d : α) (k : Nat) (v : α) (p : Nat × α → Bool)
    (h : ∀ w, p (k, w) = true) : (SMap.set m d k v).all p = m.all p := by
  induction m with
  | nil => by_cases hv : v = d <;> simp [SMap.set, hv, h]
  | cons q r ih =>
    obtain ⟨a, w⟩ := q
    simp only [SMap.set]
    split
    · split <;> simp [h]
    · split
      · next hk => subst hk; split <;> simp [h]
      · simp [ih]

/-- The checks of an enable look at every entry but its own. -/
theorem State.inlineOk_setInl (s : State) (i : Nat) (x : InlineWin) (r : InlineSet) :
    (s.setInl i x).inlineOk i r = s.inlineOk i r := by
  simp only [State.inlineOk, State.setInl]
  rw [SMap.all_set_of_pos _ _ _ _ _ (fun w => by simp)]
  rfl

/-- The checks of an enable pass for no empty view. -/
theorem State.inlineOk_vlen {s : State} {i : Nat} {r : InlineSet} (h : s.inlineOk i r = true) : r.vlen ≠ 0 := by
  simp only [State.inlineOk, Bool.and_eq_true, bne_iff_ne] at h
  obtain ⟨⟨⟨⟨⟨⟨⟨⟨-, hlen⟩, -⟩, -⟩, -⟩, -⟩, -⟩, -⟩, -⟩ := h
  exact hlen

/-- An enable of an entry just written whose fields pass (R155). -/
theorem State.inlineEnable_setInl_of_ok (s : State) (i : Nat) (x : InlineWin) (h : s.inlineOk i x.reg = true) :
    (s.setInl i x).inlineEnable i =
      s.setInl i { x with enable := true, use := x.reg, initPending := true, heldEnable := false, lost := [] } := by
  have hne : x ≠ {} := fun hdef => State.inlineOk_vlen h (congrArg (fun x => x.reg.vlen) hdef)
  rw [State.inlineEnable, State.inl_setInl _ _ _ hne, State.inlineOk_setInl, if_pos h, State.setInl_setInl _ _ _ _ hne]

section InlineWord0
variable {s : State} {i m : Nat} {v : Word64} {be : BitVec 8} (hm : m = merged (inlRead (s.inl i) 0) v be)
  (hres : inlReserved 0 m = false) (hheld : (s.inl i).heldEnable = false)
include hm hres hheld

/-- Word 0 with ENABLE 1 to a window that is not enabled and does not flush: the checks of R155 decide. -/
theorem inlWrite_of_enable (hen : (s.inl i).enable = false) (hon : bitAt m 63 = true) (hfl : (s.inl i).flushing = false) :
    inlWrite s i 0 v be =
      if s.inlineOk i (inlSet (s.inl i).reg 0 m) = true then
        s.setInl i { s.inl i with
          reg := inlSet (s.inl i).reg 0 m, use := inlSet (s.inl i).reg 0 m, refused := false, enable := true
          initPending := true, lost := [] }
      else s.setInl i { s.inl i with refused := true } := by
  have henabled : (s.inl i).enabled = false := by simp [InlineWin.enabled, hen, hheld]
  have hturn : inlWrite s i 0 v be = inlTurnOn s i (inlSet (s.inl i).reg 0 m) := by
    simp [inlWrite, ← hm, henabled, hres, hon]
  rw [hturn]
  simp only [inlTurnOn, hfl, Bool.false_eq_true, if_false]
  split
  · next hok =>
    rw [State.inlineEnable_setInl_of_ok]
    · simp only [hheld]
    · exact hok
  · rfl

/-- Word 0 with ENABLE 0 to an enabled window: a disable. -/
theorem inlWrite_of_turn_off (hen : (s.inl i).enable = true) (hoff : bitAt m 63 = false) :
    inlWrite s i 0 v be =
      (s.setInl i { s.inl i with reg := inlSet (s.inl i).reg 0 m, refused := false }).inlineDisable i := by
  subst hm
  rw [inlWrite_of_disable hen hoff, if_neg (by simp [hres])]
  simp only [inlTurnOff, hen, hheld, if_true]

end InlineWord0

/-! ## The rows as writes that the bus takes (R351) -/

section Rows
variable {s : State} {be : BitVec 8} (h : BusTakes s be) (v : Word64)
include h

theorem exec_windowDefine_of_takes (w : Nat) : exec (.windowDefine w v be) s = .next (busOk (winWrite s w 0 v be)) :=
  congrArg Host.Outcome.next (busWrite_of_takes h (.win w 0) v)

theorem exec_windowWithdraw_of_takes (w : Nat) : exec (.windowWithdraw w v be) s = .next (busOk (winWrite s w 0 v be)) :=
  congrArg Host.Outcome.next (busWrite_of_takes h (.win w 0) v)

theorem exec_inlineEnable_of_takes (i : Nat) : exec (.inlineEnable i v be) s = .next (busOk (inlWrite s i 0 v be)) :=
  congrArg Host.Outcome.next (busWrite_of_takes h (.inl i 0) v)

end Rows

end Sys2Proof.Machine

namespace Sys2Proof.Laws
open Sys2Proof Sys2Proof.Machine

/-- Settles O52: of each row, whether its word is accepted. -/
theorem windowWrites : Obligations.WindowWrites := by
  rintro w m v be s x y htakes rfl
  refine ⟨?_, ?_, ?_⟩
  · rintro rfl hres rfl
    refine ⟨fun hx hv hok => ?_, fun hx hv => ?_, fun hx hv hbad => ?_⟩
    · rw [exec_windowDefine_of_takes htakes, winWrite_of_accepts ⟨hres, by simp [hx], fun _ _ => hok⟩, if_pos (.inl rfl)]
      rfl
    · have hoff : (winSet (s.win w) 0 (merged (winRead (s.win w) 0) v be)).valid = false := hv
      rw [exec_windowWithdraw_of_takes htakes, winWrite_of_accepts ⟨hres, by simp [hoff], by simp [hx]⟩, if_pos (.inl rfl)]
      rfl
    · rw [exec_windowDefine_of_takes htakes, winWrite_of_not_accepts]
      rintro ⟨-, -, hok⟩
      exact absurd (hok hx hv) (by rw [Bool.not_eq_true]; exact hbad)
  · rintro rfl hres
    rw [exec_windowEdit_of_takes htakes, winWrite_of_accepts
      ⟨hres, fun _ _ => sameGeometry_grants _ _, fun hx hv => absurd (hx.symm.trans hv) Bool.false_ne_true⟩, if_pos (.inr rfl)]
    rfl
  · rintro rfl hx hres hbase
    rw [exec_windowEdit_of_takes htakes, winWrite_of_not_accepts]
    rintro ⟨-, hgeo, -⟩
    have hsame := hgeo hx hx
    simp only [sameGeometry, winSet, Bool.and_eq_true, beq_iff_eq] at hsame
    exact hbase hsame.1.2.symm

/-- Settles O53: reserved bits refuse the word, and an accepted one is what R282 and R285 make of it. -/
theorem pdWrites : Obligations.PdWrites := by
  rintro d m v be s x htakes rfl rfl
  refine ⟨fun hres => ?_, fun hres => ?_⟩
  · rw [exec_pdWrite_of_takes htakes, pdWordWrite_of_reserved hres]
  · rw [exec_pdWrite_of_takes htakes, pdWordWrite_of_accepted rfl hres]

/-- Settles O54: enable by its checks, disable and flush by ENABLE and FLUSH of word 0. -/
theorem inlineSetup : Obligations.InlineSetup := by
  rintro i m v be s x r htakes rfl hm hres hr hheld
  replace hr : r = inlSet (s.inl i).reg 0 m := hr
  subst hr
  refine ⟨fun hen hon hfl hok => ?_, fun hen hon hfl hbad => ?_, fun hen hoff => ?_, fun hen hon hsame hpulse => ?_⟩
  · rw [exec_inlineEnable_of_takes htakes, inlWrite_of_enable hm hres hheld hen hon hfl, if_pos hok]
  · rw [exec_inlineEnable_of_takes htakes, inlWrite_of_enable hm hres hheld hen hon hfl, if_neg (by simp [hbad])]
  · rw [exec_inlineDisable_of_takes htakes, inlWrite_of_turn_off hm hres hheld hen hoff]
  · subst hm
    rw [exec_flush_of_takes htakes, inlWrite_of_flush hen hres hon hsame hpulse]

end Sys2Proof.Laws
end

section
/-! Further laws of the sparse table: a second write of a key of a canonical table, and a change of every listed value. -/

namespace Sys2Proof.Machine.SMap

variable {α : Type} [DecidableEq α]

/-- Writing a key below all listed ones puts it in front. -/
theorem set_of_lt (m : List (Nat × α)) (d : α) (k : Nat) (v : α) (h : wfFrom m d (k + 1) = true) :
    set m d k v = if v = d then m else (k, v) :: m := by
  cases m with
  | nil => rfl
  | cons p r =>
    simp only [wfFrom, Bool.and_eq_true, decide_eq_true_eq] at h
    obtain ⟨⟨hlt, -⟩, -⟩ := h
    exact if_pos hlt

/-- Of two writes of one key of a canonical table the second counts. -/
theorem set_set_of_wf (m : List (Nat × α)) (d : α) (k : Nat) (v w : α) (lo : Nat) (h : wfFrom m d lo = true) :
    set (set m d k v) d k w = set m d k w := by
  by_cases hv : v = d
  · induction m generalizing lo with
    | nil => simp [set, hv]
    | cons p r ih =>
      obtain ⟨a, u⟩ := p
      simp only [wfFrom, Bool.and_eq_true, decide_eq_true_eq] at h
      obtain ⟨-, hr⟩ := h
      by_cases hlt : k < a
      · simp [set, hlt, hv]
      · by_cases heq : k = a
        · subst heq
          simp [set, hv, set_of_lt r d k w hr]
        · simp [set, hlt, heq, ih _ hr]
  · exact set_set m d k v w hv

/-- Every value of a canonical table changed, by a change that keeps the default. -/
theorem get_mapVals (m : List (Nat × α)) (d : α) (f : α → α) (k lo : Nat) (h : wfFrom m d lo = true) (hf : f d = d) :
    get (mapVals m d f) d k = f (get m d k) := by
  induction m generalizing lo with
  | nil => exact hf.symm
  | cons p r ih =>
    obtain ⟨a, u⟩ := p
    simp only [wfFrom, Bool.and_eq_true, decide_eq_true_eq] at h
    obtain ⟨-, hr⟩ := h
    have hih := ih (a + 1) hr
    have hlow : k < a + 1 → f (get r d k) = d := fun hk => by rw [get_of_lt r d (a + 1) k hr hk, hf]
    by_cases hu : f u = d
    · have hmap : mapVals ((a, u) :: r) d f = mapVals r d f := by simp [mapVals, hu]
      rw [hmap, hih]
      simp only [get]
      split
      · rw [hlow (by omega), hf]
      · split
        · rw [hlow (by omega), hu]
        · rfl
    · have hmap : mapVals ((a, u) :: r) d f = (a, f u) :: mapVals r d f := by simp [mapVals, hu]
      rw [hmap]
      simp only [get]
      split
      · exact hf.symm
      · split
        · rfl
        · exact hih

/-- A change of every listed value keeps the canonical form. -/
theorem wfFrom_mapVals (m : List (Nat × α)) (d : α) (f : α → α) (lo : Nat) (h : wfFrom m d lo = true) :
    wfFrom (mapVals m d f) d lo = true := by
  induction m generalizing lo with
  | nil => rfl
  | cons p r ih =>
    obtain ⟨a, u⟩ := p
    simp only [wfFrom, Bool.and_eq_true, decide_eq_true_eq] at h
    obtain ⟨⟨hlo, -⟩, hr⟩ := h
    by_cases hu : f u = d
    · have hmap : mapVals ((a, u) :: r) d f = mapVals r d f := by simp [mapVals, hu]
      rw [hmap]
      exact wfFrom_set.wfFrom_mono a lo _ d (a + 1) lo (ih _ hr) (by omega)
    · have hmap : mapVals ((a, u) :: r) d f = (a, f u) :: mapVals r d f := by simp [mapVals, hu]
      rw [hmap]
      simp only [wfFrom, Bool.and_eq_true, decide_eq_true_eq]
      exact ⟨⟨hlo, hu⟩, ih _ hr⟩

end Sys2Proof.Machine.SMap
end

section
/-! Writes of context, domain, error-ring, image, counter and trace words (R166 to R168, R261 to R263, R299, R322, R327, R334,
R342, R360): what each word's write leaves in the cases that the statements name. -/

namespace Sys2Proof.Machine

/-! ## Context words (R166 to R168) -/

/-- An entry of a canonical table just written, enabled. -/
theorem enableCtx_setCtx {s : State} (h : SMap.wf s.ctxs {} = true) (c : Nat) (x : Ctx) :
    enableCtx (s.setCtx c x) c = { s.setCtx c { x with
      enable := true, use := x.reg, sqTail := 0, sqHead := 0, cqTail := 0, cqHead := 0, ringErr := false, phase := true
      rang := false, reEnable := false, heldDb := [] } with waitQ := s.waitQ ++ [c] } := by
  have hget : (s.setCtx c x).ctx c = x := SMap.get_set_same _ _ _ _ _ h
  simp only [enableCtx, hget]
  simp only [State.setCtx, SMap.set_set_of_wf _ _ _ _ _ _ h]

/-- Two writes of one entry of a canonical table. -/
theorem State.modCtx_setCtx_of_wf {s : State} (h : SMap.wf s.ctxs {} = true) (c : Nat) (x : Ctx) (f : Ctx → Ctx) :
    (s.setCtx c x).modCtx c f = s.setCtx c (f x) := by
  have hget : (s.setCtx c x).ctx c = x := SMap.get_set_same _ _ _ _ _ h
  simp only [State.modCtx, hget]
  simp only [State.setCtx, SMap.set_set_of_wf _ _ _ _ _ _ h]

section ContextWord0
variable {s : State} {c m : Nat} {v : Word64} {be : BitVec 8} (hm : m = merged (ctxRead (s.ctx c) 0) v be)
  (hres : ctxReserved 0 m = false)
include hm hres

/-- Word 0 with ENABLE 1 to a context that is not enabled: the checks of R166 decide. -/
theorem ctxWrite_of_turn_on (hen : (s.ctx c).enable = false) (hon : bitAt m 63 = true) :
    ctxWrite s c 0 v be = ctxTurnOn s c (ctxSet (s.ctx c).reg 0 m) := by
  simp [ctxWrite, ← hm, hres, hen, hon]

theorem ctxWrite_of_turn_off (hen : (s.ctx c).enable = true) (hoff : bitAt m 63 = false) :
    ctxWrite s c 0 v be =
      disableCtx (s.setCtx c { s.ctx c with reg := ctxSet (s.ctx c).reg 0 m, refused := false }) c := by
  simp [ctxWrite, ← hm, hres, hen, hoff]

end ContextWord0

theorem ctxTurnOn_of_bad {s : State} {c : Nat} {r : CtxSet} (h : contextOk s r = false) :
    ctxTurnOn s c r = s.setCtx c { s.ctx c with refused := true } := by
  simp [ctxTurnOn, h]

theorem ctxTurnOn_of_ok {s : State} {c : Nat} {r : CtxSet} (h : contextOk s r = true) (hres : (s.ctx c).resident = false) :
    ctxTurnOn s c r = enableCtx (s.setCtx c { s.ctx c with reg := r, refused := false }) c := by
  simp [ctxTurnOn, h, hres]

/-- ENABLE written 0 (R168): a resident context's descriptors end with CANCELLED, another stops waiting. -/
theorem disableCtx_setCtx {s : State} (h : SMap.wf s.ctxs {} = true) (c : Nat) (x : Ctx) :
    disableCtx (s.setCtx c x) c =
      if x.resident = true then
        leaveIfDone (endCtx (s.setCtx c { x with enable := false, reEnable := false }) c 0x41 (fun _ => true)) c
      else { s.setCtx c { x with enable := false, reEnable := false } with waitQ := s.waitQ.filter (· ≠ c) } := by
  have hget : (s.setCtx c { x with enable := false, reEnable := false }).ctx c =
      { x with enable := false, reEnable := false } := SMap.get_set_same _ _ _ _ _ h
  simp only [disableCtx, State.modCtx_setCtx_of_wf h, hget]
  rfl

/-- Residency (R167): the conditions met, the context takes its slot. -/
theorem execContextResident_of_room {e c : Nat} {s : State} (hfirst : s.firstWaiting e = some c)
    (hworks : (s.eng e).works = true) (hslots : (s.residents e).length < 64)
    (htiles : (s.ctx c).use.tileSlots ≤ s.tileFree e) :
    execContextResident e s = .next { s.setCtx c { s.ctx c with
      resident := true, cnt := {}, dbDrop := 0, live := [], shadow := [] } with waitQ := s.waitQ.filter (· ≠ c) } := by
  simp only [execContextResident, hfirst, hworks, hslots, htiles, decide_true, Bool.and_true, if_true]
  rfl

/-! ## Domain word 0 (R261 to R263) -/

/-- What joining leaves of the state: everything but the domain words, and what goes out with a JOIN. -/
theorem joinDomain_of_keystone {t : State} (hv : memberValid t t.dom.deviceId = true)
    (hz : memberZeroOk t t.dom.deviceId = true) (hk : t.dom.kname = true) (hme : t.dom.knamed = t.dom.deviceId) :
    ∃ u : State, joinDomain t = u ∧ u.dom.join = true ∧ u.dom.member = true ∧ u.dom.keystone = t.dom.deviceId ∧
      u.dom.nextTicket = t.dom.ticketStart * 256 ∧ ∀ d, { u with dom := d } = { t with dom := d } := by
  refine ⟨_, rfl, ?_⟩
  simp only [joinDomain, hv, hz, Bool.and_self, Bool.not_true, Bool.false_eq_true, if_false, hk, if_true, hme]
  exact ⟨rfl, rfl, rfl, rfl, fun _ => rfl⟩

theorem joinDomain_of_other {t : State} (hv : memberValid t t.dom.deviceId = true)
    (hz : memberZeroOk t t.dom.deviceId = true) (hk : t.dom.kname = true) (hme : t.dom.knamed ≠ t.dom.deviceId) :
    ∃ u : State, joinDomain t = sendJoin u ∧ u.dom.join = true ∧ u.dom.member = false ∧ u.dom.keystone = t.dom.knamed ∧
      u.dom.kport = t.dom.kport ∧ ∀ d, { u with dom := d } = { t with dom := d } := by
  simp only [joinDomain, hv, hz, Bool.and_self, Bool.not_true, Bool.false_eq_true, if_false, hk, if_true, hme]
  exact ⟨_, rfl, rfl, rfl, rfl, rfl, fun _ => rfl⟩

/-- A device without a VALID entry of its own does not join (R262). -/
theorem joinDomain_of_invalid {t : State} (hv : memberValid t t.dom.deviceId = false) : joinDomain t = t := by
  simp [joinDomain, hv]

section Domain0
variable {s : State} {m : Nat}

theorem dom0Write_of_join (hj : s.dom.join = false) (hon : bitAt m 63 = true) :
    dom0Write s m = if (joinDomain { s with dom := domSet s.dom m }).dom.join = true
      then joinDomain { s with dom := domSet s.dom m } else s := by
  simp [dom0Write, hj, hon]

theorem dom0Write_of_leave (hj : s.dom.join = true) (hoff : bitAt m 63 = false) :
    dom0Write s m = { leaveDomain s with dom := domSet (leaveDomain s).dom m } := by
  simp [dom0Write, hj, hoff]

end Domain0

/-- Endings leave the domain words. -/
theorem foldl_endCtx_dom (l : List Nat) (st : Nat) (pick : Desc → Bool) (s : State) :
    (l.foldl (fun s c => endCtx s c st pick) s).dom = s.dom := by
  induction l generalizing s with
  | nil => rfl
  | cons c r ih => rw [List.foldl_cons, ih, (EndsOnly.endCtx s c st pick).setup.dom]

/-! ## The image words (R342, R360) -/

theorem imgctlWrite_of_load {s : State} {n : Nat} (hl : bitAt n 63 = true) (hc : bitAt n 62 = false) :
    imgctlWrite s n = loadImgBegin s := by
  simp [imgctlWrite, hl, hc]

theorem imgctlWrite_of_commit {s : State} {n : Nat} (hl : bitAt n 63 = false) (hc : bitAt n 62 = true)
    (hst : s.img.stat = 1) : imgctlWrite s n = commitImage s := by
  simp [imgctlWrite, hl, hc, hst]

theorem commitImage_of_bad {s : State} (h : imgReason s.img.loading ≠ 0) :
    commitImage s = { s with img := { s.img with stat := 3, reason := imgReason s.img.loading, loading := [] } } := by
  simp only [commitImage, h, ne_eq, not_false_eq_true, if_true]

theorem commitImage_of_good {s : State} (h : imgReason s.img.loading = 0) :
    commitImage s = fabReadyNow { applyDefaults s (imgSection s.img.loading 1) with
      img := { stat := 2, reason := 0, version := leAt s.img.loading 8 4, loading := [], adopted := some s.img.loading } } := by
  simp only [commitImage, h, ne_eq, not_true_eq_false, if_false]

/-! ## The error-ring word (R299) -/

theorem err0Write_of_locked {s : State} {m : Nat} (hon : s.err.on = true) (h : bitAt m 63 = true) : err0Write s m = s := by
  simp [err0Write, hon, h]

theorem err0Write_of_on {s : State} {m : Nat} (hoff : s.err.on = false) (h : bitAt m 63 = true) :
    err0Write s m = { s with err := { s.err with
      on := true, log2 := bits m 60 56, base := bits m 47 6, tail := 0, head := 0, phase := true } } := by
  simp [err0Write, hoff, h]

theorem err0Write_of_off {s : State} {m : Nat} (h : bitAt m 63 = false) :
    err0Write s m = { s with err := { s.err with on := false, log2 := bits m 60 56, base := bits m 47 6 } } := by
  simp [err0Write, h]

/-! ## The trace words (R327, R334, R352) -/

theorem trace0Write_of_stays {s : State} {m : Nat} (hon : s.trace.on = true) (h : bitAt m 63 = true) :
    trace0Write s m = { s with trace := { s.trace with mask := bits m 6 1 * 2 } } := by
  simp [trace0Write, hon, h]

theorem trace0Write_of_start {s : State} {m : Nat} (hoff : s.trace.on = false) (h : bitAt m 63 = true) :
    trace0Write s m = traceUnits { s with
      trace := { s.trace with
        on := true, mode := bitAt m 62, wrap := bitAt m 61, segLog2 := bits m 60 56, base := bits m 47 12
        mask := bits m 6 1 * 2, since := [], checkSeq := 0, lanes := [0, 1, 2, 3], blocks := [0, 0, 0, 0]
        port := if bitAt m 62 then .training else if s.trace.port = .closing then .closing else .idle }
      engines := SMap.mapVals s.engines {} (fun x => { x with trFill := 0, trLost := 0 }) } := by
  simp [trace0Write, hoff, h, traceStart]

theorem trace0Write_of_stop {s : State} {m : Nat} (hon : s.trace.on = true) (h : bitAt m 63 = false) :
    trace0Write s m = traceUnits { s with trace := { s.trace with
      on := false, mode := bitAt m 62, wrap := bitAt m 61, segLog2 := bits m 60 56, base := bits m 47 12
      mask := bits m 6 1 * 2
      port := if s.trace.port = .sending ∧ s.trace.queue ≠ [] then .closing else .idle } } := by
  simp [trace0Write, hon, h, traceStop]

/-! ## The rows as writes that the bus takes (R351) -/

section Rows
variable {s : State} {be : BitVec 8} (h : BusTakes s be) (v : Word64)
include h

theorem exec_contextEnable_of_takes (c : Nat) : exec (.contextEnable c v be) s = .next (busOk (ctxWrite s c 0 v be)) :=
  congrArg Host.Outcome.next (busWrite_of_takes h (.ctx c 0) v)

theorem exec_contextDisable_of_takes (c : Nat) : exec (.contextDisable c v be) s = .next (busOk (ctxWrite s c 0 v be)) :=
  congrArg Host.Outcome.next (busWrite_of_takes h (.ctx c 0) v)

theorem exec_domainJoin_of_takes :
    exec (.domainJoin v be) s = .next (busOk (dom0Write s (merged (globRead s 8) v be))) :=
  congrArg Host.Outcome.next (busWrite_of_takes h (.glob 8) v)

theorem exec_domainLeave_of_takes :
    exec (.domainLeave v be) s = .next (busOk (dom0Write s (merged (globRead s 8) v be))) :=
  congrArg Host.Outcome.next (busWrite_of_takes h (.glob 8) v)

theorem exec_erron_of_takes : exec (.erron v be) s = .next (busOk (err0Write s (merged (globRead s 12) v be))) :=
  congrArg Host.Outcome.next (busWrite_of_takes h (.glob 12) v)

theorem exec_load_of_takes : exec (.load v be) s = .next (busOk (imgctlWrite s (pulses v be))) :=
  congrArg Host.Outcome.next (busWrite_of_takes h (.glob 1) v)

theorem exec_commit_of_takes : exec (.commit v be) s = .next (busOk (imgctlWrite s (pulses v be))) :=
  congrArg Host.Outcome.next (busWrite_of_takes h (.glob 1) v)

theorem exec_imgdata_of_takes : exec (.imgdata v be) s = .next (busOk (imgdataWrite s v.toNat (be == 0xFF))) :=
  congrArg Host.Outcome.next (busWrite_of_takes h (.glob 2) v)

theorem exec_snap_of_takes : exec (.snap v be) s = .next (busOk (snapWrite s (pulses v be))) :=
  congrArg Host.Outcome.next (busWrite_of_takes h .aggctl v)

theorem exec_traceOn_of_takes :
    exec (.traceOn v be) s = .next (busOk (trace0Write s (merged (traceRead s.trace 0) v be))) :=
  congrArg Host.Outcome.next (busWrite_of_takes h (.trace 0) v)

theorem exec_traceOff_of_takes :
    exec (.traceOff v be) s = .next (busOk (trace0Write s (merged (traceRead s.trace 0) v be))) :=
  congrArg Host.Outcome.next (busWrite_of_takes h (.trace 0) v)

end Rows

theorem exec_registerWrite_of_takes {s : State} {be : BitVec 8} (h : BusTakes s be) (off : Nat) (v : Word64) :
    exec (.registerWrite true off v be) s = .next (busOk (regWrite s (regAt off) v be)) :=
  congrArg Host.Outcome.next ((if_neg (by simp)).trans (busWrite_of_takes h (regAt off) v))

end Sys2Proof.Machine

namespace Sys2Proof.Laws
open Sys2Proof Sys2Proof.Machine

/-- Settles O55: ENABLE from 0 to 1 by the checks of R166, from 1 to 0 by residency, then residency itself. -/
theorem contextSetup : Obligations.ContextSetup := by
  refine ⟨?_, fun e c s hfirst hworks hslots htiles => execContextResident_of_room hfirst hworks hslots htiles⟩
  rintro c m v be s x r htakes rfl hm hres hr hwf
  replace hr : r = ctxSet (s.ctx c).reg 0 m := hr
  subst hr
  refine ⟨fun hen hon hrdt hok => ?_, fun hen hon hbad => ?_, fun hen hoff hrdt => ⟨_, rfl, ?_⟩, fun hen hoff hrdt => ?_⟩
  · rw [exec_contextEnable_of_takes htakes, ctxWrite_of_turn_on hm hres hen hon, ctxTurnOn_of_ok hok hrdt,
      enableCtx_setCtx hwf]
  · rw [exec_contextEnable_of_takes htakes, ctxWrite_of_turn_on hm hres hen hon, ctxTurnOn_of_bad hbad]
  · rw [exec_contextDisable_of_takes htakes, ctxWrite_of_turn_off hm hres hen hoff, disableCtx_setCtx hwf, if_pos hrdt]
  · rw [exec_contextDisable_of_takes htakes, ctxWrite_of_turn_off hm hres hen hoff, disableCtx_setCtx hwf,
      if_neg (by simp [hrdt])]

/-- Settles O56: the two ways to join, the join that is refused, and the leave. -/
theorem domainSetup : Obligations.DomainSetup := by
  rintro m v be s t htakes hm ht
  replace ht : t = { s with dom := domSet s.dom m } := ht
  have hback : ∀ u : State, (∀ d, { u with dom := d } = { t with dom := d }) → { u with dom := s.dom } = s := fun u hu => by
    rw [hu, ht]
  refine ⟨fun hj hon hv hz hk => ⟨fun hme => ?_, fun hme => ?_⟩, fun hj hon hv => ?_, fun hj hoff => ⟨_, rfl, ?_⟩⟩
  · obtain ⟨u, hu, hjoin, hmem, hkey, hnext, hsame⟩ := joinDomain_of_keystone hv hz hk hme
    refine ⟨u, ?_, hjoin, hmem, hkey, by rw [hnext, ht]; rfl, hback u hsame⟩
    rw [exec_domainJoin_of_takes htakes, ← hm, dom0Write_of_join hj hon, ← ht, hu, if_pos hjoin]
  · obtain ⟨u, hu, hjoin, hmem, hkey, hport, hsame⟩ := joinDomain_of_other hv hz hk hme
    refine ⟨u, hjoin, hmem, hkey, hback u hsame, ?_⟩
    have hsent : (sendJoin u).dom.join = true := by
      rw [sendJoin, (SendOnly.sendCtrl _ _ _).setup.dom, hjoin]
    rw [exec_domainJoin_of_takes htakes, ← hm, dom0Write_of_join hj hon, ← ht, hu, if_pos hsent, sendJoin, hkey,
      State.kport, hport]
    rfl
  · have hjt : (joinDomain t).dom.join = false := by
      rw [joinDomain_of_invalid hv, ht]
      exact hj
    rw [exec_domainJoin_of_takes htakes, ← hm, dom0Write_of_join hj hon, ← ht, if_neg (by simp [hjt])]
  · rw [exec_domainLeave_of_takes htakes, ← hm, dom0Write_of_leave hj hoff, ht]
    have hdom := foldl_endCtx_dom (s.ctxs.map (·.1)) stSTOPPED (fun d => d.admitted && (d.isColl || d.op == opLEASE)) s
    simp only [leaveDomain, hdom]
    rfl

/-- Settles O57: ERRON by the lock of R299, then the three actions on an image. -/
theorem errorRingAndImage : Obligations.ErrorRingAndImage := by
  refine ⟨?_, fun v be s htakes => ⟨fun hidle hl hc => ?_, fun hst hbe => ?_, fun hst hl hc => ⟨fun hbad => ?_, fun hgood => ?_⟩⟩⟩
  · rintro m v be s htakes rfl
    refine ⟨fun hoff hbit => ?_, fun hon hbit => ?_, fun hon hbit => ?_⟩
    · rw [exec_erron_of_takes htakes, err0Write_of_on hoff hbit]
    · rw [exec_erron_of_takes htakes, err0Write_of_locked hon hbit]
    · rw [exec_erron_of_takes htakes, err0Write_of_off hbit]
  · rw [exec_load_of_takes htakes, imgctlWrite_of_load hl hc, loadImgBegin, if_neg (by simp [hidle])]
  · rw [exec_imgdata_of_takes htakes, imgdataWrite, if_pos (by simp [hst, hbe])]
  · rw [exec_commit_of_takes htakes, imgctlWrite_of_commit hl hc hst, commitImage_of_bad hbad]
  · rw [exec_commit_of_takes htakes, imgctlWrite_of_commit hl hc hst, commitImage_of_good hgood]

/-- Settles O58: a read, the three kinds of write request, three words of the global block, and test access. -/
theorem apertureAccess : Obligations.ApertureAccess := by
  rintro off m v be s hpg
  refine ⟨?_, ?_, ?_, fun hbe hm => ?_, fun hbe hm => ?_, fun hbe hm => ?_, fun e sel he hrst => ?_⟩
  · change execRcRead off s = _
    rw [execRcRead, if_pos hpg]
  · change execRegisterWrite true off v 0 s = _
    simp [execRegisterWrite, busWrite, hpg, busOk]
  · change execRegisterWrite false off v be s = _
    simp [execRegisterWrite, hpg, busParity]
  · have hreg : regAt 0x18 = .glob 3 := by decide
    rw [exec_registerWrite_of_takes ⟨hpg, hbe⟩, hreg, hm]
    rfl
  · have hreg : regAt 0x28 = .glob 5 := by decide
    rw [exec_registerWrite_of_takes ⟨hpg, hbe⟩, hreg, hm]
    rfl
  · have hreg : regAt 0x30 = .glob 6 := by decide
    rw [exec_registerWrite_of_takes ⟨hpg, hbe⟩, hreg, hm]
    rfl
  · change execTestAccessWrite e sel v s = _
    have hmod : e % numEngines = e := Nat.mod_eq_of_lt he
    rw [execTestAccessWrite, if_pos (by simp [hrst]), hmod]
    rfl

/-- Settles O45: SNAP by BUSY, and the record that ends BUSY. -/
theorem snapshot : Obligations.Snapshot := by
  refine fun v be s htakes => ⟨fun hsnap hidle => ?_, fun hbusy => ⟨?_, ?_⟩⟩
  · rw [exec_snap_of_takes htakes, snapWrite, if_pos (by simp [hsnap, hidle]), State.snapSums]
  · rw [exec_snap_of_takes htakes, snapWrite, if_neg (by simp [hbusy])]
  · change execAggregateRecord s = _
    rw [execAggregateRecord, if_pos hbusy]

/-- Settles O47: STOPALL before RELEASE where a hold may end, and HOLD alone where none may. -/
theorem holdEnds : Obligations.HoldEnds := by
  rintro v be s u htakes rfl
  refine ⟨fun hbusy hdone hhold => ⟨fun c q hrel hstop hgrant => ?_, fun hstop => ?_⟩, fun hnone => ?_⟩
  · rw [exec_release_of_takes htakes]
    simp only [traceWrite, trace4Write, hstop, hrel, Bool.false_eq_true, if_false, if_true]
    rw [releaseHold, if_pos (by simp [holdDone, hbusy, hdone, hhold])]
    simp only [hgrant]
  · rw [exec_stopall_of_takes htakes]
    simp only [traceWrite, trace4Write_of_stopall hstop]
    rw [stopHold, if_pos (by simp [holdDone, hbusy, hdone, hhold])]
  · have hstop : ∀ b, stopHold { s with trace := { s.trace with hold := b } } =
        { s with trace := { s.trace with hold := b } } := fun b => if_neg (by simp [holdDone, hnone])
    have hrel : ∀ b, releaseHold { s with trace := { s.trace with hold := b } } =
        { s with trace := { s.trace with hold := b } } := fun b => if_neg (by simp [holdDone, hnone])
    rw [exec_release_of_takes htakes, exec_stopall_of_takes htakes]
    simp only [traceWrite, trace4Write, hstop, hrel, ite_self, and_self]

/-- Settles O48: the three ways in which TRON and its written value meet. -/
theorem traceControl : Obligations.TraceControl := by
  rintro v be s m htakes rfl
  refine ⟨fun hoff hbit => ?_, fun hon hbit => ?_, fun hon hbit => ?_⟩
  · rw [exec_traceOn_of_takes htakes, trace0Write_of_start hoff hbit]
  · rw [exec_traceOn_of_takes htakes, trace0Write_of_stays hon hbit]
  · rw [exec_traceOff_of_takes htakes, trace0Write_of_stop hon hbit]

end Sys2Proof.Laws
end

section
/-! What the ports, the trace, frames on the wire and endings leave of every engine: the state it is in, its bits of the always-on
island and its trace unit (R345, R346). -/

namespace Sys2Proof.Machine

/-- What the statements follow of an engine through operations that only move requests, records and frames. -/
def Engine.island (x : Engine) : Engine :=
  { st := x.st, enable := x.enable, bootFail := x.bootFail, linkEn := x.linkEn, linkUp := x.linkUp, freq := x.freq
    linkCfg := x.linkCfg, fenced := x.fenced, traceFn := x.traceFn }

/-- From `s` to `t` every engine keeps its island part, and the table its canonical form. -/
structure IslandSame (s t : State) : Prop where
  wf : SMap.wf s.engines {} = true → SMap.wf t.engines {} = true
  same : ∀ j, (t.eng j).island = (s.eng j).island

namespace IslandSame

theorem rfl' (s : State) : IslandSame s s := ⟨id, fun _ => rfl⟩

theorem trans' {s t u : State} (h : IslandSame s t) (k : IslandSame t u) : IslandSame s u :=
  ⟨k.wf ∘ h.wf, fun j => (k.same j).trans (h.same j)⟩

/-- Operations that leave the table of engines. -/
theorem ofEngines {s t : State} (h : t.engines = s.engines) : IslandSame s t :=
  ⟨fun hwf => h ▸ hwf, fun j => by rw [State.eng, h, State.eng]⟩

theorem modLink (s : State) (p : Nat) (f : Link → Link) : IslandSame s (s.modLink p f) := ofEngines rfl
theorem modDesc (s : State) (c q : Nat) (f : Desc → Desc) : IslandSame s (s.modDesc c q f) := ofEngines rfl
theorem modCtx (s : State) (c : Nat) (f : Ctx → Ctx) : IslandSame s (s.modCtx c f) := ofEngines rfl
theorem out (s : State) (o : Output) : IslandSame s (s.out o) := ofEngines rfl
theorem stackDef (s : State) (m : List (Nat × Nat)) : IslandSame s { s with stackDef := m } := ofEngines rfl
theorem setMem (s : State) (m : Mem) : IslandSame s (s.setMem m) := ofEngines rfl

theorem foldl {α : Type} {f : State → α → State} (hf : ∀ s x, IslandSame s (f s x)) (s : State) (l : List α) :
    IslandSame s (l.foldl f s) := by
  induction l generalizing s with
  | nil => exact rfl' s
  | cons x r ih => exact (hf s x).trans' (ih _)

theorem forN {f : State → Nat → State} (hf : ∀ s x, IslandSame s (f s x)) (s : State) (n : Nat) :
    IslandSame s (forN n s f) := foldl hf s _

theorem st {s t : State} (h : IslandSame s t) (j : Nat) : (t.eng j).st = (s.eng j).st := congrArg (·.st) (h.same j)
theorem enable {s t : State} (h : IslandSame s t) (j : Nat) : (t.eng j).enable = (s.eng j).enable :=
  congrArg (·.enable) (h.same j)
theorem bootFail {s t : State} (h : IslandSame s t) (j : Nat) : (t.eng j).bootFail = (s.eng j).bootFail :=
  congrArg (·.bootFail) (h.same j)
theorem linkEn {s t : State} (h : IslandSame s t) (j : Nat) : (t.eng j).linkEn = (s.eng j).linkEn :=
  congrArg (·.linkEn) (h.same j)
theorem linkUp {s t : State} (h : IslandSame s t) (j : Nat) : (t.eng j).linkUp = (s.eng j).linkUp :=
  congrArg (·.linkUp) (h.same j)
theorem freq {s t : State} (h : IslandSame s t) (j : Nat) : (t.eng j).freq = (s.eng j).freq := congrArg (·.freq) (h.same j)
theorem linkCfg {s t : State} (h : IslandSame s t) (j : Nat) : (t.eng j).linkCfg = (s.eng j).linkCfg :=
  congrArg (·.linkCfg) (h.same j)
theorem fenced {s t : State} (h : IslandSame s t) (j : Nat) : (t.eng j).fenced = (s.eng j).fenced :=
  congrArg (·.fenced) (h.same j)
theorem traceFn {s t : State} (h : IslandSame s t) (j : Nat) : (t.eng j).traceFn = (s.eng j).traceFn :=
  congrArg (·.traceFn) (h.same j)

/-- A change of one engine reads back, where the table is canonical or the new value is no default. -/
theorem modEng {s : State} {e : Nat} {f : Engine → Engine} (hf : ∀ x, (f x).island = x.island)
    (hne : SMap.wf s.engines {} = true ∨ f (s.eng e) ≠ {}) : IslandSame s (s.modEng e f) := by
  refine ⟨fun hwf => SMap.wf_set _ _ _ _ hwf, fun j => ?_⟩
  have hread : (s.modEng e f).eng j = if j = e then f (s.eng e) else s.eng j := by
    rcases hne with hwf | hne
    · split
      · next hj => subst hj; exact SMap.get_set_same _ _ _ _ _ hwf
      · next hj => exact SMap.get_set_other _ _ _ _ _ _ hwf hj
    · split
      · next hj => subst hj; exact SMap.get_set_ne _ _ _ _ hne
      · next hj => exact SMap.get_set_ne_other _ _ _ _ _ hne hj
  rw [hread]
  split
  · next hj => rw [hj, hf]
  · rfl

theorem sendFirst_ne_nil (p : Req → Bool) (t : Nat) {l : List Req} (h : l ≠ []) : sendFirst p t l ≠ [] := by
  cases l with
  | nil => exact absurd rfl h
  | cons r l => simp only [sendFirst]; split <;> simp

theorem presentReq (s : State) (e : Nat) (net : Bool) (p : Req → Bool) (tag : Option Nat) :
    IslandSame s (presentReq s e net p tag) := by
  unfold Machine.presentReq
  split
  · next t r hr =>
    have hreqs : (s.eng e).reqs ≠ [] := fun hnil => by rw [hnil] at hr; cases hr
    extract_lets u
    have hu : IslandSame s u := modEng (fun _ => rfl)
      (.inr fun hdef => sendFirst_ne_nil _ _ hreqs (congrArg Engine.reqs hdef))
    split
    · exact hu
    · exact hu.trans' (out u _)
  · exact rfl' s

theorem issueNet (s : State) (e : Nat) : IslandSame s (issueNet s e) := by
  unfold Machine.issueNet Machine.forN
  exact foldl (fun s _ => presentReq s e _ _ _) s _

theorem issueStack (s : State) (k : Nat) : IslandSame s (issueStack s k) := by
  unfold Machine.issueStack
  extract_lets u l r v
  have hu : IslandSame s u := by
    refine foldl (fun s e => ?_) s _
    exact forN (fun s _ => presentReq s _ _ _ _) _ _
  have hv : IslandSame u v := foldl (fun s _ => presentReq s _ _ _ _) u _
  exact (hu.trans' hv).trans' (stackDef v _)

theorem issueReqs (s : State) (e : Nat) : IslandSame s (issueReqs s e) := by
  unfold Machine.issueReqs
  split
  · exact (issueNet s e).trans' (issueStack _ _)
  · exact issueNet s e

theorem sendReqs (s : State) (e : Nat) (l : List Req) : IslandSame s (s.sendReqs e l) := by
  unfold State.sendReqs
  split
  · exact rfl' s
  · next hl =>
    have hl' : l ≠ [] := by simpa using hl
    have hu : IslandSame s (s.modEng e (fun x => { x with reqs := x.reqs ++ l })) :=
      modEng (fun _ => rfl) (.inr fun hdef => hl' (List.append_eq_nil_iff.1 (congrArg Engine.reqs hdef)).2)
    exact hu.trans' (issueReqs _ e)

theorem writeRecord (s : State) (e c a : Nat) (l : List Byte) : IslandSame s (writeRecord s e c a l) :=
  (setMem s _).trans' (sendReqs _ _ _)

/-- An engine whose trace unit is on is no default entry. -/
theorem ne_of_traceFn {x : Engine} (h : x.traceFn = .on) : x ≠ {} := fun hdef => by simp [hdef] at h

theorem tracePut {s : State} {e : Nat} (h : (s.eng e).traceFn = .on) (v : Nat) : IslandSame s (tracePut s e v) := by
  unfold Machine.tracePut tracePush
  extract_lets a u
  have hu : IslandSame s u := modEng (fun _ => rfl) (.inr (ne_of_traceFn h))
  split
  · split
    · exact hu.trans' (ofEngines rfl)
    · exact hu.trans' (ofEngines rfl)
  · exact hu.trans' (writeRecord _ _ _ _ _)

theorem traceOwed (s : State) (e : Nat) : IslandSame s (traceOwed s e) := by
  unfold Machine.traceOwed
  extract_lets x
  split
  · next h =>
    simp only [Bool.and_eq_true, beq_iff_eq] at h
    obtain ⟨⟨hon, -⟩, -⟩ := h
    have hu : IslandSame s (s.modEng e (fun y => { y with trLost := 0 })) :=
      modEng (fun _ => rfl) (.inr (ne_of_traceFn hon))
    exact hu.trans' (tracePut ((hu.traceFn e).trans hon) _)
  · exact rfl' s

theorem traceLose (s : State) (e : Nat) : IslandSame s (traceLose s e) := by
  unfold Machine.traceLose
  extract_lets u
  have hu : IslandSame s u := modEng (fun _ => rfl) (.inr fun hdef => Nat.succ_ne_zero _ (congrArg Engine.trLost hdef))
  exact hu.trans' (ofEngines rfl)

theorem traceEmitAt (s : State) (time e ty mb fields : Nat) : IslandSame s (traceEmitAt s time e ty mb fields) := by
  unfold Machine.traceEmitAt
  split
  · next h =>
    simp only [Bool.and_eq_true, beq_iff_eq] at h
    obtain ⟨⟨-, hon⟩, -⟩ := h
    have hu := traceOwed s e
    extract_lets u
    split
    · exact hu.trans' (tracePut ((hu.traceFn e).trans hon) _)
    · exact hu.trans' (traceLose _ _)
  · exact rfl' s

theorem passFrame (s : State) (p : Nat) (f : Frame) : IslandSame s (passFrame s p f) := by
  unfold Machine.passFrame traceFrame
  extract_lets pri u v
  exact ((modLink s p _).trans' (out u _)).trans' (traceEmitAt _ _ _ _ _ _)

theorem pump (s : State) (p : Nat) : IslandSame s (pump s p) :=
  ((modLink s p _).trans' (foldl (fun s f => passFrame s p f) _ _)).trans' (foldl (fun s f => passFrame s p f) _ _)

theorem sendFrame (s : State) (p : Nat) (f : Frame) : IslandSame s (sendFrame s p f) := by
  unfold Machine.sendFrame
  split
  · exact (modLink s p _).trans' (pump _ p)
  · exact rfl' s

theorem sendAbort (s : State) (p : Nat) (members : List Nat) (job ticket bucket : Nat) :
    IslandSame s (sendAbort s p members job ticket bucket) := foldl (fun s _ => sendFrame s p _) s _

theorem abortGroup (s : State) (c : Nat) (d : Desc) : IslandSame s (abortGroup s c d) := by
  unfold Machine.abortGroup
  split
  · exact rfl' s
  · extract_lets u
    exact (modDesc s c _ _).trans' (sendAbort u _ _ _ _ _)

theorem endDesc (s : State) (c q st : Nat) : IslandSame s (endDesc s c q st) := by
  unfold Machine.endDesc
  split
  · exact rfl' s
  · split
    · exact (modDesc s c q _).trans' (abortGroup _ _ _)
    · exact modDesc s c q _

theorem endCtx (s : State) (c st : Nat) (pick : Desc → Bool) : IslandSame s (endCtx s c st pick) :=
  foldl (fun s q => endDesc s c q st) s _

/-- A sample record of an engine that is not OFF. -/
theorem writeSample {s : State} {e : Nat} (h : (s.eng e).st ≠ .off) (kind tag time : Nat) (k : Counters) :
    IslandSame s (writeSample s e kind tag time k) := by
  unfold Machine.writeSample
  extract_lets x no a u
  have hu : IslandSame s u := writeRecord s _ _ _ _
  exact hu.trans' (modEng (fun _ => rfl) (.inr fun hdef => h ((hu.st e).symm.trans (congrArg Engine.st hdef))))

end IslandSame

end Sys2Proof.Machine
end

section
/-! Engines (R339, R340, R345, R346): how STARTING, ON and QUIESCING are left, the words that control an engine, the power cap and
the clock, self-tests, the watch unit and the trace port, and the delivery of the protection epoch (R283 to R285). -/

namespace Sys2Proof.Machine

/-! ## Two writes of one engine -/

theorem State.modEng_setEng (s : State) (e : Nat) (x : Engine) (f : Engine → Engine) (h : x ≠ {}) :
    (s.setEng e x).modEng e f = s.setEng e (f x) := by
  rw [State.modEng, State.eng_setEng _ _ _ h, State.setEng_setEng _ _ _ _ h]

theorem State.modEng_modEng (s : State) (e : Nat) (f g : Engine → Engine) (h : f (s.eng e) ≠ {}) :
    (s.modEng e f).modEng e g = s.setEng e (g (f (s.eng e))) := State.modEng_setEng s e _ g h

theorem Engine.ne_of_st {x : Engine} {v : EngState} (h : x.st = v) (hv : v ≠ .off) : x ≠ {} := fun hdef =>
  hv (h ▸ congrArg Engine.st hdef)

theorem Engine.ne_of_enable {x : Engine} (h : x.enable = true) : x ≠ {} := fun hdef =>
  Bool.false_ne_true ((congrArg Engine.enable hdef).symm.trans h)

/-! ## STARTING (R345, R346) -/

theorem startPart_of_starting {s : State} {e n : Nat} (hst : (s.eng e).st = .starting) (hn : (s.eng e).startStep = n) :
    startPart s e n = s.setEng e { s.eng e with
      startStep := n + 1, fcur := if n = 1 then targetClock s (s.eng e) else (s.eng e).fcur } := by
  simp [startPart, hst, hn]

/-- The trace unit of an engine that is ON changes its own words alone. -/
theorem traceUnit_eng {s : State} {e : Nat} (h : (s.eng e).st = .on) :
    ((traceUnit s e).eng e).st = .on ∧ ((traceUnit s e).eng e).enable = (s.eng e).enable ∧
      ((traceUnit s e).eng e).bootFail = (s.eng e).bootFail := by
  unfold traceUnit
  extract_lets x want
  split
  · have hne : ({ x with traceFn := .on, credit := 6400 } : Engine) ≠ {} := Engine.ne_of_st (v := .on) h (by decide)
    rw [State.eng_setEng _ _ _ hne]
    exact ⟨h, rfl, rfl⟩
  · split
    · have hne : ({ x with traceFn := .off } : Engine) ≠ {} := Engine.ne_of_st (v := .on) h (by decide)
      rw [State.eng_setEng _ _ _ hne]
      exact ⟨h, rfl, rfl⟩
    · exact ⟨h, rfl, rfl⟩

/-- QUIESCING as it begins: LINKEN is 0, and BOOTFAIL stays. -/
theorem startQuiesce_eng {s : State} {e : Nat} (h : (s.eng e).st = .on) :
    ((startQuiesce s e).eng e).st = .quiescing ∧ ((startQuiesce s e).eng e).bootFail = (s.eng e).bootFail ∧
      ((startQuiesce s e).eng e).linkEn = false := by
  unfold startQuiesce
  extract_lets u v
  have hu : IslandSame s u := by
    simp only [u]
    split
    · exact IslandSame.writeSample (by simp [h]) _ _ _ _
    · exact .rfl' s
  have hv : IslandSame u v := IslandSame.foldl (fun s c => IslandSame.endCtx s c _ _) u _
  clear_value v u
  have hread : (v.modEng e (fun x => { x with st := .quiescing, linkEn := false })).eng e =
      { v.eng e with st := .quiescing, linkEn := false } :=
    State.eng_setEng _ _ _ (Engine.ne_of_st (v := .quiescing) rfl (by decide))
  rw [hread]
  exact ⟨rfl, (hu.trans' hv).bootFail e, rfl⟩

/-- A boot self-test passed with ENABLE 1: ON. -/
theorem bootPass_of_enable {s : State} {e : Nat} (hen : (s.eng e).enable = true) :
    bootPass s e =
      traceUnit (s.setEng e { s.eng e with st := .on, startStep := 0, bootFail := false, cnt := {} }) e := by
  have hne : ({ s.eng e with st := .on, startStep := 0, bootFail := false, cnt := {} } : Engine) ≠ {} :=
    Engine.ne_of_st (v := .on) rfl (by decide)
  have hread : ((s.modEng e (fun x => { x with st := .on, startStep := 0, bootFail := false, cnt := {} })).eng e) =
      { s.eng e with st := .on, startStep := 0, bootFail := false, cnt := {} } := State.eng_setEng _ _ _ hne
  unfold bootPass
  extract_lets u v
  have hv : (v.eng e).enable = true := (traceUnit_eng (by rw [hread])).2.1.trans (by rw [hread]; exact hen)
  rw [if_pos hv]
  rfl

/-- A boot self-test passed with ENABLE 0: on to QUIESCING. -/
theorem bootPass_of_not_enable {s : State} {e : Nat} (hen : (s.eng e).enable = false) :
    ((bootPass s e).eng e).st = .quiescing ∧ ((bootPass s e).eng e).bootFail = false ∧
      ((bootPass s e).eng e).linkEn = false := by
  unfold bootPass
  extract_lets u v
  have hu : (u.eng e) = { s.eng e with st := .on, startStep := 0, bootFail := false, cnt := {} } :=
    State.eng_setEng _ _ _ (Engine.ne_of_st (v := .on) rfl (by decide))
  obtain ⟨hst, hven, hboot⟩ : (v.eng e).st = .on ∧ (v.eng e).enable = (u.eng e).enable ∧
      (v.eng e).bootFail = (u.eng e).bootFail := traceUnit_eng (by rw [hu])
  rw [hu] at hven hboot
  have hoff : (v.eng e).enable = false := hven.trans hen
  rw [if_neg (by simp [hoff])]
  clear_value v
  have hsame : IslandSame v (v.modEng e (fun x => { x with cnt := { x.cnt with fclk := 1 } })) :=
    IslandSame.modEng (fun _ => rfl) (.inr fun hdef => by simpa [hst] using congrArg Engine.st hdef)
  generalize v.modEng e (fun x => { x with cnt := { x.cnt with fclk := 1 } }) = w at hsame
  have hwst : (w.eng e).st = .on := (hsame.st e).trans hst
  have hwen : (w.eng e).enable = false := (hsame.enable e).trans hoff
  rw [maybeQuiesce, if_pos (by simp [Engine.isOn, hwst, hwen])]
  obtain ⟨hquiesce, hkept, hlink⟩ := startQuiesce_eng hwst
  exact ⟨hquiesce, hkept.trans ((hsame.bootFail e).trans hboot), hlink⟩

/-- A boot self-test failed (R345, R367): the LASTING record tells the unit's raised count. -/
theorem bootFails_eq (s : State) (e unit quire pattern us : Nat) (u : State) (hu : u = s.modEng e (fun x => { x with
      bootFail := true, fenced := true
      unitErr := SMap.set x.unitErr 0 (unitKey unit quire) (min 0xFFFF (SMap.get x.unitErr 0 (unitKey unit quire) + 1)) })) :
    bootFails s e unit quire pattern us = goOff
      (writeErr { u with err := { u.err with degraded := true } }
        { time := s.time, ref := s.err.tail, synd := pattern % 65536 * 65536 + us % 65536
          uniterr := min 0xFFFF (SMap.get (s.eng e).unitErr 0 (unitKey unit quire) + 1), engine := e, unit := unit
          quire := if unit = 0 then quire else 0, kind := 5, cls := 2, noctx := true, type := 2 }) e := by
  have hread : u.eng e = { s.eng e with
      bootFail := true, fenced := true
      unitErr := SMap.set (s.eng e).unitErr 0 (unitKey unit quire)
        (min 0xFFFF (SMap.get (s.eng e).unitErr 0 (unitKey unit quire) + 1)) } := by
    rw [hu]
    exact State.eng_setEng _ _ _ (fun hdef => Bool.false_ne_true (congrArg Engine.fenced hdef).symm)
  have hcount : SMap.get (u.eng e).unitErr 0 (unitKey unit quire) =
      min 0xFFFF (SMap.get (s.eng e).unitErr 0 (unitKey unit quire) + 1) := by
    rw [hread]
    exact SMap.get_set_ne _ _ _ _ (by omega)
  rw [← hcount, hu]
  rfl

/-! ## QUIESCING (R302, R304, R345) -/

theorem execQuiesceEnd_of_quiesced {s : State} {e : Nat} (h : quiesced s e = true) :
    exec (.quiesceEnd e) s = .next (maybeStart (goOff s e) e) :=
  congrArg Host.Outcome.next (if_pos h)

theorem execQuiesceEnd_of_not_quiesced {s : State} {e : Nat} (h : quiesced s e = false) :
    exec (.quiesceEnd e) s = .next s :=
  congrArg Host.Outcome.next (if_neg (by simp [h]))

/-! ## The control word (R245, R339, R344, R345) -/

section Control
variable {s : State} {e m : Nat}

/-- What the fields of ENGCTL become, before the engine follows ENABLE. -/
def controlled (s : State) (e m : Nat) : State :=
  s.modEng e (fun x => { x with
    enable := enableValue s e (bitAt m 63), linkEn := linkenValue s e (bitAt m 58), freq := freqGrid (bits m 43 32) })

theorem engctlWrite_eq (s : State) (e m : Nat) :
    engctlWrite s e m = if isPe e then
        workLink (pump (maybeQuiesce (maybeStart (controlled s e m) e) e) (e - 96)) (e - 96)
      else maybeQuiesce (maybeStart (controlled s e m) e) e := rfl

/-- The fields of ENGCTL read back in an engine that is not OFF, or that ENABLE starts. -/
theorem controlled_eng (h : (s.eng e).st ≠ .off ∨ enableValue s e (bitAt m 63) = true) :
    (controlled s e m).eng e = { s.eng e with
      enable := enableValue s e (bitAt m 63), linkEn := linkenValue s e (bitAt m 58), freq := freqGrid (bits m 43 32) } := by
  refine State.eng_setEng _ _ _ (fun hdef => ?_)
  rcases h with h | h
  · exact h (congrArg Engine.st hdef)
  · exact Bool.false_ne_true ((congrArg Engine.enable hdef).symm.trans h)

/-- In ON with ENABLE 1, and in no other state with ENABLE 0, nothing follows the fields. -/
theorem follow_of_on {u : State} (hst : (u.eng e).st = .on) (hen : (u.eng e).enable = true) :
    maybeQuiesce (maybeStart u e) e = u := by
  rw [maybeStart, if_neg (by simp [hst]), maybeQuiesce, if_neg (by simp [hen])]

theorem follow_of_disable {u : State} (hst : (u.eng e).st = .on) (hen : (u.eng e).enable = false) :
    maybeQuiesce (maybeStart u e) e = startQuiesce u e := by
  rw [maybeStart, if_neg (by simp [hst]), maybeQuiesce, if_pos (by simp [Engine.isOn, hst, hen])]

/-- OFF is left for STARTING. -/
theorem follow_of_start {u : State} (hst : (u.eng e).st = .off) (hen : (u.eng e).enable = true)
    (himg : u.img.adopted.isSome = true) (hf : (u.eng e).fenced = false) (hrail : railGood u e = true)
    (hrst : u.pins.fabRstN = true) :
    maybeQuiesce (maybeStart u e) e =
      u.setEng e { u.eng e with st := .starting, startStep := 0, epoch := u.epoch, chan := [] } := by
  rw [maybeStart, if_pos (by simp [hst, hen, himg, hf, hrail, hrst]), maybeQuiesce, State.eng_setEng, if_neg]
  · simp [Engine.isOn]
  · exact Engine.ne_of_st (v := .starting) rfl (by decide)

end Control

section ControlRows
variable {s : State} {be : BitVec 8} (h : BusTakes s be) (hrst : s.pins.fabRstN = true) (v : Word64)
include h hrst

/-- A write of an engine's control word reaches it while fabric power runs (R359). -/
theorem regWrite_engctl (e : Nat) :
    busWrite s (.eng e 0) v be = busOk (engctlWrite s e (merged (engctlRead (s.eng e) e) v be)) := by
  rw [busWrite_of_takes h]
  simp [regWrite, engWrite, engRead, hrst]

theorem exec_engineEnable_of_takes (e : Nat) :
    exec (.engineEnable e v be) s = .next (busOk (engctlWrite s e (merged (engctlRead (s.eng e) e) v be))) :=
  congrArg Host.Outcome.next (regWrite_engctl h hrst v e)

theorem exec_engineDisable_of_takes (e : Nat) :
    exec (.engineDisable e v be) s = .next (busOk (engctlWrite s e (merged (engctlRead (s.eng e) e) v be))) :=
  congrArg Host.Outcome.next (regWrite_engctl h hrst v e)

theorem exec_freq_of_takes (e : Nat) :
    exec (.freq e v be) s = .next (busOk (engctlWrite s e (merged (engctlRead (s.eng e) e) v be))) :=
  congrArg Host.Outcome.next (regWrite_engctl h hrst v e)

theorem exec_linken_of_takes (p : Nat) :
    exec (.linken p v be) s =
      .next (busOk (engctlWrite s (96 + p) (merged (engctlRead (s.eng (96 + p)) (96 + p)) v be))) :=
  congrArg Host.Outcome.next (regWrite_engctl h hrst v (peEng p))

end ControlRows

/-! ## The power cap (R340) -/

/-- What the engines did in the period: number, FCUR, ACTIVE and fclk. -/
def periodUse (s : State) : List (Nat × Nat × Nat × Nat) :=
  s.engines.map (fun p =>
    let l := ((s.pwr.prev.find? (fun q => q.1 == p.1)).map (·.2)).getD (0, 0)
    (p.1, p.2.fcur, p.2.cnt.active - l.2, p.2.cnt.fclk - l.1))

theorem pwrEstimate_bounds (img : List Byte) (use : List (Nat × Nat × Nat × Nat)) :
    56 ≤ pwrEstimate img use ∧ pwrEstimate img use ≤ 3000 := by
  unfold pwrEstimate
  omega

/-- How the ceiling moves with an estimate. -/
def capCeiling (p : Power) (est : Nat) : Nat :=
  if p.capEn then
    (if p.capEff < est then max 800 (p.ceiling - 25)
    else if est * 100 < 95 * p.capEff && p.low + 1 = 10 then min 1700 (p.ceiling + 25) else p.ceiling)
  else p.ceiling

/-- How many periods in a row the estimate has been low. -/
def capLow (p : Power) (est : Nat) : Nat :=
  if p.capEn && !decide (p.capEff < est) && est * 100 < 95 * p.capEff && p.low + 1 ≠ 10 then p.low + 1 else 0

theorem execPowerCapPeriod_eq (s : State) :
    execPowerCapPeriod s = .next { s with pwr := { s.pwr with
      rest := pwrEstimate (imgSection (s.img.adopted.getD []) 6) (periodUse s)
      prev := s.engines.map (fun q => (q.1, q.2.cnt.fclk, q.2.cnt.active))
      ceiling := capCeiling s.pwr (pwrEstimate (imgSection (s.img.adopted.getD []) 6) (periodUse s))
      low := capLow s.pwr (pwrEstimate (imgSection (s.img.adopted.getD []) 6) (periodUse s)) } } := by
  have huse : ∀ l : List (Nat × Engine), l = s.engines → l.map (fun p =>
      (p.1, p.2.fcur, p.2.cnt.active - (((s.pwr.prev.find? (fun q => q.1 == p.1)).map (·.2)).getD (0, 0)).2,
        p.2.cnt.fclk - (((s.pwr.prev.find? (fun q => q.1 == p.1)).map (·.2)).getD (0, 0)).1)) = periodUse s := by
    rintro l rfl; rfl
  simp only [execPowerCapPeriod, huse s.engines rfl]
  generalize pwrEstimate (imgSection (s.img.adopted.getD []) 6) (periodUse s) = est
  congr 2
  have heff : ∀ r p, Power.capEff { s.pwr with rest := r, prev := p } = s.pwr.capEff := fun _ _ => rfl
  simp only [capCeiling, capLow, heff]
  cases s.pwr.capEn
  · simp
  · by_cases hover : s.pwr.capEff < est
    · simp [hover]
    · by_cases hlow : est * 100 < 95 * s.pwr.capEff
      · by_cases hten : s.pwr.low + 1 = 10
        · simp [hover, hlow, hten]
        · simp [hover, hlow, hten]
      · simp [hover, hlow]

/-! ## The end of a targeted self-test (R302, R305) -/

/-- After a pass the record tells no pattern, and TRANSIENT counts. -/
theorem endTest_of_pass (s : State) (e : Nat) (t : SelfTest) (redo : Bool) (pattern us : Nat) :
    ∃ w, w = writeErr s { t.record with type := 2, cls := 1, redo := redo, time := s.time, synd := us % 65536 } ∧
      endTest s e t true redo pattern us = { w.setEng e { w.eng e with
          tests := (w.eng e).tests.filter (fun x => unitKey x.unit x.quire != unitKey t.unit t.quire) } with
        err := { w.err with trans := (w.err.trans + 1) % 2 ^ 40 } } := by
  have hsynd : 0 * 65536 + us % 65536 = us % 65536 := by omega
  refine ⟨_, rfl, ?_⟩
  simp only [endTest, if_true, Bool.true_and, hsynd, clTRANSIENT]
  rfl

/-- After a failure the record tells the pattern, and the engine is fenced. -/
theorem endTest_of_failure (s : State) (e : Nat) (t : SelfTest) (pattern us : Nat) :
    ∃ w, w = writeErr s { t.record with
        type := 2, cls := 2, redo := false, time := s.time, synd := pattern % 65536 * 65536 + us % 65536 } ∧
      endTest s e t false false pattern us = fence (w.setEng e { w.eng e with
        tests := (w.eng e).tests.filter (fun x => unitKey x.unit x.quire != unitKey t.unit t.quire) }) e t.unit :=
  ⟨_, rfl, rfl⟩

end Sys2Proof.Machine

namespace Sys2Proof.Laws
open Sys2Proof Sys2Proof.Machine

/-- Settles O39: the parts of STARTING in their order, then the two ways out. -/
theorem engineStarts : Obligations.EngineStarts := by
  rintro e s x rfl hst
  refine ⟨fun hn => ?_, fun hn => ?_, fun hn => ?_, fun hn unit quire pattern us => ⟨fun hen => ?_, fun hen => ?_⟩⟩
  · exact congrArg Host.Outcome.next (startPart_of_starting hst hn)
  · exact congrArg Host.Outcome.next (startPart_of_starting hst hn)
  · exact congrArg Host.Outcome.next (startPart_of_starting hst hn)
  · change execBootSelfTestEnd e true unit quire pattern us s = _
    rw [execBootSelfTestEnd, if_pos (by simp [hst, hn]), if_pos rfl, bootPass_of_enable hen]
  · refine ⟨bootPass s e, ?_, bootPass_of_not_enable hen⟩
    change execBootSelfTestEnd e true unit quire pattern us s = _
    rw [execBootSelfTestEnd, if_pos (by simp [hst, hn]), if_pos rfl]

/-- Settles O40: the boot self-test that fails, then QUIESCING with nothing left and with something left. -/
theorem engineStops : Obligations.EngineStops := by
  refine ⟨fun e unit quire pattern us s u hst hn hu => ?_, fun e s hst hwc hreqs htests hin hhold hdescs => ?_,
    fun e s hleft => execQuiesceEnd_of_not_quiesced ?_⟩
  · change execBootSelfTestEnd e false unit quire pattern us s = _
    rw [execBootSelfTestEnd, if_pos (by simp [hst, hn]), if_neg Bool.false_ne_true,
      bootFails_eq s e unit quire pattern us u hu]
  · refine execQuiesceEnd_of_quiesced ?_
    simpa [quiesced, hst, hwc, hreqs, htests, hin, hhold] using hdescs
  · rcases hleft with h | h | h | h | h | ⟨c, hc, h⟩
    · simp [quiesced, h]
    · simp [quiesced, h]
    · simp [quiesced, h]
    · simp [quiesced, h]
    · simp [quiesced, h]
    · simp only [quiesced, Bool.and_eq_false_iff, List.all_eq_false]
      exact .inr ⟨c, hc, by simpa using h⟩

/-- Settles O41: what the fields become, and what follows them in each state. -/
theorem engineControl : Obligations.EngineControl := by
  rintro e m v be s x htakes hrst rfl rfl
  refine ⟨fun hpe hst hen hli hbit hlbit himg hf hrail => ?_, fun hpe hst hbit hlbit => ?_,
    fun hpe hst hen hli hbit hlbit => ?_, ?_⟩
  · have henv : enableValue s e true = true := by simp [enableValue, hen, himg, hf, hrail]
    have hliv : linkenValue s e false = false := by simp [linkenValue]
    have heng := controlled_eng (s := s) (e := e) (m := merged (engctlRead (s.eng e) e) v be) (.inr (by rw [hbit, henv]))
    rw [hbit, hlbit, henv, hliv] at heng
    rw [exec_engineEnable_of_takes htakes hrst, engctlWrite_eq, if_neg (by simp [hpe]), follow_of_start]
    · rw [heng, controlled, hbit, hlbit, henv, hliv, State.modEng, State.setEng_setEng]
      · simp only [hli]
        rfl
      · exact Engine.ne_of_enable rfl
    · rw [heng]; exact hst
    · rw [heng]
    · exact himg
    · rw [heng]; exact hf
    · exact hrail
    · exact hrst
  · have henv : enableValue s e false = false := by simp [enableValue]
    have hliv : linkenValue s e false = false := by simp [linkenValue]
    have heng := controlled_eng (s := s) (e := e) (m := merged (engctlRead (s.eng e) e) v be) (.inl (by simp [hst]))
    rw [hbit, hlbit, henv, hliv] at heng
    rw [exec_engineDisable_of_takes htakes hrst, engctlWrite_eq, if_neg (by simp [hpe]), follow_of_disable]
    · rw [controlled, hbit, hlbit, henv, hliv]
      rfl
    · rw [heng]; exact hst
    · rw [heng]
  · have henv : enableValue s e true = true := by simp [enableValue, hen]
    have hliv : linkenValue s e false = false := by simp [linkenValue]
    have heng := controlled_eng (s := s) (e := e) (m := merged (engctlRead (s.eng e) e) v be) (.inl (by simp [hst]))
    rw [hbit, hlbit, henv, hliv] at heng
    rw [exec_freq_of_takes htakes hrst, engctlWrite_eq, if_neg (by simp [hpe]), follow_of_on]
    · rw [controlled, hbit, hlbit, henv, hliv, State.modEng]
      simp only [hen, hli]
    · rw [heng]; exact hst
    · rw [heng]
  · rintro p rfl hp hst hen hbit hli hlbit hrail hprio
    refine ⟨_, rfl, ?_⟩
    have hpe : isPe (96 + p) = true := by simp [isPe]; omega
    have henv : enableValue s (96 + p) true = true := by simp [enableValue, hen]
    have hliv : linkenValue s (96 + p) true = true := by simp [linkenValue, hli, hpe, Engine.isOn, hst, hrail, hprio]
    have heng := controlled_eng (s := s) (e := 96 + p) (m := merged (engctlRead (s.eng (96 + p)) (96 + p)) v be)
      (.inl (by simp [hst]))
    rw [hbit, hlbit, henv, hliv] at heng
    rw [exec_linken_of_takes htakes hrst, engctlWrite_eq, if_pos hpe, follow_of_on, Nat.add_sub_cancel_left]
    · rw [controlled, hbit, hlbit, henv, hliv, State.modEng]
      simp only [hen]
    · rw [heng]; exact hst
    · rw [heng]

/-- Settles O42: the period's estimate and what it moves, then a clock that follows. -/
theorem powerCapAndClock : Obligations.PowerCapAndClock := by
  refine ⟨fun s => ?_, fun e s hst hclk => ?_⟩
  · obtain ⟨hlo, hhi⟩ := pwrEstimate_bounds (imgSection (s.img.adopted.getD []) 6) (periodUse s)
    refine ⟨_, _, periodUse s, hlo, hhi, rfl, ?_, execPowerCapPeriod_eq s⟩
    simp only [periodUse, List.map_map]
    rfl
  · change execClockChange e s = _
    simp only [execClockChange]
    rw [if_pos (by simp [hst, hclk])]
    rfl

/-- Settles O43: the test's start and its two ends, then the watch unit and the port. -/
theorem unitEvents : Obligations.UnitEvents := by
  refine ⟨fun e unit quire pattern us s u v t redo => ⟨rfl, fun hfind hu hredo => ⟨?_, ?_⟩, fun hnone pass => ?_⟩,
    fun e s x hx => ⟨fun hst hwatch => ?_, fun hwatch hidle => ?_, fun hport => ?_⟩⟩
  · obtain ⟨w, hw, hy⟩ := endTest_of_pass v e t redo pattern us
    refine ⟨w, _, hw, hy, ?_⟩
    change execSelfTestEnd e unit quire true pattern us s = _
    simp only [execSelfTestEnd, hfind, ← hu, ← hredo, if_true, Bool.or_eq_true, or_assoc, Engine.testing]
  · obtain ⟨w, hw, hy⟩ := endTest_of_failure u e t pattern us
    refine ⟨w, _, hw, hy, ?_⟩
    change execSelfTestEnd e unit quire false pattern us s = _
    simp only [execSelfTestEnd, hfind, ← hu, Bool.false_eq_true, if_false, Bool.or_eq_true, or_assoc, Engine.testing]
  · change execSelfTestEnd e unit quire pass pattern us s = _
    simp only [execSelfTestEnd, hnone]
  · subst hx
    change execWatchStartingEnd e s = _
    rw [execWatchStartingEnd, if_pos (by rcases hst with h | h <;> simp [Engine.isOn, h, hwatch])]
    rfl
  · subst hx
    change execWatchIdleTimeout e s = _
    rw [execWatchIdleTimeout, if_pos (by simp [hwatch, hidle])]
    rfl
  · change execTracePortTraining s = _
    rw [execTracePortTraining, if_pos (by simp [hport])]

/-- Settles O49: what the head of the channel is, then the three cases of R283 and the floor of R284. -/
theorem epochDelivery : Obligations.EpochDelivery := by
  rintro e s x rfl
  refine ⟨fun n l hst hhold hchan => ?_, fun hstays => ?_, ?_, ?_, rfl⟩
  · change execEpochDelivery e s = _
    have hne : ({ s.eng e with chan := l } : Engine) ≠ {} := fun hdef => hst (congrArg Engine.st hdef)
    rw [execEpochDelivery, if_pos (by simp [hst, hhold])]
    simp only [takeEpoch, hchan, deliverEpoch]
    rw [State.modEng_modEng _ _ _ _ hne]
    rfl
  · change execEpochDelivery e s = _
    rw [execEpochDelivery]
    split
    · next hgo =>
      simp only [Bool.and_eq_true, bne_iff_ne, Bool.not_eq_true'] at hgo
      obtain ⟨hst, hhold⟩ := hgo
      rcases hstays with h | h | h | ⟨tag, hold, l, h⟩
      · exact absurd h hst
      · simp [hhold] at h
      · simp only [takeEpoch, h]
      · simp only [takeEpoch, h]
    · rfl
  · rintro c q d hd rfl
    have hdesc := State.desc_of hd
    refine ⟨fun htag => ?_, fun htag hok => ?_, fun htag hbad => ?_⟩
    · simp [reEvaluate, hdesc, htag]
    · simp [reEvaluate, hdesc, htag, hok]
    · simp [reEvaluate, hdesc, htag, hbad, stREVOKED]
  · change execEpochDoneRise s = _
    simp only [execEpochDoneRise]

/-- Settles O59: each pin by the level of the other. -/
theorem alwaysOnReset : Obligations.AlwaysOnReset := by
  intro s
  refine ⟨?_, fun hrail => ?_, fun hrail hpin => ?_, fun stable hpin => ?_, fun hrail hpin => ?_, ?_, fun hrail hpin => ?_,
    fun hlow => ?_⟩
  · rintro low rfl
    exact ⟨rfl, rfl⟩
  · change execVddAonPgHigh s = _
    simp only [execVddAonPgHigh, hrail, if_true]
  · change execVddAonPgHigh s = _
    simp only [execVddAonPgHigh, hrail, hpin, Bool.false_eq_true, if_false]
  · change execAonRstRelease stable s = _
    simp only [execAonRstRelease, hpin, if_true]
  · change execAonRstRelease true s = _
    simp [execAonRstRelease, hrail, hpin]
  · rintro c (⟨rfl, hrail, hpin⟩ | ⟨rfl, hpin⟩ | ⟨rfl, hpin, hrail⟩)
    · refine ⟨undefinedIsland s { s.pins with vddAon := true }, ?_, rfl, rfl, rfl, hpin, rfl, rfl, .inl rfl⟩
      change execVddAonPgHigh s = _
      simp only [execVddAonPgHigh, hrail, hpin, Bool.false_eq_true, if_false, if_true]
    · refine ⟨undefinedIsland s { s.pins with aonRstN := true }, ?_, rfl, rfl, rfl, rfl, rfl, rfl, ?_⟩
      · change execAonRstRelease false s = _
        simp [execAonRstRelease, hpin]
      · cases hrail : s.pins.vddAon
        · exact .inr ⟨rfl, by simp⟩
        · exact .inl hrail
    · refine ⟨undefinedIsland s { s.pins with aonRstN := true }, ?_, rfl, rfl, rfl, rfl, rfl, rfl, .inr ⟨hrail, by simp⟩⟩
      change execAonRstRelease true s = _
      simp [execAonRstRelease, hpin, hrail]
  · change execAonPgRise s = _
    rw [execAonPgRise, if_pos (by simp [hrail, hpin])]
    simp [fabReadyNow]
  · change execAonPgRise s = _
    rw [execAonPgRise, if_neg (by rcases hlow with h | h <;> simp [h])]

end Sys2Proof.Laws
end

section
/-! What goes out of the block while records are written: requests at the boundary alone (R12). A frame that passes to the MAC
presents the frame, and then at most the requests that its trace record makes (R243, R326). -/

namespace Sys2Proof.Machine

/-- From `s` to `t` the block has presented requests, and nothing else. -/
def Presents (s t : State) : Prop := ∃ l, t.outputs = s.outputs ++ l ∧ l.all Output.isRequest = true

namespace Presents

/-- Operations that present nothing. -/
theorem ofOutputs {s t : State} (h : t.outputs = s.outputs) : Presents s t := ⟨[], by simp [h], rfl⟩

theorem rfl' (s : State) : Presents s s := ofOutputs rfl

theorem trans' {s t u : State} (h : Presents s t) (k : Presents t u) : Presents s u := by
  obtain ⟨l, hl, hreq⟩ := h
  obtain ⟨m, hm, kreq⟩ := k
  exact ⟨l ++ m, by rw [hm, hl, List.append_assoc], by rw [List.all_append, hreq, kreq, Bool.and_self]⟩

theorem modEng (s : State) (e : Nat) (f : Engine → Engine) : Presents s (s.modEng e f) := ofOutputs rfl
theorem setMem (s : State) (m : Mem) : Presents s (s.setMem m) := ofOutputs rfl
theorem modLink (s : State) (p : Nat) (f : Link → Link) : Presents s (s.modLink p f) := ofOutputs rfl

theorem out {o : Output} (h : o.isRequest = true) (s : State) : Presents s (s.out o) := ⟨[o], rfl, by simp [h]⟩

theorem foldl {α : Type} {f : State → α → State} (hf : ∀ s x, Presents s (f s x)) (s : State) (l : List α) :
    Presents s (l.foldl f s) := by
  induction l generalizing s with
  | nil => exact rfl' s
  | cons x r ih => exact (hf s x).trans' (ih _)

theorem presentReq (s : State) (e : Nat) (net : Bool) (p : Req → Bool) (tag : Option Nat) :
    Presents s (presentReq s e net p tag) := by
  unfold Machine.presentReq
  split
  · extract_lets u
    split
    · exact ofOutputs rfl
    · exact (ofOutputs rfl : Presents s u).trans' (out rfl u)
  · exact rfl' s

theorem stackDef (s : State) (m : List (Nat × Nat)) : Presents s { s with stackDef := m } := ofOutputs rfl

theorem issueNet (s : State) (e : Nat) : Presents s (issueNet s e) := foldl (fun s _ => presentReq s e _ _ _) s _

theorem issueStack (s : State) (k : Nat) : Presents s (issueStack s k) := by
  unfold Machine.issueStack
  extract_lets u l r v
  have hu : Presents s u := by
    refine foldl (fun s e => ?_) s _
    exact foldl (fun s _ => presentReq s _ _ _ _) _ _
  have hv : Presents u v := foldl (fun s _ => presentReq s _ _ _ _) u _
  exact (hu.trans' hv).trans' (stackDef v _)

theorem issueReqs (s : State) (e : Nat) : Presents s (issueReqs s e) := by
  unfold Machine.issueReqs
  split
  · exact (issueNet s e).trans' (issueStack _ _)
  · exact issueNet s e

theorem sendReqs (s : State) (e : Nat) (l : List Req) : Presents s (s.sendReqs e l) := by
  unfold State.sendReqs
  split
  · exact rfl' s
  · exact (modEng s e _).trans' (issueReqs _ e)

theorem readMem (s : State) (e a n : Nat) : Presents s (readMem s e a n) := foldl (fun s _ => out rfl s) s _

theorem writeRecord (s : State) (e c a : Nat) (l : List Byte) : Presents s (writeRecord s e c a l) :=
  (setMem s _).trans' (sendReqs _ _ _)

theorem tracePut (s : State) (e v : Nat) : Presents s (tracePut s e v) := by
  unfold Machine.tracePut tracePush
  extract_lets a u
  split
  · split <;> exact ofOutputs rfl
  · exact (ofOutputs rfl : Presents s u).trans' (writeRecord u _ _ _ _)

theorem traceOwed (s : State) (e : Nat) : Presents s (traceOwed s e) := by
  unfold Machine.traceOwed
  extract_lets x
  split
  · exact (modEng s e _).trans' (tracePut _ _ _)
  · exact rfl' s

theorem traceLose (s : State) (e : Nat) : Presents s (traceLose s e) := ofOutputs rfl

theorem traceEmitAt (s : State) (time e ty mb fields : Nat) : Presents s (traceEmitAt s time e ty mb fields) := by
  unfold Machine.traceEmitAt
  split
  · extract_lets u
    have hu : Presents s u := traceOwed s e
    split
    · exact hu.trans' (tracePut _ _ _)
    · exact hu.trans' (traceLose u e)
  · exact rfl' s

end Presents

/-- With the trace off nothing is emitted (R326). -/
theorem traceEmitAt_of_off {s : State} (h : s.trace.on = false) (time e ty mb fields : Nat) :
    traceEmitAt s time e ty mb fields = s := by
  simp [traceEmitAt, h]

theorem traceFrame_of_off {s : State} (h : s.trace.on = false) (e : Nat) (f : FrameHdr) (recv acc : Bool) :
    traceFrame s e f recv acc = s := traceEmitAt_of_off h _ _ _ _ _

/-- What a frame that passes to the MAC presents (R243): itself, then its SEND record where the trace asks for one. -/
theorem passFrame_outputs (s : State) (p : Nat) (f : Frame) :
    ∃ l, (passFrame s p f).outputs = s.outputs ++ [frameOut s p f] ++ l ∧ l.all Output.isRequest = true ∧
      (s.trace.on = false → l = []) := by
  unfold passFrame
  extract_lets pri u v
  by_cases hon : s.trace.on = false
  · exact ⟨[], by rw [traceFrame_of_off (show v.trace.on = false from hon), List.append_nil]; rfl, rfl, fun _ => rfl⟩
  · obtain ⟨l, hl, hreq⟩ := Presents.traceEmitAt v v.time (peEng p) _ _ _
    exact ⟨l, hl, hreq, fun h => absurd h hon⟩

/-- A frame that waits alone and may go passes to the MAC. -/
theorem pump_of_one {s : State} {p : Nat} {f : Frame} (hq : (s.link p).txq = [f]) (h : maySend s p f.hdr = true) :
    pump s p = passFrame (s.modLink p (fun l => { l with txq := [] })) p f := by
  unfold pump
  by_cases hty : f.hdr.ftype = 0 <;> simp [hq, h, hty]

/-- A link whose queue is not empty reads back. -/
theorem Link.ne_of_txq {l : Link} (h : l.txq ≠ []) : l ≠ {} := fun hdef => h (by rw [hdef])

/-- A frame handed to a link with nothing waiting, which may send it, passes to the MAC (R250). -/
theorem sendFrame_of_maySend {s : State} {p : Nat} {f : Frame} (h : maySend s p f.hdr = true) (hq : (s.link p).txq = [])
    (hm : memberValid s f.hdr.dst = true) :
    sendFrame s p f = passFrame ((s.modLink p (fun l => { l with txq := l.txq ++ [f] })).modLink p
      (fun l => { l with txq := [] })) p f := by
  have hlive : linkLive s p = true := by
    simp only [maySend, Bool.and_eq_true] at h
    exact h.1.1.1.1.1
  have hread : (s.modLink p (fun l => { l with txq := l.txq ++ [f] })).link p = { s.link p with txq := [f] } := by
    refine (State.link_setLink _ _ _ (Link.ne_of_txq ?_)).trans ?_ <;> simp [hq]
  have hmay : maySend (s.modLink p (fun l => { l with txq := l.txq ++ [f] })) p f.hdr = true := by
    rw [← h]
    simp only [maySend, hread]
    rfl
  rw [sendFrame, if_pos (by rw [hlive, hm]; rfl), pump_of_one (by rw [hread]) hmay]

/-- R244: nothing is sent to a device without a VALID entry. -/
theorem sendFrame_of_not_member {s : State} {p : Nat} {f : Frame} (h : memberValid s f.hdr.dst = false) :
    sendFrame s p f = s := by
  simp [sendFrame, h]

end Sys2Proof.Machine

namespace Sys2Proof.Laws
open Sys2Proof Sys2Proof.Machine

/-- Settles O29: the frame stands alone in the queue of its link, and the pump passes it to the MAC. -/
theorem frameGoesOut : Obligations.FrameGoesOut := by
  intro s p f
  refine ⟨.sendFrame s p f, fun h hq hm => ?_, sendFrame_of_not_member⟩
  obtain ⟨l, hout, hreq, hoff⟩ := passFrame_outputs ((s.modLink p (fun l => { l with txq := l.txq ++ [f] })).modLink p
    (fun l => { l with txq := [] })) p f
  rw [sendFrame_of_maySend h hq hm]
  exact ⟨l, hout, hreq, hoff⟩

end Sys2Proof.Laws
end

section
/-! Frames that arrive and pass every drop of R249: what each control type does (R241, R252 to R258, R261 to R265). -/

namespace Sys2Proof.Machine

/-! ## The link's tables -/

namespace Link

theorem txOf_job (l : Link) (j t d : Nat) : (l.txOf j t d).job = j := by
  unfold txOf
  cases h : l.tx.find? (fun x => x.job == j && x.ticket == t && x.dst == d) with
  | none => rfl
  | some x =>
    have := List.find?_some h
    simp only [Bool.and_eq_true, beq_iff_eq] at this
    exact this.1.1

theorem txOf_ticket (l : Link) (j t d : Nat) : (l.txOf j t d).ticket = t := by
  unfold txOf
  cases h : l.tx.find? (fun x => x.job == j && x.ticket == t && x.dst == d) with
  | none => rfl
  | some x =>
    have := List.find?_some h
    simp only [Bool.and_eq_true, beq_iff_eq] at this
    exact this.1.2

theorem txOf_dst (l : Link) (j t d : Nat) : (l.txOf j t d).dst = d := by
  unfold txOf
  cases h : l.tx.find? (fun x => x.job == j && x.ticket == t && x.dst == d) with
  | none => rfl
  | some x =>
    have := List.find?_some h
    simp only [Bool.and_eq_true, beq_iff_eq] at this
    exact this.2

theorem setTx_tx_ne_nil (l : Link) (v : TxStream) : (l.setTx v).tx ≠ [] := by
  unfold setTx
  split
  · next h =>
    intro hnil
    simp [List.map_eq_nil_iff.1 hnil] at h
  · simp

theorem ne_of_tx {l : Link} (h : l.tx ≠ []) : l ≠ {} := fun hdef => h (by rw [hdef])

/-- A send stream written reads back. -/
theorem txOf_setTx (l : Link) (v : TxStream) : (l.setTx v).txOf v.job v.ticket v.dst = v := by
  unfold setTx
  split
  · next h =>
    simp only [txOf]
    generalize l.tx = r at h
    induction r with
    | nil => simp at h
    | cons x r ih =>
      simp only [List.map_cons, List.find?_cons]
      by_cases hx : x.job = v.job ∧ x.ticket = v.ticket ∧ x.dst = v.dst
      · obtain ⟨hj, ht, hd⟩ := hx
        simp [hj, ht, hd]
      · have hx' : (x.job == v.job && x.ticket == v.ticket && x.dst == v.dst) = false := by
          simpa [and_assoc] using hx
        have hx2 : (decide (x.job = v.job) && decide (x.ticket = v.ticket) && decide (x.dst = v.dst)) = false := by
          simpa [and_assoc] using hx
        simp only [List.any_cons, hx', Bool.false_or] at h
        simp only [hx2, Bool.false_eq_true, if_false, hx']
        exact ih h
  · next h =>
    have hnone : l.tx.find? (fun x => x.job == v.job && x.ticket == v.ticket && x.dst == v.dst) = none := by
      simpa [List.find?_eq_none] using h
    simp [txOf, List.find?_append, hnone]

end Link

/-- A link that keeps something reads back as written. -/
theorem State.link_modLink {s : State} {p : Nat} {f : Link → Link} (h : f (s.link p) ≠ {}) :
    (s.modLink p f).link p = f (s.link p) := State.link_setLink s p _ h

/-! ## The frame as it arrives -/

theorem SendOnly.enterCtl (s : State) (p : Nat) : SendOnly s (enterCtl s p) := by
  unfold Machine.enterCtl setPauseReq
  extract_lets n u
  split
  · exact ((modLink s p _).trans' (modLink _ p _)).trans' (out _ _)
  · exact modLink s p _

theorem SendOnly.heard (s : State) (p : Nat) (f : RxFrame) : SendOnly s (heard s p f) :=
  ((modLink s p _).trans' (ofTrace (traceOnly_traceEmitAt _ _ _ _ _ _))).trans' (enterCtl _ p)

theorem heard_dom (s : State) (p : Nat) (f : RxFrame) : (heard s p f).dom = s.dom := (SendOnly.heard s p f).setup.dom

theorem heard_isIssuer (s : State) (p : Nat) (f : RxFrame) : (heard s p f).isIssuer = s.isIssuer := by
  simp only [State.isIssuer, heard_dom]

/-- A frame of which PE `p` drops none is worked on (R249). -/
theorem receive_of_accepts {s : State} {p ty : Nat} {f : RxFrame} (h : Accepts s p ty f) (hty : ty < 14) (rec : Bool)
    (k : State → FrameHdr → State) : receive s p ty f rec k = takePassed s p ty f.frame.hdr rec k := by
  obtain ⟨hears, rfl, hfcs, hproto, hver, hdom, hdst, hsrc⟩ := h
  rw [receive_of_hears (.inl rfl) hears, if_neg (by simp [hfcs]),
    if_neg (by simp only [hproto, hver, Bool.true_eq_false, ne_eq, not_true, false_or]; omega),
    if_neg (by simp [hdom, hdst, hsrc])]

/-- A control frame passes through the receive queue (R250). -/
theorem receive_of_accepts_ctl {s : State} {p ty : Nat} {f : RxFrame} (h : Accepts s p ty f) (hty : ty < 14) (hctl : ty ≠ 0)
    (k : State → FrameHdr → State) : receive s p ty f true k = leaveCtl (k (heard s p f) f.frame.hdr) p := by
  rw [receive_of_accepts h hty, takePassed, if_neg hctl]
  rfl

/-- The row of a control frame that is accepted. -/
theorem next_of_accepts_ctl {s t : State} {p ty : Nat} {f : RxFrame} {k : State → FrameHdr → State} (h : Accepts s p ty f)
    (hk : leaveCtl (k (heard s p f) f.frame.hdr) p = t) (hty : ty < 14 := by omega) (hctl : ty ≠ 0 := by omega) :
    (.next (receive s p ty f true k) : Host.Outcome State Fault Refusal) = .next t := by
  rw [receive_of_accepts_ctl h hty hctl, hk]

/-! ## ACK, CREDIT and NAK -/

/-- Work on the streams of an acknowledgement keeps the send streams of the link, where it has any. -/
theorem foldl_keeps_tx {α : Type} {p : Nat} {f : State → α → State}
    (hf : ∀ s x, (s.link p).tx ≠ [] → ((f s x).link p).tx = (s.link p).tx) (l : List α) (s : State) (h : (s.link p).tx ≠ []) :
    ((l.foldl f s).link p).tx = (s.link p).tx := by
  induction l generalizing s with
  | nil => rfl
  | cons x r ih =>
    have hx := hf s x h
    rw [List.foldl_cons, ih (f s x) (by rw [hx]; exact h), hx]

theorem modLink_keeps_tx {s : State} {p : Nat} {f : Link → Link} (hf : (f (s.link p)).tx = (s.link p).tx)
    (h : (s.link p).tx ≠ []) : ((s.modLink p f).link p).tx = (s.link p).tx := by
  rw [State.link_modLink (Link.ne_of_tx (by rw [hf]; exact h)), hf]

/-- R254: an acknowledgement that releases frames leaves the stream with the rest of them. -/
theorem txOf_takeAck {s : State} {p : Nat} {h : FrameHdr}
    (hany : ((s.link p).txOf h.job h.ticket h.src).unacked.any (fun g => before16 g.hdr.seq h.seq) = true) :
    ((takeAck s p h).link p).txOf h.job h.ticket h.src = { (s.link p).txOf h.job h.ticket h.src with
      unacked := ((s.link p).txOf h.job h.ticket h.src).unacked.filter (fun g => !before16 g.hdr.seq h.seq) } := by
  have hgone : ((((s.link p).txOf h.job h.ticket h.src).unacked.filter
      (fun f => before16 f.hdr.seq h.seq)).isEmpty) = false := by
    obtain ⟨g, hg, hbefore⟩ := List.any_eq_true.1 hany
    simp only [List.isEmpty_eq_false_iff_exists_mem]
    exact ⟨g, List.mem_filter.2 ⟨hg, hbefore⟩⟩
  generalize ht : (s.link p).txOf h.job h.ticket h.src = t at hgone ⊢
  have hj : t.job = h.job := by rw [← ht, Link.txOf_job]
  have hk : t.ticket = h.ticket := by rw [← ht, Link.txOf_ticket]
  have hd : t.dst = h.src := by rw [← ht, Link.txOf_dst]
  simp only [takeAck, ht, hgone, Bool.false_eq_true, if_false]
  generalize hu : s.modLink p _ = u
  generalize ht' : ({ t with unacked := t.unacked.filter (fun f => !before16 f.hdr.seq h.seq) } : TxStream) = t'
  have hread : (u.link p).tx = ((s.link p).setTx t').tx := by
    subst hu
    rw [State.link_modLink (Link.ne_of_tx (by exact Link.setTx_tx_ne_nil _ _)), ht']
  have hne : (u.link p).tx ≠ [] := by rw [hread]; exact Link.setTx_tx_ne_nil _ _
  have htx : ∀ l : Link, l.tx = (u.link p).tx → l.txOf h.job h.ticket h.src = t' := by
    intro l hl
    have : l.txOf h.job h.ticket h.src = ((s.link p).setTx t').txOf h.job h.ticket h.src := by
      rw [Link.txOf, hl, hread, Link.txOf]
    rw [this, ← hj, ← hk, ← hd, ← show t'.job = t.job by rw [← ht'], ← show t'.ticket = t.ticket by rw [← ht'],
      ← show t'.dst = t.dst by rw [← ht'], Link.txOf_setTx]
  refine htx _ (foldl_keeps_tx (fun s x hs => ?_) _ _ hne)
  have hkept : ((releaseKept s p x.hdr).link p).tx = (s.link p).tx := modLink_keeps_tx rfl hs
  split
  · exact hkept
  · rw [modLink_keeps_tx rfl (by rw [hkept]; exact hs), hkept]

/-- R252: a CREDIT with a higher limit is taken, with the bucket it reserves. -/
theorem takeCredit_of_higher {s : State} {p : Nat} {h : FrameHdr} (hi : ((s.link p).inst? h.job h.ticket).isSome = true)
    (hlim : before16 ((s.link p).txOf h.job h.ticket h.src).limit h.seq = true) :
    takeCredit s p h = s.modLink p (fun l => l.setTx { (s.link p).txOf h.job h.ticket h.src with
      limit := h.seq, lres := if bitAt h.flags 5 then some h.bucket else none }) := by
  have hpresent : ((s.link p).inst? h.job h.ticket).isNone = false := by
    rw [Option.isNone_eq_false_iff]; exact hi
  simp only [takeCredit, hpresent, Bool.false_and, Bool.false_eq_true, if_false, if_pos hlim]

/-- R253: any other CREDIT is ignored. -/
theorem takeCredit_of_not_higher {s : State} {p : Nat} {h : FrameHdr}
    (hlim : before16 ((s.link p).txOf h.job h.ticket h.src).limit h.seq = false) : takeCredit s p h = s := by
  simp only [takeCredit, hlim, Bool.false_eq_true, if_false, ite_self]

/-- R255: the frames from sequence `e` onward go again. -/
theorem resend_of_permitted {s : State} {p : Nat} {t : TxStream} (h : (s.link p).permitted t.ticket = true) (e : Nat) :
    resend s p t e = (t.unacked.filter (fun f => !before16 f.hdr.seq e)).foldl (fun s f =>
      sendFrame s p { f with hdr := { f.hdr with flags := f.hdr.flags ||| 8 } }) s := by
  rw [resend, if_pos h]
  rfl

/-- R236: a WAITING one sends none. -/
theorem resend_of_waiting {s : State} {p : Nat} {t : TxStream} (h : (s.link p).permitted t.ticket = false) (e : Nat) :
    resend s p t e = s := by
  simp [resend, h]

theorem satInc32_ne_zero (n : Nat) : satInc32 n 1 ≠ 0 := by
  unfold satInc32
  omega

/-- What a received NAK counts (Table 16.6). -/
def Link.countNak (l : Link) : Link := { l with cnt := { l.cnt with nakRx := satInc32 l.cnt.nakRx 1 } }

theorem link_countNak (s : State) (p : Nat) : (s.modLink p Link.countNak).link p = (s.link p).countNak :=
  State.link_modLink fun hdef => satInc32_ne_zero _ (congrArg (fun l : Link => l.cnt.nakRx) hdef)

/-! ## Leases (R264) -/

theorem publishMark_dom (s : State) : (publishMark s).dom = { s.dom with mark := s.dom.nextTicket } :=
  (SendOnly.foldl (fun s _ => SendOnly.sendCtrl s _ _) _ _).setup.dom

theorem takeBlock_deviceId (s : State) : (takeBlock s).dom.deviceId = s.dom.deviceId := by
  unfold takeBlock
  extract_lets u v
  split
  · next w _ =>
    have hw : (publishMark w).dom.deviceId = w.dom.deviceId := by rw [publishMark_dom]
    exact hw
  · rfl

end Sys2Proof.Machine

namespace Sys2Proof.Laws
open Sys2Proof Sys2Proof.Machine

/-- Settles O30: each row is its work on the frame that was heard, and the streams of the link read back. -/
theorem streamFrames : Obligations.StreamFrames := by
  intro p f s u v h x rfl hu hx
  refine ⟨fun hacc hany => ⟨?_, ?_⟩, fun hacc hi => ⟨fun hlim => ?_, fun hlim => ?_⟩, fun hacc hv => ?_⟩
  · refine next_of_accepts_ctl hacc ?_
    rw [hu]
  · subst hx
    exact txOf_takeAck hany
  · refine next_of_accepts_ctl hacc ?_
    rw [← hu, takeCredit_of_higher hi (hx ▸ hlim), hx]
  · refine next_of_accepts_ctl hacc ?_
    rw [← hu, takeCredit_of_not_higher (hx ▸ hlim)]
  · have hread : v.link p = (u.link p).countNak := by
      rw [hv]
      exact link_countNak u p
    have hrow : exec (.nak p f) s = .next (leaveCtl (if x.unacked.any (fun g => g.hdr.seq == f.frame.hdr.seq) = true
        then resend v p x f.frame.hdr.seq else v) p) := by
      refine next_of_accepts_ctl hacc ?_
      have hxv : (v.link p).txOf f.frame.hdr.job f.frame.hdr.ticket f.frame.hdr.src = x := by
        rw [hread, hx]
        rfl
      rw [← hxv, hv, hu]
    have hperm : (v.link p).permitted x.ticket = (u.link p).permitted f.frame.hdr.ticket := by
      rw [hx, Link.txOf_ticket, hread]
      rfl
    refine ⟨fun hany hp => ?_, fun hno => ?_⟩
    · rw [hrow, if_pos hany, resend_of_permitted (hperm.trans hp)]
    · rw [hrow]
      split
      · next hany =>
        have hp := hno.resolve_left (by simp [hany])
        rw [resend_of_waiting (hperm.trans hp)]
      · rfl

/-- Settles O31: an ANNOUNCE is kept and compared with the descriptor of its bucket; an ABORT ends it. -/
theorem bucketFrames : Obligations.BucketFrames := by
  intro p f s u v h rfl hu hv
  refine ⟨fun hacc hi => ?_, fun c d hacc hd => ⟨?_, .endDesc u c d.seq 0x21⟩⟩
  · have hrow : exec (.announce p f) s = .next (leaveCtl (workLink (takeAnnounce u p f.frame) p) p) := by
      refine next_of_accepts_ctl hacc ?_
      rw [hu]
    have hpresent : ((u.link p).inst? f.frame.hdr.job f.frame.hdr.ticket).isNone = false := by
      rw [Option.isNone_eq_false_iff]; exact hi
    have hsame : v.bucketDesc p f.frame.hdr.job f.frame.hdr.ticket f.frame.hdr.bucket =
        u.bucketDesc p f.frame.hdr.job f.frame.hdr.ticket f.frame.hdr.bucket := by rw [hv]; rfl
    refine ⟨fun hagree => ?_, fun c d hd hover hdis => ?_⟩
    · have hkept : takeAnnounce u p f.frame = v := by
        simp only [takeAnnounce, hpresent, Bool.false_and, Bool.false_eq_true, if_false, ← hv, hsame]
        cases hb : u.bucketDesc p f.frame.hdr.job f.frame.hdr.ticket f.frame.hdr.bucket with
        | none => rfl
        | some x => rcases hagree x hb with h | h <;> simp [h]
      rw [hrow, hkept]
    · have habort : takeAnnounce u p f.frame = abortBucket v p c d := by
        simp only [takeAnnounce, hpresent, Bool.false_and, Bool.false_eq_true, if_false, ← hv, hsame, hd, hover, hdis,
          Bool.not_false, Bool.and_self, if_true]
      rw [hrow, habort]
  · refine next_of_accepts_ctl hacc ?_
    rw [← hu]
    simp only [hd]
    rfl

/-- Settles O33: each row is its work on the frame that was heard, which leaves the domain words (R263, R264). -/
theorem domainFrames : Obligations.DomainFrames := by
  intro p f s u h rfl hu
  have hdom : u.dom = s.dom := hu ▸ heard_dom s p f
  have hiss : u.isIssuer = s.isIssuer := hu ▸ heard_isIssuer s p f
  refine ⟨fun hacc hj he hl => ?_, fun v hacc his hv => ?_, fun hacc hj hm hk => ?_, fun hacc hm hk => ?_⟩
  · refine next_of_accepts_ctl hacc ?_
    rw [← hu]
    simp only [hdom, hj, he, hl, Bool.not_false, Bool.and_self, if_true]
    rfl
  · have hvdom : v.dom = s.dom := by rw [hv, (SendOnly.sendFrame u p _).setup.dom, hdom]
    refine next_of_accepts_ctl hacc ?_
    rw [← hu]
    simp only [hiss, his, if_true]
    have hsent : sendCtrl u p { ownHdr u 12 f.frame.hdr.src with ticket := u.dom.mark } = v := by rw [hv, hdom]; rfl
    rw [hsent]
    simp only [List.contains_iff_mem, hvdom]
    split
    · simp only [sendMark, State.kport, ownHdr, ctrlHdr, hvdom, hdom]
      rfl
    · rfl
  · refine next_of_accepts_ctl hacc ?_
    rw [← hu]
    simp only [seeTicket, hdom, hj, hm, hk, Bool.not_false, Bool.and_self, beq_self_eq_true, if_true]
  · refine next_of_accepts_ctl hacc ?_
    rw [← hu]
    have hm' : (seeTicket u f.frame.hdr.ticket).dom.member = true := by simp only [seeTicket, hdom, hm]
    have hk' : (f.frame.hdr.src == (seeTicket u f.frame.hdr.ticket).dom.keystone) = true := by
      simp only [seeTicket, hdom, hk, beq_self_eq_true]
    simp only [hm', hk', Bool.and_self, if_true]
    rfl

/-- Settles O34: each row is its work on the frame that was heard, which leaves the domain words (R264, R265). -/
theorem leaseFrames : Obligations.LeaseFrames := by
  intro p f s u h rfl hu
  have hdom : u.dom = s.dom := hu ▸ heard_dom s p f
  have hiss : u.isIssuer = s.isIssuer := hu ▸ heard_isIssuer s p f
  refine ⟨fun hacc his hsrc hmay hnew => ?_, fun hacc hk hl he => ?_, fun hacc his hdep hw => ?_, fun hacc hj hk => ?_⟩
  · refine next_of_accepts_ctl hacc ?_
    rw [← hu]
    have hserve : serveLease u p f.frame.hdr.src f.frame.hdr.job f.frame.hdr.seq =
        sendGrant { takeBlock u with dom := { (takeBlock u).dom with served := (takeBlock u).dom.served ++
          [(f.frame.hdr.src, f.frame.hdr.job, f.frame.hdr.seq, u.dom.nextTicket)] } }
          p f.frame.hdr.src f.frame.hdr.job f.frame.hdr.seq u.dom.nextTicket := by
      have hother : (f.frame.hdr.src != s.dom.deviceId) = true := by simpa using hsrc
      have hdev : (takeBlock u).dom.deviceId = s.dom.deviceId := by rw [takeBlock_deviceId, hdom]
      simp only [serveLease, hdom, hother, Bool.true_and, hnew, hmay, if_true, hdev, if_neg hsrc]
    simp only [hiss, his, if_true, hserve, hdom]
  · refine next_of_accepts_ctl hacc ?_
    rw [← hu]
    have hmine : (u.leases.contains (f.frame.hdr.job, f.frame.hdr.seq) && u.engOf f.frame.hdr.job == peEng p) = true := by
      rw [hl, he, beq_self_eq_true, Bool.and_self]
    simp only [hdom, hk, bne_self_eq_false, Bool.false_eq_true, if_false, hmine, if_true, grantLocal]
  · refine ⟨_, rfl, next_of_accepts_ctl hacc ?_⟩
    have hdeputy : ((seeTicket u f.frame.hdr.ticket).isIssuer &&
        (seeTicket u f.frame.hdr.ticket).dom.deputies.contains f.frame.hdr.src) = true := by
      rw [Bool.and_eq_true]
      exact ⟨hiss.trans his, (congrArg (fun m : Domain => m.deputies.contains f.frame.hdr.src) hdom).trans hdep⟩
    rw [← hu]
    simp only [hdeputy, if_true]
    simp only [serveWaiting, seeTicket, hdom, hw, List.foldl_nil]
  · refine ⟨_, rfl, next_of_accepts_ctl hacc ?_⟩
    have hj' : (seeTicket u f.frame.hdr.ticket).dom.join = true := by simp only [seeTicket, hdom, hj]
    have hk' : (f.frame.hdr.src == (seeTicket u f.frame.hdr.ticket).dom.keystone) = false := by
      simpa [seeTicket, hdom] using hk
    rw [← hu]
    simp only [hj', hk', Bool.not_true, Bool.or_self, Bool.false_eq_true, if_false]

end Sys2Proof.Laws
end

section
/-! The table of links is sparse: a link that becomes the default loses its entry. In a table that lists one PE twice the second
entry then stands for the link, so an arriving frame that clears the last lost device of a link can find another one there. -/

namespace Sys2Proof.Machine

/-- The link of PE 0 that is read first: device 7 is marked lost, and nothing is present. -/
def lostLink : Link := { lost := [7] }

/-- The entry behind it: a present group of devices 0 and 7, with frame 1 next from device 7. -/
def hiddenLink : Link := { insts := [{ members := [0, 7] }], rx := [{ src := 7, expect := 1 }] }

/-- PE 0 runs, its table of links lists it twice, and device 7 has a VALID entry. -/
def twiceListed : State := { State.reset with
  engines := [(96, { st := .on, linkEn := true })], links := [(0, lostLink), (0, hiddenLink)], mem := [(0xE7, 0x80)] }

/-- Frame 0 of device 7. -/
def frameOf7 : RxFrame := { frame := { hdr := { ftype := 0, src := 7 } } }

/-- PROTO of PE 0 after a row (Table 16.6). -/
def protoAfter : Host.Outcome State Fault Refusal → Nat
  | .next t => (t.link 0).cnt.proto
  | _ => 0

end Sys2Proof.Machine

namespace Sys2Proof.Laws
open Sys2Proof Sys2Proof.Machine

/-- Refutes O32: no table of links is excluded, and in `twiceListed` nothing is present on the link as it stands, so that the
frame would have to count in PROTO; but with the lost mark of its sender cleared the entry behind that link is read, where the
frame is a duplicate. -/
theorem not_dataFrames : ¬ Obligations.DataFrames := by
  intro h
  have hacc : Accepts twiceListed 0 0 frameOf7 := by decide
  have hnone : (twiceListed.link 0).inst? 0 0 = none := by decide
  obtain ⟨habsent, -⟩ := h 0 frameOf7 twiceListed _ _ _ _ rfl hacc rfl rfl rfl
  have hrow := (habsent hnone).2 (by decide) (by decide)
  exact absurd (congrArg protoAfter hrow) (by decide)

end Sys2Proof.Laws
end

section
/-! The timers of the streams, of the link and of the domain, and the events of the link itself (R250, R252 to R255, R258 to
R265). -/

namespace Sys2Proof.Machine

theorem Link.rx?_fields {l : Link} {j t d : Nat} {r : RxStream} (h : l.rx? j t d = some r) :
    r.job = j ∧ r.ticket = t ∧ r.src = d := by
  have hfound := List.find?_some h
  simp only [Bool.and_eq_true, beq_iff_eq] at hfound
  exact ⟨hfound.1.1, hfound.1.2, hfound.2⟩

theorem timerRuns_of {s : State} {p : Nat} (hlive : linkLive s p = true) (hhold : (s.eng (peEng p)).holding = false) :
    timerRuns s p = true := by
  simp [timerRuns, hlive, hhold]

theorem streamPermitted_of {s : State} {p : Nat} {r : RxStream} {i : Inst}
    (hi : (s.link p).inst? r.job r.ticket = some i) (hp : (s.link p).permitted r.ticket = true) :
    streamPermitted s p r = true := by
  simp [streamPermitted, hi, hp]

/-- R252, R253 with log 16: the CREDIT of a stream whose group is present. -/
theorem sendCredit_of_present {s : State} {p : Nat} {r : RxStream} {i : Inst}
    (hi : (s.link p).inst? r.job r.ticket = some i) :
    sendCredit s p r = sendFrame (s.modLink p (fun l => l.setRx { r with sent := r.limit })) p
      { hdr := { ctrlHdr s 3 r.src with
          job := r.job, ticket := r.ticket, seq := r.limit
          flags := if 4 < streamShare s p i r.src then 32 else 0
          bucket := if 4 < streamShare s p i r.src then i.low else 0 } } := by
  simp only [sendCredit, hi, Option.map_some, Option.getD_some, decide_eq_true_eq]
  rfl

theorem SameSetup.foldl {α : Type} {f : State → α → State} (hf : ∀ s x, SameSetup s (f s x)) (s : State) (l : List α) :
    SameSetup s (l.foldl f s) := by
  induction l generalizing s with
  | nil => exact .rfl' s
  | cons x r ih => exact (hf s x).trans' (ih _)

/-- A loss leaves what software set up. -/
theorem sameSetup_loseInstances (s : State) (p dev : Nat) : SameSetup s (loseInstances s p dev) := by
  unfold loseInstances
  refine .foldl (fun s i => ?_) s _
  exact .foldl (fun s (x : Nat × Desc) => (EndsOnly.endDesc s x.1 x.2.seq _).setup) s _

theorem execCreditDelay_of_rx {s : State} {p job ticket dev : Nat} {r : RxStream}
    (hr : (s.link p).rx? job ticket dev = some r) :
    exec (.creditDelay p job ticket dev) s =
      .next (if (timerRuns s p && streamPermitted s p r && r.limit != r.sent) = true then sendCredit s p r else s) := by
  change execCreditDelay p job ticket dev s = _
  simp only [execCreditDelay, hr]

theorem execCreditRepeat_of_rx {s : State} {p job ticket dev : Nat} {r : RxStream}
    (hr : (s.link p).rx? job ticket dev = some r) :
    exec (.creditRepeat p job ticket dev) s =
      .next (if (timerRuns s p && streamPermitted s p r && before16 r.expect r.limit) = true then sendCredit s p r else s) := by
  change execCreditRepeat p job ticket dev s = _
  simp only [execCreditRepeat, hr]

end Sys2Proof.Machine

namespace Sys2Proof.Laws
open Sys2Proof Sys2Proof.Machine

/-- Settles O36: each timer's row under its condition. -/
theorem timersSend : Obligations.TimersSend := by
  intro s p dev c q
  refine ⟨fun hj hw hl => ?_, fun hj hl => ?_, fun hj => ⟨?_, ?_⟩, fun hj hm => ?_, fun hl hi => ?_, fun hl => ?_⟩
  · change execHeartbeatTimer p dev s = _
    rw [execHeartbeatTimer, if_pos (by rw [hj, hw, hl]; rfl)]
    rfl
  · change execLostProbe p dev s = _
    rw [execLostProbe, if_pos (by rw [hj, hl]; rfl)]
    rfl
  · change execHeartbeatTimer p dev s = _
    rw [execHeartbeatTimer, if_neg (by simp [hj])]
  · change execLostProbe p dev s = _
    rw [execLostProbe, if_neg (by simp [hj])]
  · change execJoinRetry s = _
    rw [execJoinRetry, if_pos (by rw [hj, hm]; rfl)]
    rfl
  · change execLeaseRetry c q s = _
    rw [execLeaseRetry, if_pos (by rw [hl, hi]; rfl)]
    rfl
  · change execLeaseTimeout c q s = _
    rw [execLeaseTimeout, if_pos hl]
    rfl

/-- Settles O37: each timer's row on the stream it names. -/
theorem streamTimers : Obligations.StreamTimers := by
  intro s p job ticket dev r l hlink hr hlive hhold
  subst hlink
  obtain ⟨rfl, rfl, rfl⟩ := Link.rx?_fields hr
  have hruns := timerRuns_of hlive hhold
  refine ⟨fun howed => ?_, fun i u hi hp hu => ⟨fun hlim => ?_, fun hunused => ?_⟩, fun f rest hun hp => ?_⟩
  · change execAckTimer p r.job r.ticket r.src s = _
    simp only [execAckTimer, hr, hruns, howed, decide_true, Bool.and_self, if_true]
    rfl
  · rw [execCreditDelay_of_rx hr, if_pos, sendCredit_of_present hi, hu]
    simp [hruns, streamPermitted_of hi hp, hlim]
  · rw [execCreditRepeat_of_rx hr, if_pos, sendCredit_of_present hi, hu]
    simp [hruns, streamPermitted_of hi hp, hunused]
  · change execRetransmitTimeout p r.job r.ticket r.src s = _
    have hperm : (s.link p).permitted ((s.link p).txOf r.job r.ticket r.src).ticket = true := by
      rw [Link.txOf_ticket, hp]
    simp only [execRetransmitTimeout, hun, hlive, hhold, Bool.not_false, Bool.and_self, if_true,
      resend_of_permitted hperm]

/-- Settles O38: the rows of a loss, of the link's state and of a pause. -/
theorem linkEvents : Obligations.LinkEvents := by
  refine ⟨fun s u p dev hlive hw hl hu => ?_, fun s p n => ⟨?_, ?_, fun hn => ?_, ?_⟩⟩
  · change execDeclareLost p dev s = _
    have hport : u.kport = s.dom.kport := by
      rw [State.kport, hu, (sameSetup_loseInstances _ p dev).dom]
      rfl
    rw [execDeclareLost, if_pos (by rw [hlive, hw, hl]; rfl), declare, ← hport, hu]
  · rfl
  · rfl
  · change execPauseIn p n true s = _
    simp only [execPauseIn, if_true]
    congr 1
    simp only [State.modLink, hn, Bool.false_eq_true, if_false]
  · change execPauseIn p n false s = _
    simp only [execPauseIn, Bool.false_eq_true, if_false]

end Sys2Proof.Laws
end

section
/-! What the work of a descriptor touches besides memory: its own context, its engine and the requests (R12, R314 to R318). The
start of a descriptor may also write a trace record. -/

namespace Sys2Proof.Machine

/-! ## Counters of a context leave its descriptors and its tiles -/

/-- What the statements follow of a context through its counters. -/
structure Ctx.SameWork (x y : Ctx) : Prop where
  descs : y.descs = x.descs
  live : y.live = x.live
  shadow : y.shadow = x.shadow
  use : y.use = x.use

theorem Ctx.sameWork_count (x : Ctx) (q : Nat) (f : CtxCounters → CtxCounters) : x.SameWork (x.count q f) := by
  unfold Ctx.count
  split
  · exact ⟨rfl, rfl, rfl, rfl⟩
  · split <;> exact ⟨rfl, rfl, rfl, rfl⟩

theorem Ctx.sameWork_issue (x : Ctx) (q : Nat) : x.SameWork (x.issue q) := by
  unfold Ctx.issue
  extract_lets add
  split
  · exact ⟨rfl, rfl, rfl, rfl⟩
  · split <;> exact ⟨rfl, rfl, rfl, rfl⟩

theorem Ctx.sameWork_restart (x : Ctx) (q : Nat) : x.SameWork (x.restart q) := by
  unfold Ctx.restart
  extract_lets fresh
  split
  · exact ⟨rfl, rfl, rfl, rfl⟩
  · split <;> exact ⟨rfl, rfl, rfl, rfl⟩

theorem Ctx.ne_of_descs {x : Ctx} (h : x.descs ≠ []) : x ≠ {} := fun hdef => h (by rw [hdef])

theorem State.descs_ne_nil {s : State} {c q : Nat} {d : Desc} (h : s.desc? c q = some d) : (s.ctx c).descs ≠ [] :=
  List.ne_nil_of_mem (State.desc?_mem h)

/-- Counting in a context leaves every descriptor that it has. -/
theorem State.desc?_modCtx {s : State} {c q : Nat} {d : Desc} {f : Ctx → Ctx} (hf : ∀ x : Ctx, x.SameWork (f x))
    (h : s.desc? c q = some d) : (s.modCtx c f).desc? c q = some d := by
  have hne : (f (s.ctx c)).descs ≠ [] := by rw [(hf _).descs]; exact State.descs_ne_nil h
  rw [State.desc?, State.modCtx, State.ctx_setCtx _ _ _ (Ctx.ne_of_descs hne), (hf _).descs]
  exact h

/-! ## The relation -/

/-- From `s` to `t` at most context `c`, engines, requests and outputs have changed; `P` is the condition under which memory and
the trace stay. -/
structure WorkOnly (P : Prop) (c : Nat) (s t : State) : Prop where
  setup : SameSetup s t
  links : t.links = s.links
  err : t.err = s.err
  quiet : P → t.mem = s.mem ∧ t.trace = s.trace
  own : (s.ctx c).descs ≠ [] →
    (t.ctx c).descs ≠ [] ∧ (t.ctx c).live = (s.ctx c).live ∧ (t.ctx c).shadow = (s.ctx c).shadow ∧
      (t.ctx c).use = (s.ctx c).use
  other : (s.ctx c).descs ≠ [] → ∀ x, x ≠ c → t.ctx x = s.ctx x

namespace WorkOnly

variable {P : Prop} {c : Nat}

theorem rfl' (s : State) : WorkOnly P c s s := ⟨.rfl' s, rfl, rfl, fun _ => ⟨rfl, rfl⟩, fun h => ⟨h, rfl, rfl, rfl⟩, fun _ _ _ => rfl⟩

theorem trans' {s t u : State} (h : WorkOnly P c s t) (k : WorkOnly P c t u) : WorkOnly P c s u where
  setup := h.setup.trans' k.setup
  links := k.links.trans h.links
  err := k.err.trans h.err
  quiet := fun hp => ⟨(k.quiet hp).1.trans (h.quiet hp).1, (k.quiet hp).2.trans (h.quiet hp).2⟩
  own := fun hs => by
    obtain ⟨hd, hlive, hshadow, huse⟩ := h.own hs
    obtain ⟨kd, klive, kshadow, kuse⟩ := k.own hd
    exact ⟨kd, klive.trans hlive, kshadow.trans hshadow, kuse.trans huse⟩
  other := fun hs x hx => (k.other (h.own hs).1 x hx).trans (h.other hs x hx)

theorem mem {s t : State} (h : WorkOnly P c s t) (hp : P) : t.mem = s.mem := (h.quiet hp).1
theorem trace {s t : State} (h : WorkOnly P c s t) (hp : P) : t.trace = s.trace := (h.quiet hp).2

/-- Under a condition that implies another. -/
theorem under {Q : Prop} {s t : State} (h : WorkOnly P c s t) (hpq : Q → P) : WorkOnly Q c s t :=
  ⟨h.setup, h.links, h.err, h.quiet ∘ hpq, h.own, h.other⟩

theorem ofEng {s t : State} (h : EngOnly s t) : WorkOnly P c s t where
  setup := h.setup
  links := h.links
  err := h.err
  quiet := fun _ => ⟨h.mem, h.trace⟩
  own := fun hs => by rw [h.ctx]; exact ⟨hs, rfl, rfl, rfl⟩
  other := fun _ x _ => h.ctx x

/-- The same memory written before and after. -/
theorem setMem {s t : State} (h : WorkOnly P c s t) (m : Mem) : WorkOnly P c (s.setMem m) (t.setMem m) where
  setup := ⟨h.setup.pins, h.setup.time, h.setup.img, h.setup.pwr, h.setup.epoch, h.setup.coreWeight, h.setup.groupBase,
    h.setup.dom, h.setup.windows, h.setup.pds, h.setup.inlines, h.setup.samp, h.setup.testRegs⟩
  links := h.links
  err := h.err
  quiet := fun hp => ⟨rfl, h.trace hp⟩
  own := h.own
  other := h.other

theorem modCtx (s : State) {f : Ctx → Ctx} (hd : ∀ x : Ctx, x.descs ≠ [] → (f x).descs ≠ [])
    (hf : ∀ x : Ctx, (f x).live = x.live ∧ (f x).shadow = x.shadow ∧ (f x).use = x.use) : WorkOnly P c s (s.modCtx c f) where
  setup := ⟨rfl, rfl, rfl, rfl, rfl, rfl, rfl, rfl, rfl, rfl, rfl, rfl, rfl⟩
  links := rfl
  err := rfl
  quiet := fun _ => ⟨rfl, rfl⟩
  own := fun hs => by
    have hread : (s.modCtx c f).ctx c = f (s.ctx c) := State.ctx_setCtx _ _ _ (Ctx.ne_of_descs (hd _ hs))
    rw [hread]
    exact ⟨hd _ hs, hf _⟩
  other := fun hs _ hx => State.ctx_setCtx_other _ _ _ _ (Ctx.ne_of_descs (hd _ hs)) hx

theorem modCtx_sameWork (s : State) {f : Ctx → Ctx} (hf : ∀ x : Ctx, x.SameWork (f x)) : WorkOnly P c s (s.modCtx c f) :=
  modCtx s (fun x hx => by rw [(hf x).descs]; exact hx) (fun x => ⟨(hf x).live, (hf x).shadow, (hf x).use⟩)

theorem modDesc (s : State) (q : Nat) (f : Desc → Desc) : WorkOnly P c s (s.modDesc c q f) :=
  modCtx s (fun _ hx hnil => hx (List.map_eq_nil_iff.1 hnil)) (fun _ => ⟨rfl, rfl, rfl⟩)

theorem countIn (s : State) (e q w n : Nat) : WorkOnly P c s (countIn s e (some (c, q)) w n) :=
  (ofEng (.modEng s e _)).trans' (modCtx_sameWork _ (fun x => x.sameWork_count q _))

theorem countOut (s : State) (e q w n : Nat) : WorkOnly P c s (countOut s e (some (c, q)) w n) :=
  (ofEng (.modEng s e _)).trans' (modCtx_sameWork _ (fun x => x.sameWork_count q _))

theorem countIssue (s : State) (q : Nat) : WorkOnly P c s (countIssue s c q) :=
  (ofEng (.modEng s _ _)).trans' (modCtx_sameWork _ (fun x => x.sameWork_issue q))

/-- What an emitted trace record leaves, where nothing depends on memory and the trace. -/
theorem ofSend {s t : State} (h : SendOnly s t) (hl : t.links = s.links) (hp : P → s.trace.on = false) :
    WorkOnly P c s t where
  setup := h.setup
  links := hl
  err := h.err
  quiet := fun hq => ⟨(h.quiet (hp hq)).1, (h.quiet (hp hq)).2.2⟩
  own := fun hs => by rw [h.ctx]; exact ⟨hs, rfl, rfl, rfl⟩
  other := fun _ x _ => h.ctx x

/-- The start of a descriptor: with the trace off, or where it has started, memory and the trace stay (R318). -/
theorem startDesc (s : State) (d : Desc) :
    WorkOnly (d.started = true ∨ s.trace.on = false) c s (startDesc s c d) := by
  by_cases hs : d.started = true
  · rw [Machine.startDesc, if_pos hs]
    exact rfl' s
  · rw [Machine.startDesc, if_neg hs]
    extract_lets u
    have hu : WorkOnly (d.started = true ∨ s.trace.on = false) c s u := modDesc s d.seq _
    refine (hu.trans' (modCtx_sameWork u (fun x => x.sameWork_restart d.seq))).trans' ?_
    have htrace := traceOnly_traceEmitAt (u.modCtx c (·.restart d.seq)) u.time (u.engOf c) 1 1
      (place d.seq 16 176 + place c 12 164 + place d.op 8 156 + place d.count 40 108 + place d.job 12 96 +
        place (if (decide (d.op = opCOLLECTIVE) || decide (d.op = opREBOND)) = true then bits (d.p 0) 47 0 else 0) 48 48)
    exact ofSend htrace.send htrace.links (fun h => h.resolve_left hs)

end WorkOnly

/-! ## Work that issues -/

theorem desc?_countIn {s : State} {c q : Nat} {d : Desc} (h : s.desc? c q = some d) (e p w n : Nat) :
    (countIn s e (some (c, p)) w n).desc? c q = some d :=
  State.desc?_modCtx (fun x => x.sameWork_count p _) h

theorem desc?_countOut {s : State} {c q : Nat} {d : Desc} (h : s.desc? c q = some d) (e p w n : Nat) :
    (countOut s e (some (c, p)) w n).desc? c q = some d :=
  State.desc?_modCtx (fun x => x.sameWork_count p _) h

theorem desc?_countIssue {s : State} {c q : Nat} {d : Desc} (h : s.desc? c q = some d) (p : Nat) :
    (countIssue s c p).desc? c q = some d :=
  State.desc?_modCtx (fun x => x.sameWork_issue p) h

/-- A descriptor that is started reads back as started. -/
theorem desc?_startDesc {s : State} {c : Nat} {d : Desc} (h : s.desc? c d.seq = some d) :
    (startDesc s c d).desc? c d.seq = some { d with started := true } := by
  by_cases hs : d.started = true
  · rw [startDesc, if_pos hs, h, ← hs]
  · exact (startDesc_facts h (by simpa using hs)).1

section Issue
variable {s : State} {c : Nat} {d : Desc} (h : s.desc? c d.seq = some d) (l : List Acc)
include h

theorem issueWork_eq : issueWork s c d l = countIssue (startDesc (postReads s c l) c d) c d.seq := by
  rw [issueWork, State.desc_of h]

theorem WorkOnly.issueWork : WorkOnly (d.started = true ∨ s.trace.on = false) c s (issueWork s c d l) := by
  have hreads := EngOnly.postReads s c l
  rw [issueWork_eq h]
  refine (ofEng hreads).trans' (WorkOnly.trans' ?_ (countIssue _ _))
  exact (WorkOnly.startDesc _ d).under (fun hp => by rw [hreads.trace]; exact hp)

theorem desc?_issueWork : (issueWork s c d l).desc? c d.seq = some { d with started := true } := by
  rw [issueWork_eq h]
  exact desc?_countIssue (desc?_startDesc (((EngOnly.postReads s c l).desc? c d.seq).trans h)) _

end Issue

end Sys2Proof.Machine
end

section
/-! A bucket that issues (R236, R237), and the chains that a member starts (R224, R238). -/

namespace Sys2Proof.Machine

/-! ## Receive streams -/

namespace Link

theorem rx?_setRx_isSome (l : Link) (v : RxStream) {j t d : Nat} (h : (l.rx? j t d).isSome = true) :
    ((l.setRx v).rx? j t d).isSome = true := by
  simp only [rx?, List.find?_isSome] at h ⊢
  obtain ⟨r, hr, hkey⟩ := h
  unfold setRx
  split
  · by_cases hv : r.job = v.job ∧ r.ticket = v.ticket ∧ r.src = v.src
    · refine ⟨v, List.mem_map.2 ⟨r, hr, ?_⟩, ?_⟩
      · simp [hv]
      · obtain ⟨hj, ht, hs⟩ := hv
        rw [← hj, ← ht, ← hs]
        exact hkey
    · refine ⟨r, List.mem_map.2 ⟨r, hr, ?_⟩, hkey⟩
      simp [hv, and_assoc]
  · exact ⟨r, List.mem_append_left _ hr, hkey⟩

theorem rx?_setRx_self (l : Link) (v : RxStream) : ((l.setRx v).rx? v.job v.ticket v.src).isSome = true := by
  by_cases h : (l.rx? v.job v.ticket v.src).isSome = true
  · exact rx?_setRx_isSome l v h
  · rw [setRx, if_neg h, rx?, List.find?_isSome]
    exact ⟨v, List.mem_append_right _ (List.mem_singleton_self v), by simp⟩

theorem setRx_tx (l : Link) (v : RxStream) : (l.setRx v).tx = l.tx := by
  unfold setRx
  split <;> rfl

theorem setRx_insts (l : Link) (v : RxStream) : (l.setRx v).insts = l.insts := by
  unfold setRx
  split <;> rfl

/-- A receive stream from a device, kept where the link has it already (R237). -/
def openRx (j t : Nat) (l : Link) (u : Nat) : Link :=
  if (l.rx? j t u).isSome then l else l.setRx { job := j, ticket := t, src := u }

theorem openRx_isSome {j t : Nat} (l : Link) (u : Nat) {d : Nat} (h : (l.rx? j t d).isSome = true ∨ d = u) :
    ((l.openRx j t u).rx? j t d).isSome = true := by
  unfold openRx
  split
  · next hu =>
    rcases h with h | rfl
    · exact h
    · exact hu
  · rcases h with h | rfl
    · exact rx?_setRx_isSome l _ h
    · exact rx?_setRx_self l { job := j, ticket := t, src := d }

theorem openRx_tx_insts (j t : Nat) (l : Link) (u : Nat) : (l.openRx j t u).tx = l.tx ∧ (l.openRx j t u).insts = l.insts := by
  unfold openRx
  split
  · exact ⟨rfl, rfl⟩
  · exact ⟨setRx_tx l _, setRx_insts l _⟩

theorem foldl_openRx_tx_insts (j t : Nat) (us : List Nat) (l : Link) :
    (us.foldl (openRx j t) l).tx = l.tx ∧ (us.foldl (openRx j t) l).insts = l.insts := by
  induction us generalizing l with
  | nil => exact ⟨rfl, rfl⟩
  | cons u us ih =>
    obtain ⟨htx, hinsts⟩ := openRx_tx_insts j t l u
    rw [List.foldl_cons, (ih _).1, (ih _).2]
    exact ⟨htx, hinsts⟩

theorem foldl_openRx_isSome {j t d : Nat} (us : List Nat) (l : Link) (h : (l.rx? j t d).isSome = true ∨ d ∈ us) :
    ((us.foldl (openRx j t) l).rx? j t d).isSome = true := by
  induction us generalizing l with
  | nil => exact h.resolve_right List.not_mem_nil
  | cons u us ih =>
    refine ih _ ?_
    rcases h with h | h
    · exact .inl (openRx_isSome l u (.inl h))
    · rcases List.mem_cons.1 h with h | h
      · exact .inl (openRx_isSome l u (.inr h))
      · exact .inr h

end Link

/-! ## A bucket issues -/

theorem SameSetup.setMem (s : State) (m : Mem) : SameSetup s (s.setMem m) :=
  ⟨rfl, rfl, rfl, rfl, rfl, rfl, rfl, rfl, rfl, rfl, rfl, rfl, rfl⟩


/-- The announcements go out under the domain words as they stand (R237, Table 12.4). -/
theorem foldl_sendFrame_announce {s : State} (p : Nat) (d : Desc) (up : List Nat) {w : State} (hdom : w.dom = s.dom) :
    up.foldl (fun w u => sendFrame w p (announceFrame w d u)) w =
      up.foldl (fun w u => sendFrame w p (announceFrame s d u)) w := by
  induction up generalizing w with
  | nil => rfl
  | cons u up ih =>
    have hframe : announceFrame w d u = announceFrame s d u := by simp only [announceFrame, ownHdr, hdom]
    rw [List.foldl_cons, List.foldl_cons, hframe, ih ((SendOnly.sendFrame w p _).setup.dom.trans hdom)]

/-- An all-to-all of no elements writes its counts, and nothing else (R234, R365). -/
theorem engOnly_zeroCounts (s : State) (c : Nat) (d : Desc) :
    EngOnly (s.setMem (if d.kind = 5 ∧ d.count = 0 then
      Mem.wrBytes s.mem (s.addrOf d.dwin d.doff) (List.replicate (4 * d.cn) 0) else s.mem)) (zeroCounts s c d) := by
  unfold zeroCounts
  by_cases h : d.kind = 5 ∧ d.count = 0
  · rw [if_pos h, if_pos (by simpa using h)]
    exact EngOnly.postWrites _ _ _ _
  · rw [if_neg h, if_neg (by simpa using h)]
    exact .rfl' s

/-- A bucket that may issue has its group present on the link. -/
theorem insts_ne_nil_of_mayIssue {s : State} {p c : Nat} {d : Desc} (h : bucketMayIssue s p c d = true) :
    (s.link p).insts ≠ [] := by
  unfold bucketMayIssue at h
  split at h
  · cases h
  · next i hi => exact List.ne_nil_of_mem (List.mem_of_find?_eq_some hi)

/-- The state in which the announcements of a bucket go out: its descriptor is OPEN and the receive streams stand. -/
def bucketOpened (s : State) (p c : Nat) (d : Desc) : State :=
  ((zeroCounts s c d).modDesc c d.seq (fun d => { d with coll := { d.coll with phase := 1 } })).modLink p (fun l =>
    (d.upstream.map (fun k => nth d.coll.members k 0)).foldl (Link.openRx d.job d.ticket) l)

section Opened
variable {s : State} {p c : Nat} {d : Desc} (hd : s.desc? c d.seq = some d)
include hd

theorem desc?_zeroCounts : (zeroCounts s c d).desc? c d.seq = some d :=
  ((engOnly_zeroCounts s c d).desc? c d.seq).trans hd

theorem desc?_bucketOpened :
    (bucketOpened s p c d).desc? c d.seq = some { d with coll := { d.coll with phase := 1 } } :=
  State.desc?_modDesc (fun d => { d with coll := { d.coll with phase := 1 } }) (desc?_zeroCounts hd) rfl

/-- R237: the row of a bucket that may issue. -/
theorem exec_bucketIssue_of_mayIssue (hpe : isPe (s.engOf c) = true) (hp : p = s.engOf c - 96)
    (hmay : bucketMayIssue s p c d = true) :
    exec (.bucketIssue c d.seq) s = .next (workLink ((d.upstream.map (fun k => nth d.coll.members k 0)).foldl (fun w m =>
      sendFrame w p (announceFrame s d m)) (bucketOpened s p c d)) p) := by
  have hopen : (((zeroCounts s c d).modDesc c d.seq (fun d => { d with coll := { d.coll with phase := 1 } })).desc c d.seq) =
      { d with coll := { d.coll with phase := 1 } } := State.desc_of (desc?_bucketOpened (p := p) hd)
  have hdom : (bucketOpened s p c d).dom = s.dom := (engOnly_zeroCounts s c d).setup.dom
  change execBucketIssue c d.seq s = _
  simp only [execBucketIssue, hd, ← hp, hpe, hmay, Bool.and_self, if_true]
  rw [← foldl_sendFrame_announce p d _ hdom]
  simp only [openBucket, hopen]
  rfl

end Opened

/-! ## Chains -/

/-- Output elements noted leave the slot of a descriptor and the chains it has started. -/
theorem Desc.noteRun_started (d : Desc) (f : FmtW) (idx : Nat) (run : WChunk) (evs : List Ev) (rs : Option Nat) :
    (d.noteRun f idx run evs rs).coll.started = d.coll.started ∧ (d.noteRun f idx run evs rs).seq = d.seq := by
  have hfold : ∀ (l : List Nat) (x : Desc), (l.foldl (fun x j =>
      x.note (idx + j) { nth evs j Ev.none with nf := run.nonfinite f j }) x).coll = x.coll ∧
      (l.foldl (fun x j => x.note (idx + j) { nth evs j Ev.none with nf := run.nonfinite f j }) x).seq = x.seq := by
    intro l
    induction l with
    | nil => exact fun x => ⟨rfl, rfl⟩
    | cons j l ih => exact fun x => ih _
  unfold noteRun
  extract_lets e
  have he : e.coll.started = d.coll.started ∧ e.seq = d.seq := ⟨congrArg _ (hfold _ d).1, (hfold _ d).2⟩
  split <;> exact he

/-- The rank after the member's, with and without a group of one in mind: an empty group names no device. -/
theorem nth_next_rank (d : Desc) :
    nth d.coll.members ((d.cr + 1) % max 1 d.cn) 0 = nth d.coll.members ((d.cr + 1) % d.cn) 0 := by
  by_cases h : d.cn = 0
  · have hnil : d.coll.members = [] := List.length_eq_zero_iff.1 h
    simp [hnil, nth]
  · rw [show max 1 d.cn = d.cn by omega]

theorem mayStart_next_rank (s : State) (p : Nat) (d : Desc) (dist : Bool) :
    mayStart s p d ((d.cr + 1) % max 1 d.cn) dist = mayStart s p d ((d.cr + 1) % d.cn) dist := by
  simp only [mayStart, mayForward, announced, nth_next_rank]

/-- The state in which a chain that may start does its work: its descriptor has issued, the chain is marked as started, and its
elements are counted as read (R224, R314). -/
def chainBegun (s : State) (p c : Nat) (d : Desc) (own : List Acc) (k len : Nat) : State :=
  countIn (markStarted (issueWork s c d own) c d.seq k) (peEng p) (some (c, d.seq)) d.sfmt.fmt.w len

section Chains
variable {s : State} {p c k : Nat} {d : Desc} (hd : s.desc? c d.seq = some d)
include hd

theorem workOnly_chainBegun (own : List Acc) (len : Nat) :
    WorkOnly (d.started = true ∨ s.trace.on = false) c s (chainBegun s p c d own k len) :=
  ((WorkOnly.issueWork hd own).trans' (.modDesc _ _ _)).trans' (.countIn _ _ _ _ _)

theorem desc?_chainBegun (own : List Acc) (len : Nat) :
    (chainBegun s p c d own k len).desc? c d.seq =
      some { d with started := true, coll := { d.coll with started := d.coll.started ++ [k] } } :=
  desc?_countIn (State.desc?_modDesc (fun d => { d with coll := { d.coll with started := d.coll.started ++ [k] } })
    (desc?_issueWork hd own) rfl) _ _ _ _

end Chains

/-- Frames handed to a stream wait behind those that wait there. -/
theorem waiting_queueFrames (s : State) (p job ticket dst : Nat) (l : List Frame) :
    (((queueFrames s p job ticket dst l).link p).txOf job ticket dst).waiting =
      ((s.link p).txOf job ticket dst).waiting ++ l := by
  have hlink : (queueFrames s p job ticket dst l).link p = (s.link p).setTx { (s.link p).txOf job ticket dst with
      waiting := ((s.link p).txOf job ticket dst).waiting ++ l } :=
    State.link_modLink (Link.ne_of_tx (Link.setTx_tx_ne_nil _ _))
  rw [hlink]
  obtain ⟨hj, ht, hd⟩ : _ ∧ _ ∧ _ := ⟨(s.link p).txOf_job job ticket dst, (s.link p).txOf_ticket job ticket dst,
    (s.link p).txOf_dst job ticket dst⟩
  generalize (s.link p).txOf job ticket dst = t at hj ht hd
  subst hj ht hd
  exact congrArg TxStream.waiting (Link.txOf_setTx (s.link p) { t with waiting := t.waiting ++ l })

/-- What the frames of a chunk take from the state: the domain words of their headers. -/
theorem chunkFrames_of_dom {s t : State} (h : t.dom = s.dom) (d : Desc) (dst : Nat) (dist : Bool) (chunk course : Nat)
    (rescale : Bool) (run : WChunk) :
    chunkFrames t d dst dist chunk course rescale run = chunkFrames s d dst dist chunk course rescale run := by
  simp only [chunkFrames, dataFrame, ownHdr, h]

/-- Frames that go to a rank wait in its stream; the descriptor keeps what its bucket knows. -/
theorem sendRun_facts {s : State} {p c : Nat} {d x : Desc} (hx : s.desc? c d.seq = some x) (rank : Nat) (l : List Frame) :
    (sendRun s p c d rank l).desc? c d.seq = some x ∧ SameSetup s (sendRun s p c d rank l) ∧
      (sendRun s p c d rank l).mem = s.mem ∧
      (((sendRun s p c d rank l).link p).txOf d.job d.ticket (nth d.coll.members rank 0)).waiting =
        ((s.link p).txOf d.job d.ticket (nth d.coll.members rank 0)).waiting ++ l := by
  unfold sendRun
  extract_lets u
  have hu : SameSetup s u ∧ u.mem = s.mem ∧ u.desc? c d.seq = some x :=
    ⟨⟨rfl, rfl, rfl, rfl, rfl, rfl, rfl, rfl, rfl, rfl, rfl, rfl, rfl⟩, rfl, hx⟩
  have hcount := WorkOnly.countOut (P := True) (c := c) u (peEng p) d.seq
    ((l.head?.map (fun f => (fmtD f.hdr.pfmt).w)).getD 8)
    (l.foldl (fun a f => a + 8 * (f.hdr.plen - f.hdr.mlen - f.hdr.qlen) / max 1 (fmtD f.hdr.pfmt).w) 0)
  refine ⟨desc?_countOut hu.2.2 _ _ _ _, hu.1.trans' hcount.setup, (hcount.mem trivial).trans hu.2.1, ?_⟩
  rw [State.link, hcount.links]
  exact waiting_queueFrames s p d.job d.ticket _ l

/-- Output elements written: memory, the noted events, and the requests. -/
theorem writeRunAt_facts {s : State} {c : Nat} {d x : Desc} (hx : s.desc? c d.seq = some x) (t : Tensor) (lo : Nat)
    (run : WChunk) (evs : List Ev) (rs : Option Nat) :
    (writeRunAt s c d t lo run evs rs).desc? c d.seq = some (x.noteRun t.f lo run evs rs) ∧
      WorkOnly True c (s.setMem (writeRaw s.mem t lo run)) (writeRunAt s c d t lo run evs rs) := by
  unfold writeRunAt
  extract_lets u v w
  have hv : v.desc? c d.seq = some (x.noteRun t.f lo run evs rs) :=
    State.desc?_modDesc (s := u) (·.noteRun t.f lo run evs rs) hx
      ((x.noteRun_started t.f lo run evs rs).2.trans (State.desc?_seq hx))
  have hposts := EngOnly.postWrites w c d.seq (d.dstRun lo run.codes.length)
  refine ⟨(hposts.desc? c d.seq).trans (desc?_countOut hv _ _ _ _), ?_⟩
  exact ((WorkOnly.modDesc u d.seq _).trans' (.countOut v _ _ _ _)).trans' (.ofEng hposts)

section Starting
variable {s : State} {p c k nx : Nat} {d : Desc} {r : Nat × Nat} (hd : s.desc? c d.seq = some d) (hover : d.over = false)
  (hcn : d.cn ≠ 1) (hnx : nx = (d.cr + 1) % d.cn) (hr : r = d.chainRange d.cn k)
include hd hover hcn hnx hr

/-- R224, R238: the first course of a chain of a reduce kind. -/
theorem startChain_reduce (hkind : d.kind = 0 ∨ d.kind = 2) (hmay : mayStart s p d nx false = true)
    (hheld : HeldAll s d (d.srcRun (d.srcIx d.cn d.cr r.1) r.2)) (w : State)
    (hw : w = chainBegun s p c d (d.srcRun (d.srcIx d.cn d.cr r.1) r.2) k r.2) :
    startChain s p c d k = sendRun w p c d ((d.cr + 1) % max 1 d.cn)
      (chunkFrames w d (nth d.coll.members nx 0) false k 0 false (courseFirst w d d.cn d.cr r.1 r.2)) := by
  have hred : (decide (d.kind = 0) || decide (d.kind = 2)) = true := by simpa using hkind
  subst hnx hr hw
  simp only [startChain, hred, Bool.not_true, mayStart_next_rank, hmay, Bool.and_false, Bool.false_eq_true, if_false, hcn,
    decide_false, Bool.or_self, List.append_nil, gate_held hd hover hheld, if_true, nth_next_rank, chainBegun]

/-- R224, R238: a chain of a distribution kind at its origin. -/
theorem startChain_distribute (hkind : d.kind = 1 ∨ d.kind = 3 ∨ d.kind = 4) (hmay : mayStart s p d nx true = true)
    (own : List Acc) (hown : own = d.srcRun (d.srcIx d.cn d.cr r.1) r.2 ++ d.dstRun (d.dstIx d.cn d.cr r.1) r.2)
    (hheld : HeldAll s d own) (w : State) (hw : w = chainBegun s p c d own k r.2) (o : RunOut)
    (ho : o = originRun w d d.cn d.cr r.1 r.2) (v : State)
    (hv : v = writeRunAt w c d (d.collDst w d.cn) (d.dstIx d.cn d.cr r.1) o.run o.evs none) :
    startChain s p c d k = sendRun v p c d ((d.cr + 1) % max 1 d.cn)
      (chunkFrames v d (nth d.coll.members nx 0) true k 1 false o.run) := by
  have hred : (decide (d.kind = 0) || decide (d.kind = 2)) = false := by
    rcases hkind with h | h | h <;> simp [h]
  subst hnx hr hv ho hw hown
  simp only [startChain, hred, Bool.not_false, mayStart_next_rank, hmay, Bool.not_true, Bool.and_false, Bool.false_eq_true,
    if_false, hcn, decide_false, Bool.or_true, if_true, gate_held hd hover hheld, nth_next_rank, chainBegun]

end Starting

/-- The row of a chain that may start. -/
theorem exec_chainStart_of_works {s : State} {p c k : Nat} {d : Desc} (hd : s.desc? c d.seq = some d)
    (hpe : isPe (s.engOf c) = true) (hp : p = s.engOf c - 96) (hworks : bucketWorks s p c d = true)
    (hstarts : d.starts.contains k = true) (hnew : d.coll.started.contains k = false) :
    exec (.chainStart c d.seq k) s = .next (workLink (if d.kind = 6 then startPiece s p c d k
      else if d.kind = 5 then startSegment s p c d k else startChain s p c d k) p) := by
  change execChainStart c d.seq k s = _
  simp only [execChainStart, hd, hpe, if_true, ← hp, startUnit, hworks, hstarts, hnew, Bool.not_false, Bool.and_self]

theorem over_of_bucketWorks {s : State} {p c : Nat} {d : Desc} (h : bucketWorks s p c d = true) : d.over = false := by
  simp only [bucketWorks, Bool.and_eq_true, Bool.not_eq_true'] at h
  exact h.1.1.1.2

end Sys2Proof.Machine

namespace Sys2Proof.Laws
open Sys2Proof Sys2Proof.Machine

/-- Settles O35: the row of a bucket that may issue, and the row of a chain that may start, kind by kind. -/
theorem bucketsAndChains : Obligations.BucketsAndChains := by
  intro c q p s d hd hpe hp
  obtain rfl := State.desc?_seq hd
  refine ⟨fun hmay => ?_, fun k nx dest r hworks hstarts hnew hquiet hcn hnx hdest hr => ⟨fun hkind hroom hheld => ?_,
    fun hkind hroom hheld => ?_⟩, fun k hworks hstarts hnew => ⟨fun hkind => ?_, fun hkind => ?_⟩⟩
  · have hzero := engOnly_zeroCounts s c d
    have hlink : (bucketOpened s p c d).link p =
        (d.upstream.map (fun k => nth d.coll.members k 0)).foldl (Link.openRx d.job d.ticket) (s.link p) := by
      have hsame : ((zeroCounts s c d).modDesc c d.seq (fun d => { d with coll := { d.coll with phase := 1 } })).link p =
          s.link p := by
        change SMap.get (zeroCounts s c d).links {} p = _
        rw [hzero.links]
        rfl
      rw [← hsame]
      refine State.link_modLink fun hdef => insts_ne_nil_of_mayIssue hmay ?_
      rw [← hsame, ← (Link.foldl_openRx_tx_insts d.job d.ticket _ _).2, hdef]
    have hopened : SameSetup s (bucketOpened s p c d) :=
      ((SameSetup.setMem s _).trans' hzero.setup).trans' ((SameSetup.modDesc _ _ _ _).trans' (SendOnly.modLink _ p _).setup)
    refine ⟨bucketOpened s p c d, exec_bucketIssue_of_mayIssue hd hpe hp hmay, desc?_bucketOpened hd,
      hopened,
      hzero.err, hzero.trace, ?_, ?_, fun x hx => ?_, fun x hx => ?_, hzero.mem⟩
    · rw [hlink, (Link.foldl_openRx_tx_insts _ _ _ _).1]
    · rw [hlink, (Link.foldl_openRx_tx_insts _ _ _ _).2]
    · exact (modDesc_other (desc?_zeroCounts hd) hx).trans (hzero.ctx x)
    · rw [hlink]
      exact Link.foldl_openRx_isSome _ _ (.inr (List.mem_map_of_mem hx))
  · have hover := over_of_bucketWorks hworks
    have h5 : d.kind ≠ 5 := by omega
    have h6 : d.kind ≠ 6 := by omega
    have hbegun := workOnly_chainBegun (p := p) (k := k) hd (d.srcRun (d.srcIx d.cn d.cr r.1) r.2) r.2
    have hdesc := desc?_chainBegun (p := p) (k := k) hd (d.srcRun (d.srcIx d.cn d.cr r.1) r.2) r.2
    generalize hw : chainBegun s p c d (d.srcRun (d.srcIx d.cn d.cr r.1) r.2) k r.2 = w at hbegun hdesc
    generalize hl : chunkFrames w d (nth d.coll.members nx 0) false k 0 false (courseFirst w d d.cn d.cr r.1 r.2) = l
    obtain ⟨hsent, hsetup, hmem, hwait⟩ := sendRun_facts (p := p) hdesc ((d.cr + 1) % max 1 d.cn) l
    refine ⟨sendRun w p c d ((d.cr + 1) % max 1 d.cn) l, w, ?_, ?_, hbegun.setup.trans' hsetup,
      hmem.trans (hbegun.mem hquiet), hbegun.mem hquiet, hbegun.setup, ?_⟩
    · rw [exec_chainStart_of_works hd hpe hp hworks hstarts hnew, if_neg h6, if_neg h5,
        startChain_reduce hd hover hcn hnx hr hkind hroom hheld w hw.symm, hl]
    · rw [State.desc_of hsent]
    · rw [nth_next_rank, ← hnx, ← hdest] at hwait
      rw [hwait, ← hl, ← hdest, chunkFrames_of_dom hbegun.setup.dom, State.link, hbegun.links]
      rfl
  · have hover := over_of_bucketWorks hworks
    have h5 : d.kind ≠ 5 := by omega
    have h6 : d.kind ≠ 6 := by omega
    generalize hown : d.srcRun (d.srcIx d.cn d.cr r.1) r.2 ++ d.dstRun (d.dstIx d.cn d.cr r.1) r.2 = own at hheld
    have hbegun := workOnly_chainBegun (p := p) (k := k) hd own r.2
    have hdesc := desc?_chainBegun (p := p) (k := k) hd own r.2
    generalize hw : chainBegun s p c d own k r.2 = w at hbegun hdesc
    generalize ho : originRun w d d.cn d.cr r.1 r.2 = o
    obtain ⟨hvdesc, hvwork⟩ := writeRunAt_facts hdesc (d.collDst w d.cn) (d.dstIx d.cn d.cr r.1) o.run o.evs none
    generalize hv : writeRunAt w c d (d.collDst w d.cn) (d.dstIx d.cn d.cr r.1) o.run o.evs none = v at hvdesc hvwork
    obtain ⟨hsent, hsetup, hmem, hwait⟩ := sendRun_facts (p := p) hvdesc ((d.cr + 1) % max 1 d.cn)
      (chunkFrames v d (nth d.coll.members nx 0) true k 1 false o.run)
    have hvsetup : SameSetup s v := (hbegun.setup.trans' (.setMem w _)).trans' hvwork.setup
    have hvlinks : v.links = s.links := hvwork.links.trans hbegun.links
    refine ⟨sendRun v p c d ((d.cr + 1) % max 1 d.cn) (chunkFrames v d (nth d.coll.members nx 0) true k 1 false o.run), w,
      ?_, ?_, hvsetup.trans' hsetup, hbegun.mem hquiet, hbegun.setup, ?_, ?_⟩
    · rw [exec_chainStart_of_works hd hpe hp hworks hstarts hnew, if_neg h6, if_neg h5,
        startChain_distribute hd hover hcn hnx hr hkind hroom own hown.symm hheld w hw.symm o ho.symm v hv.symm]
    · rw [State.desc_of hsent, (Desc.noteRun_started _ _ _ _ _ _).1]
    · rw [hmem, hvwork.mem trivial, ← hbegun.mem hquiet, ho]
      rfl
    · rw [nth_next_rank, ← hnx, ← hdest] at hwait
      rw [← hdest, hwait, chunkFrames_of_dom hvsetup.dom, State.link, hvlinks, ho]
      rfl
  · rw [exec_chainStart_of_works hd hpe hp hworks hstarts hnew, if_neg (by omega), if_pos hkind]
  · rw [exec_chainStart_of_works hd hpe hp hworks hstarts hnew, if_pos hkind]

end Sys2Proof.Laws
end

section
/-! Fetching a descriptor (R169 to R171), and its admission opcode by opcode (R181, R189, R236, R242, R264, R283, R287 to R289,
R331, R365). -/

namespace Sys2Proof.Machine

/-! ## Fetching -/

theorem mayFetch_of {s : State} {c : Nat} (hworks : (s.eng (s.ctx c).use.engine).works = true)
    (hhold : (s.eng (s.ctx c).use.engine).holding = false) (hres : (s.ctx c).resident = true) (hen : (s.ctx c).enable = true)
    (hre : (s.ctx c).reEnable = false) (hsave : (s.ctx c).saving = false) (hrest : (s.ctx c).restoring = false)
    (herr : (s.ctx c).ringErr = false) (hnew : (s.ctx c).sqHead ≠ (s.ctx c).sqTail) (hfew : (s.ctx c).descs.length < 16)
    (hroom : (s.ctx c).descs.length + sub16 (s.ctx c).cqTail (s.ctx c).cqHead + 2 ≤ 2 ^ (s.ctx c).use.cqLog2) :
    mayFetch s c = true := by
  have hcq : (s.ctx c).use.cqSize = 2 ^ (s.ctx c).use.cqLog2 := rfl
  simp [mayFetch, frontRuns, hworks, hhold, hres, hen, hre, hsave, hrest, herr, hnew, hfew, hcq, hroom]

/-! ## The rows of the opcodes -/

/-- The rows that start a descriptor, each with its opcode (Table 0.4). -/
def admitRows : List ((Nat → Instr) × Nat) :=
  [(Instr.convert, 0x01), (Instr.quantise, 0x02), (Instr.dequantise, 0x03), (Instr.rotate, 0x04),
    (Instr.fold, 0x05), (Instr.reduce, 0x06), (Instr.stats, 0x07), (Instr.sample, 0x08), (Instr.fillRandom, 0x09),
    (Instr.recipe, 0x0A), (Instr.collective, 0x10), (Instr.rebond, 0x11), (Instr.ticketLease, 0x12),
    (Instr.signature, 0x18), (Instr.fence, 0x20), (Instr.ribbon, 0x21), (Instr.saveContext, 0x22),
    (Instr.restoreContext, 0x23), (Instr.drain, 0x24), (Instr.nop, 0x30)]

theorem exec_admitRow {row : Nat → Instr} {op : Nat} (h : (row, op) ∈ admitRows) (c : Nat) (s : State) :
    exec (row c) s = .next (admitRow s c op) := by
  simp only [admitRows, List.mem_cons, Prod.mk.injEq, List.not_mem_nil, or_false] at h
  rcases h with ⟨rfl, rfl⟩ | ⟨rfl, rfl⟩ | ⟨rfl, rfl⟩ | ⟨rfl, rfl⟩ | ⟨rfl, rfl⟩ | ⟨rfl, rfl⟩ | ⟨rfl, rfl⟩ | ⟨rfl, rfl⟩ |
    ⟨rfl, rfl⟩ | ⟨rfl, rfl⟩ | ⟨rfl, rfl⟩ | ⟨rfl, rfl⟩ | ⟨rfl, rfl⟩ | ⟨rfl, rfl⟩ | ⟨rfl, rfl⟩ | ⟨rfl, rfl⟩ | ⟨rfl, rfl⟩ |
    ⟨rfl, rfl⟩ | ⟨rfl, rfl⟩ | ⟨rfl, rfl⟩
  all_goals rfl

theorem op_of_mem_rows {row : Nat → Instr} {op : Nat} {l : List ((Nat → Instr) × Nat)} (h : (row, op) ∈ l) :
    op ∈ l.map Prod.snd := List.mem_map_of_mem h

/-! ## Entries that read back -/

theorem State.eng_modEng {s : State} {e : Nat} {f : Engine → Engine} (h : f (s.eng e) ≠ {}) :
    (s.modEng e f).eng e = f (s.eng e) := State.eng_setEng s e _ h

theorem State.eng_modEng_other {s : State} {e j : Nat} {f : Engine → Engine} (h : f (s.eng e) ≠ {}) (hj : j ≠ e) :
    (s.modEng e f).eng j = s.eng j := State.eng_setEng_other s e j _ h hj

theorem State.ctx_modCtx {s : State} {c : Nat} {f : Ctx → Ctx} (h : f (s.ctx c) ≠ {}) : (s.modCtx c f).ctx c = f (s.ctx c) :=
  State.ctx_setCtx s c _ h

theorem State.ctx_modCtx_other {s : State} {c x : Nat} {f : Ctx → Ctx} (h : f (s.ctx c) ≠ {}) (hx : x ≠ c) :
    (s.modCtx c f).ctx x = s.ctx x := State.ctx_setCtx_other s c x _ h hx

/-! ## The parameter block -/

/-- What the read of a parameter block leaves: everything but the requests and the recipe cache of the engine. -/
structure ParamRead (s s1 : State) : Prop where
  eng : EngOnly s s1
  watchFn : ∀ e, (s1.eng e).watchFn = (s.eng e).watchFn

theorem paramRead_readMem (s : State) (e a n : Nat) : ParamRead s (readMem s e a n) :=
  ⟨.readMem s e a n, fun j => by rw [State.eng, readMem_engines, State.eng]⟩

theorem ParamRead.trans' {s t u : State} (h : ParamRead s t) (k : ParamRead t u) : ParamRead s u :=
  ⟨h.eng.trans' k.eng, fun e => (k.watchFn e).trans (h.watchFn e)⟩

/-- A cache that keeps an entry changes nothing else of its engine. -/
theorem paramRead_cache (s : State) (e : Nat) (l : Engine → List CacheEntry) (hl : ∀ x, l x ≠ []) :
    ParamRead s (s.modEng e (fun x => { x with cache := l x })) := by
  refine ⟨.modEng s e _, fun j => ?_⟩
  have hne : ({ s.eng e with cache := l (s.eng e) } : Engine) ≠ {} := fun hdef => hl _ (congrArg Engine.cache hdef)
  by_cases hj : j = e
  · subst hj
    rw [State.eng_modEng hne]
  · rw [State.eng_modEng_other hne hj]

theorem paramRead_of_loadParam {s s1 : State} {c : Nat} {d : Desc} {par : List Nat}
    (h : loadParam s c d = some (s1, par)) : ParamRead s s1 := by
  unfold loadParam at h
  split at h
  · cases h
    exact ⟨.rfl' s, fun _ => rfl⟩
  · split at h
    · unfold loadRecipe fetchWords at h
      dsimp only at h
      have hfirst := paramRead_readMem s (s.engOf c) (paramAddr (s.ctx c) d) (8 * 8)
      split at h
      · injection h with h
        injection h with h _
        exact h ▸ hfirst.trans' (paramRead_cache _ _ _ (fun _ => by simp))
      · split at h
        · injection h with h
          injection h with h _
          exact h ▸ (hfirst.trans' (paramRead_readMem _ _ _ _)).trans' (paramRead_cache _ _ _ (fun _ => by simp))
        · cases h
    · cases h
      exact paramRead_readMem _ _ _ _

/-! ## The descriptor as it is admitted -/

/-- The state in which the parameter block is read and the descriptor stands as admission leaves it. -/
def admittedIn (s1 : State) (c : Nat) (A : Desc) : State := s1.modDesc c A.seq (fun _ => A)

section Admitted
variable {s s1 : State} {c : Nat} {d A : Desc} {par : List Nat} (hload : loadParam s c d = some (s1, par))
  (hd : s.desc? c d.seq = some d) (hA : A.seq = d.seq)
include hload hd hA

theorem desc?_admittedIn : (admittedIn s1 c A).desc? c d.seq = some A := by
  have hd1 : s1.desc? c d.seq = some d := ((paramRead_of_loadParam hload).eng.desc? c d.seq).trans hd
  rw [admittedIn, hA]
  exact State.desc?_modDesc (fun _ => A) hd1 hA

theorem ctx_admittedIn {x : Nat} (hx : x ≠ c) : (admittedIn s1 c A).ctx x = s.ctx x := by
  have hread := (paramRead_of_loadParam hload).eng
  rw [admittedIn, hA]
  exact (modDesc_other ((hread.desc? c d.seq).trans hd) hx).trans (hread.ctx x)

omit hd hA in
/-- Nothing but the context, the requests and the recipe cache has changed. -/
theorem sameSetup_admittedIn : SameSetup s (admittedIn s1 c A) :=
  (paramRead_of_loadParam hload).eng.setup.trans' (.modDesc _ _ _ _)

omit hA in
theorem engOf_admittedIn : (admittedIn s1 c A).engOf c = s.engOf c := by
  have hread := (paramRead_of_loadParam hload).eng
  have hd1 : s1.desc? c d.seq = some d := (hread.desc? c d.seq).trans hd
  have hmap : ((s1.ctx c).descs.map (fun x => if x.seq = A.seq then A else x)) ≠ [] := fun hnil =>
    State.descs_ne_nil hd1 (List.map_eq_nil_iff.1 hnil)
  rw [admittedIn, State.modDesc, State.engOf, State.ctx_modCtx (Ctx.ne_of_descs hmap), State.engOf, ← hread.ctx]

end Admitted

/-! ## The watch unit -/

theorem wantWatch_watchFn_on (s : State) (e : Nat) (d : Desc) :
    ((wantWatch s e d).eng e).watchFn = .on ↔ (s.eng e).watchFn = .on := by
  unfold wantWatch
  split
  · have hne : ({ s.eng e with watchFn := if (s.eng e).watchFn == .off then .starting else (s.eng e).watchFn } : Engine) ≠
        {} := fun hdef => by
      have hoff := congrArg Engine.watchFn hdef
      by_cases h : (s.eng e).watchFn = .off <;> simp [h] at hoff
    rw [State.eng_modEng hne]
    by_cases h : (s.eng e).watchFn = .off <;> simp [h]
  · exact Iff.rfl

/-! ## What admission starts, opcode by opcode -/

section Begin
variable {s s1 : State} {c op : Nat} {d A : Desc} {par : List Nat} (h : Admits s c op d s1 par)
  (hd : s.desc? c d.seq = some d) (hA : A = admittedAs d par (s.eng (s.engOf c)).epoch)
include h hd hA

/-- The row of an opcode other than those of R219, once its checks pass. -/
theorem admitRow_of_admits (hc : op ≠ 0x10) (hr : op ≠ 0x11) :
    admitRow s c op = beginDesc (admittedIn s1 c A) c A {} := by
  subst hA
  exact (admitRow_eq h hd hc hr).1

omit hd in
theorem op_of_admits : A.op = op := by
  subst hA
  exact h.2.1

omit hd in
theorem isColl_of_admits (hc : op ≠ 0x10) (hr : op ≠ 0x11) : A.isColl = false := by
  rw [Desc.isColl, op_of_admits h hA]
  simp [opCOLLECTIVE, opREBOND, hc, hr]

/-- The watch unit is on where it was. -/
theorem watchReady_of_admits :
    watchReady (wantWatch (admittedIn s1 c A) ((admittedIn s1 c A).engOf c) A) c A = true ↔
      (d.watchCfg.active = true → (s.eng (s.engOf c)).watchFn = .on) := by
  obtain ⟨-, -, hload, -⟩ := h
  have hseq : A.seq = d.seq := by rw [hA]; rfl
  have hcfg : A.watchCfg = d.watchCfg := by rw [hA]; rfl
  have heng : (wantWatch (admittedIn s1 c A) ((admittedIn s1 c A).engOf c) A).engOf c = s.engOf c := by
    rw [State.engOf, State.ctx, (wantWatch_facts _ _ _).1]
    exact engOf_admittedIn hload hd
  have hon : ((admittedIn s1 c A).eng (s.engOf c)).watchFn = .on ↔ (s.eng (s.engOf c)).watchFn = .on := by
    rw [← (paramRead_of_loadParam hload).watchFn]
    exact Iff.rfl
  rw [watchReady, heng, engOf_admittedIn hload hd, hcfg]
  simp only [Bool.or_eq_true, Bool.not_eq_true', beq_iff_eq, wantWatch_watchFn_on, hon]
  cases d.watchCfg.active <;> simp

/-- Streaming work over no elements (R365). -/
theorem beginDesc_of_empty (hop : op ∈ [0x01, 0x02, 0x03, 0x04, 0x06, 0x09, 0x0A]) (hcount : d.count = 0)
    (hwatch : d.watchCfg.active = true → (s.eng (s.engOf c)).watchFn = .on) :
    beginDesc (admittedIn s1 c A) c A {} =
      finishDesc (startDesc (wantWatch (admittedIn s1 c A) ((admittedIn s1 c A).engOf c) A) c A) c d.seq := by
  have hready := (watchReady_of_admits h hd hA).2 hwatch
  have hA0 : A.count = 0 := by rw [hA]; exact hcount
  have hseq : A.seq = d.seq := by rw [hA]; rfl
  have haop := op_of_admits h hA
  have hcoll : A.isColl = false := isColl_of_admits h hA (by rintro rfl; simp at hop) (by rintro rfl; simp at hop)
  unfold beginDesc
  simp only [hcoll, hready, emptyStats, haop, hA0, hseq, opNOP, opFENCE, opDRAIN, opLEASE, opRIBBON, opSAVE, opRESTORE,
    opSIGNATURE, opSTATS]
  simp only [List.mem_cons, List.not_mem_nil, or_false] at hop
  rcases hop with rfl | rfl | rfl | rfl | rfl | rfl | rfl <;> simp

omit hd in
/-- Streaming work over some elements waits for its strips. -/
theorem beginDesc_of_streaming (hop : op ∈ [0x01, 0x02, 0x03, 0x04, 0x05, 0x06, 0x07, 0x08, 0x09, 0x0A])
    (hcount : d.count ≠ 0) :
    beginDesc (admittedIn s1 c A) c A {} = wantWatch (admittedIn s1 c A) ((admittedIn s1 c A).engOf c) A := by
  have hA0 : A.count ≠ 0 := by rw [hA]; exact hcount
  have haop := op_of_admits h hA
  have hcoll : A.isColl = false := isColl_of_admits h hA (by rintro rfl; simp at hop) (by rintro rfl; simp at hop)
  unfold beginDesc
  simp only [hcoll, haop, opNOP, opFENCE, opDRAIN, opLEASE, opRIBBON, opSAVE, opRESTORE, opSIGNATURE, if_neg hA0]
  simp only [List.mem_cons, List.not_mem_nil, or_false] at hop
  rcases hop with rfl | rfl | rfl | rfl | rfl | rfl | rfl | rfl | rfl | rfl <;> simp

end Begin

/-! ## A check that fails, and an opcode outside Table 0.4 -/

/-- An opcode outside Table 0.4 fails the first check (R181). -/
theorem check_of_unknown {s : State} {d : Desc} (h : knownOp d.op = false) (c q : Nat) (g : Group) :
    Desc.check s d c q g = some 0x12 := by
  have hok : d.ok1 s c q g = false := by simp [Desc.ok1, h]
  rw [Desc.check, hok]
  rfl

/-- It names no tile region (R98). -/
theorem tilesWait_of_unknown (l : List Desc) {d : Desc} (h : knownOp d.op = false) : tilesWait l d = false := by
  have hne : ∀ o, knownOp o = true → d.op ≠ o := fun o ho heq => by rw [heq, ho] at h; cases h
  have htiles : d.tiles = [] := by
    rw [Desc.tiles]
    simp [hne opFOLD (by decide), hne opDRAIN (by decide), hne opRECIPE (by decide)]
  simp [tilesWait, htiles]

/-- A descriptor that a check ends: it stands admitted with that status, and the abort of R241 follows where it must. -/
theorem admitDesc_of_fails {s1 : State} {c st : Nat} {d A : Desc} (hA : A = { d with
      admitted := true, tag := (s1.eng (s1.engOf c)).epoch, early := true, status := some st })
    (hcheck : d.check s1 c d.seq (if d.isColl && d.pb && isPe (s1.engOf c) then groupFor s1 (s1.engOf c - 96) d else {}) =
      some st) (u : State) (hu : u = if (d.isColl && d.pb) = true then
        (admittedIn s1 c A).modCtx c (fun x => { x with lastTicket := d.ticket }) else admittedIn s1 c A) :
    admitDesc s1 c d =
      if (d.isColl && d.pb && decide (st = 0x11)) = true then abortGroup u c (u.desc c d.seq) else u := by
  subst hA hu
  simp only [admitDesc, hcheck, Option.isSome_some, if_true]
  have hbeq : ((some st : Option Nat) == some stPROTECTION) = decide (st = 0x11) := rfl
  rw [hbeq]
  rfl

end Sys2Proof.Machine
end

section
/-! The fetch of a descriptor and its admission, opcode by opcode: the statements (R169 to R171, R181, R189, R236, R242, R264,
R287 to R289, R331, R365). -/

namespace Sys2Proof.Machine

/-- A change of a descriptor and of what stands in its context beside it reads back. -/
theorem desc?_finishDesc {s : State} {c q : Nat} {d : Desc} (h : s.desc? c q = some d) :
    (finishDesc s c q).desc? c q = some { d with finished := true } :=
  State.desc?_modDesc (fun d => { d with finished := true }) h (show d.seq = q from State.desc?_seq h)

/-- Reading with nothing to read. -/
theorem postReads_nil (s : State) (c : Nat) : postReads s c [] = s := rfl

/-- The reads of some ranges present requests and change nothing else. -/
theorem postReads_eq (s : State) (c : Nat) (l : List Acc) :
    postReads s c l = { s with outputs := (postReads s c l).outputs } := by
  have hfold : ∀ {α : Type} (f : State → α → State),
      (∀ s x, f s x = { s with outputs := (f s x).outputs }) → ∀ (l : List α) (s : State),
        l.foldl f s = { s with outputs := (l.foldl f s).outputs } := by
    intro α f hf l
    induction l with
    | nil => exact fun s => rfl
    | cons x r ih =>
      intro s
      rw [List.foldl_cons, ih (f s x), hf s x]
  exact hfold _ (fun s a => hfold _ (fun s k => readMem_eq s _ _ _) _ s) _ s

end Sys2Proof.Machine

namespace Sys2Proof.Laws
open Sys2Proof Sys2Proof.Machine

/-- Settles O6: R171's conditions are those of the fetch. -/
theorem descriptorFetch : Obligations.DescriptorFetch := by
  intro c s hworks hhold hres hen hre hsave hrest herr hnew hfew hroom
  refine ⟨?_, readMem_eq s⟩
  change execDescriptorFetch c s = _
  rw [execDescriptorFetch, if_pos (mayFetch_of hworks hhold hres hen hre hsave hrest herr hnew hfew hroom)]
  simp only [fetchDesc, readMem_mem]
  rfl

/-- Settles O7: a streaming opcode's start asks for the watch unit, and over no elements finishes. -/
theorem admitStreaming : Obligations.AdmitStreaming := by
  refine ⟨fun row op c s s1 d par hrow h hd hcount => ?_, fun row op c s s1 d par hrow h hd hstarted hcount hwatch => ?_⟩
  · have hop : op ∈ [0x01, 0x02, 0x03, 0x04, 0x05, 0x06, 0x07, 0x08, 0x09, 0x0A] := by simpa using op_of_mem_rows hrow
    have hmem : (row, op) ∈ admitRows := List.mem_of_mem_take (i := 10) hrow
    generalize hA : admittedAs d par (s.eng (s.engOf c)).epoch = A
    have hseq : A.seq = d.seq := by rw [← hA]; rfl
    obtain ⟨hctxs, hwmem, hwsetup, hwlinks, hwerr, hwtrace, hwout⟩ :=
      wantWatch_facts (admittedIn s1 c A) ((admittedIn s1 c A).engOf c) A
    have hstart := beginDesc_of_streaming h hA.symm hop hcount
    have hrow := admitRow_of_admits h hd hA.symm (by rintro rfl; simp at hop) (by rintro rfl; simp at hop)
    obtain ⟨-, -, hload, -⟩ := h
    have hread := (paramRead_of_loadParam hload).eng
    have hctx : ∀ x, (wantWatch (admittedIn s1 c A) ((admittedIn s1 c A).engOf c) A).ctx x = (admittedIn s1 c A).ctx x :=
      fun x => by rw [State.ctx, hctxs, State.ctx]
    refine ⟨_, exec_admitRow hmem c s, ?_⟩
    rw [hrow, hstart]
    refine ⟨?_, hwmem.trans hread.mem, (sameSetup_admittedIn hload).trans' hwsetup, hwlinks.trans hread.links,
      hwerr.trans hread.err, hwtrace.trans hread.trace, hwout, fun x hx => (hctx x).trans (ctx_admittedIn hload hd hseq hx)⟩
    rw [State.desc?, hctx]
    exact desc?_admittedIn hload hd hseq
  · have hop : op ∈ [0x01, 0x02, 0x03, 0x04, 0x06, 0x09, 0x0A] := by simpa using op_of_mem_rows hrow
    have hmem : (row, op) ∈ admitRows := by
      simp only [admitRows, List.mem_cons, List.not_mem_nil, or_false] at hrow ⊢
      grind
    obtain ⟨hdesc, hsetup, hlinks, hquiet, -, hother, -⟩ := admit_start h hd hstarted _ rfl _ _ rfl rfl
    refine ⟨_, exec_admitRow hmem c s, ?_⟩
    rw [admitRow_of_admits h hd rfl (by rintro rfl; simp at hop) (by rintro rfl; simp at hop),
      beginDesc_of_empty h hd rfl hop hcount hwatch]
    exact ⟨desc?_finishDesc hdesc, hsetup.trans' (.modDesc _ _ _ _), hlinks, hquiet,
      fun x hx => (modDesc_other hdesc hx).trans (hother x hx)⟩

/-- Settles O8: the first check that fails is the descriptor's ending, and the abort of R241 follows it. -/
theorem admissionCheckFails : Obligations.AdmissionCheckFails := by
  intro row op c st s s1 d par hrow hnext hop hload hwait hcheck hd
  have hread := (paramRead_of_loadParam hload).eng
  have heng : s1.engOf c = s.engOf c := by rw [State.engOf, hread.ctx, State.engOf]
  have hepoch := (loadParam_ctx hload).2
  generalize hA : ({ admittedAs d par (s.eng (s.engOf c)).epoch with early := true, status := some st } : Desc) = A
  have hseq : A.seq = d.seq := by rw [← hA]; rfl
  have hdesc := desc?_admittedIn hload hd hseq
  generalize hu : (if (({ d with par := par } : Desc).isColl && d.pb) = true then
    (admittedIn s1 c A).modCtx c (fun x => { x with lastTicket := ({ d with par := par } : Desc).ticket })
    else admittedIn s1 c A) = u
  have hwork : WorkOnly True c (admittedIn s1 c A) u ∧ u.outputs = s1.outputs ∧ u.desc? c d.seq = some A := by
    rw [← hu]
    split
    · exact ⟨.modCtx_sameWork _ (fun _ => ⟨rfl, rfl, rfl, rfl⟩), rfl, State.desc?_modCtx (fun _ => ⟨rfl, rfl, rfl, rfl⟩) hdesc⟩
    · exact ⟨.rfl' _, rfl, hdesc⟩
  obtain ⟨hwork, hout, hudesc⟩ := hwork
  have hfail := admitDesc_of_fails (s1 := s1) (c := c) (st := st) (d := { d with par := par }) (A := A)
    (by rw [heng, hepoch, ← hA]; rfl) (by rw [heng]; exact hcheck) u hu.symm
  have hexec : exec (row c) s = .next (admitDesc s1 c { d with par := par }) := by
    rw [exec_admitRow hrow c s, admitRow]
    simp only [hnext, hop, decide_true, Bool.true_or, if_true, hload, hwait, Bool.false_eq_true, if_false]
  refine ⟨u, _, hexec, hudesc, (hwork.mem trivial).trans hread.mem, (sameSetup_admittedIn hload).trans' hwork.setup,
    hwork.links.trans hread.links, hout, fun x hx => (hwork.other (State.descs_ne_nil hdesc) x hx).trans
      (ctx_admittedIn hload hd hseq hx), hfail, ?_⟩
  rw [hfail]
  split
  · refine EndsOnly.abortGroup u c (u.desc c d.seq) A ?_
    rw [State.desc_of hudesc, hseq]
    exact hudesc
  · exact .rfl' c u

/-- Settles O9: NOP and FENCE finish as they start, and an opcode outside Table 0.4 fails the first check. -/
theorem admitNopFence : Obligations.AdmitNopFence := by
  refine ⟨fun row op c s s1 d par hrow h hd hstarted => ?_, fun c s s1 d par hnext hop hload hd => ?_⟩
  · have hop : op = 0x20 ∨ op = 0x30 := by simpa using op_of_mem_rows hrow
    have hmem : (row, op) ∈ admitRows := by
      simp only [admitRows, List.mem_cons, List.not_mem_nil, or_false] at hrow ⊢
      grind
    obtain ⟨hdesc, hsetup, hlinks, hquiet, -, hother, -⟩ := admit_start h hd hstarted _ rfl _ _ rfl rfl
    have haop := op_of_admits h rfl
    have hcoll := isColl_of_admits h rfl (by omega) (by omega)
    have hnop : (decide (op = opNOP) || decide (op = opFENCE)) = true := by
      rcases hop with rfl | rfl <;> decide
    refine ⟨_, exec_admitRow hmem c s, ?_⟩
    rw [admitRow_of_admits h hd rfl (by omega) (by omega), beginDesc]
    simp only [hcoll, Bool.false_eq_true, if_false, haop, hnop, if_true]
    exact ⟨desc?_finishDesc hdesc, hsetup.trans' (.modDesc _ _ _ _), hlinks, hquiet,
      fun x hx => (modDesc_other hdesc hx).trans (hother x hx)⟩
  · have hunknown : knownOp d.op = false := by
      simpa [knownOp] using hop
    have hread := (paramRead_of_loadParam hload).eng
    have heng : s1.engOf c = s.engOf c := by rw [State.engOf, hread.ctx, State.engOf]
    have hepoch := (loadParam_ctx hload).2
    have hcoll : d.isColl = false := by
      have hc : d.op ≠ 0x10 := by rintro heq; simp [heq] at hop
      have hr : d.op ≠ 0x11 := by rintro heq; simp [heq] at hop
      simp [Desc.isColl, opCOLLECTIVE, opREBOND, hc, hr]
    generalize hA : ({ admittedAs d par (s.eng (s.engOf c)).epoch with early := true, status := some 0x12 } : Desc) = A
    have hseq : A.seq = d.seq := by rw [← hA]; rfl
    have hfail := admitDesc_of_fails (s1 := s1) (c := c) (st := 0x12) (d := { d with par := par }) (A := A)
      (by rw [heng, hepoch, ← hA]; rfl) (check_of_unknown (by exact hunknown) _ _ _) _ rfl
    have hcoll' : ({ d with par := par } : Desc).isColl = false := hcoll
    simp only [hcoll', Bool.false_and, Bool.false_eq_true, if_false] at hfail
    have hexec : exec (.nop c) s = .next (admittedIn s1 c A) := by
      have hrow : exec (.nop c) s = .next (admitRow s c opNOP) := rfl
      rw [hrow, admitRow, ← hfail]
      simp only [hnext, hunknown, Bool.not_false, Bool.and_true, decide_true, Bool.or_true, if_true, hload]
      rw [if_neg]
      rw [tilesWait_of_unknown _ (by exact hunknown)]
      exact Bool.false_ne_true
    exact ⟨_, hexec, desc?_admittedIn hload hd hseq, hread.mem, sameSetup_admittedIn hload, hread.links, hread.err,
      hread.trace, rfl, fun x hx => ctx_admittedIn hload hd hseq hx⟩

end Sys2Proof.Laws
end

section
/-! Admission of the opcodes that ask for a service: DRAIN, RIBBON, TICKET_LEASE, SAVE_CONTEXT, SIGNATURE, RESTORE_CONTEXT, and
those of a group, COLLECTIVE and REBOND (R99, R236, R242, R264, R287 to R289, R294, R331). -/

namespace Sys2Proof.Machine

/-- A change of a descriptor that keeps its slot reads back. -/
theorem State.desc?_modDesc_eq {s : State} {c q : Nat} {d e : Desc} {f : Desc → Desc} (h : s.desc? c q = some d)
    (hf : f d = e) (he : e.seq = d.seq) : (s.modDesc c q f).desc? c q = some e := by
  have hq := State.desc?_seq h
  rw [State.desc?_modDesc f h (by rw [hf, he, hq]), hf]

/-- The state in which a descriptor that admission has let through is started. -/
def startedIn (s1 : State) (c : Nat) (A : Desc) : State :=
  startDesc (wantWatch (admittedIn s1 c A) ((admittedIn s1 c A).engOf c) A) c A

/-- What has changed by then. -/
structure Started (s t : State) (c : Nat) (d A : Desc) : Prop where
  desc : t.desc? c d.seq = some { A with started := true }
  setup : SameSetup s t
  links : t.links = s.links
  mem : s.trace.on = false → t.mem = s.mem
  ribbons : t.trace.ribbons = s.trace.ribbons
  other : ∀ x, x ≠ c → t.ctx x = s.ctx x
  on : t.trace.on = s.trace.on

section Service
variable {s s1 : State} {c op : Nat} {d : Desc} {par : List Nat} (h : Admits s c op d s1 par)
  (hd : s.desc? c d.seq = some d)
include h hd

theorem started_startedIn (hstarted : d.started = false) :
    Started s (startedIn s1 c (admittedAs d par (s.eng (s.engOf c)).epoch)) c d
      (admittedAs d par (s.eng (s.engOf c)).epoch) := by
  obtain ⟨hdesc, hsetup, hlinks, hmem, hribbons, hother, hon⟩ := admit_start h hd hstarted _ rfl _ _ rfl rfl
  exact ⟨hdesc, hsetup, hlinks, hmem, hribbons, hother, hon⟩

/-- The row of an opcode that asks for a service: its descriptor is started, and the service is asked for. -/
theorem exec_of_service {row : Nat → Instr} (hrow : (row, op) ∈ admitRows)
    (hserve : op ∈ [0x12, 0x18, 0x21, 0x22, 0x23, 0x24]) (run : State)
    (hrun : run = startedIn s1 c (admittedAs d par (s.eng (s.engOf c)).epoch)) :
    exec (row c) s = .next (
      if op = 0x24 then run.modDesc c d.seq (fun d => { d with drains :=
        [{ bf16 := d.facc, tile := d.ftile, m := d.fm, n := d.fn, out := d.fout }] })
      else if op = 0x12 then startLease run c d.seq
      else if op = 0x21 then { run with trace := { run.trace with ribbons := run.trace.ribbons ++ [(c, d.seq)] } }
      else if op = 0x22 then stopTarget run (bits d.soff 11 0)
      else if op = 0x23 then runRestore (run.modCtx (bits d.doff 11 0) (fun x => { x with restoring := true })) c d.seq
      else if d.watchCfg.active = true ∧ (s.eng (s.engOf c)).watchFn ≠ .on then run else runSignature run c d.seq) := by
  have hne : op ≠ 0x10 ∧ op ≠ 0x11 := by
    constructor <;> rintro rfl <;> simp at hserve
  have hready := watchReady_of_admits h hd rfl
  have haop := op_of_admits h rfl
  subst hrun
  rw [exec_admitRow hrow c s, admitRow_of_admits h hd rfl hne.1 hne.2]
  generalize hA : admittedAs d par (s.eng (s.engOf c)).epoch = A at hready haop
  obtain ⟨hseq, hsoff, hdoff⟩ : A.seq = d.seq ∧ A.soff = d.soff ∧ A.doff = d.doff := by
    rw [← hA]
    exact ⟨rfl, rfl, rfl⟩
  unfold beginDesc
  simp only [Desc.isColl, haop, hseq, hsoff, hdoff, opCOLLECTIVE, opREBOND, opNOP, opFENCE, opDRAIN, opLEASE, opRIBBON,
    opSAVE, opRESTORE, opSIGNATURE]
  by_cases hwait : d.watchCfg.active = true ∧ (s.eng (s.engOf c)).watchFn ≠ .on
  · have hnot : ¬ watchReady (wantWatch (admittedIn s1 c A) ((admittedIn s1 c A).engOf c) A) c A = true :=
      fun hyes => hwait.2 (hready.1 hyes hwait.1)
    rw [if_pos hwait]
    simp only [List.mem_cons, List.not_mem_nil, or_false] at hserve
    rcases hserve with rfl | rfl | rfl | rfl | rfl | rfl <;> simp [hnot, startedIn]
  · have hyes : watchReady (wantWatch (admittedIn s1 c A) ((admittedIn s1 c A).engOf c) A) c A = true :=
      hready.2 fun hact => Classical.not_not.1 fun hoff => hwait ⟨hact, hoff⟩
    rw [if_neg hwait]
    simp only [List.mem_cons, List.not_mem_nil, or_false] at hserve
    rcases hserve with rfl | rfl | rfl | rfl | rfl | rfl <;> simp [hyes, startedIn]

end Service

/-- A context that restores reads back as such. -/
theorem Ctx.ne_of_restoring {x : Ctx} (h : x.restoring = true) : x ≠ {} := fun hdef => by rw [hdef] at h; cases h
theorem Ctx.ne_of_saving {x : Ctx} (h : x.saving = true) : x ≠ {} := fun hdef => by rw [hdef] at h; cases h

/-! ## SIGNATURE -/

/-- R242: the signatures of the links are written once the destination may be touched. -/
theorem runSignature_mem {r u : State} {c q : Nat} {d : Desc} (hd : r.desc? c q = some d) (hover : d.over = false)
    (hcmp : bitAt d.sub 0 = false)
    (hgate : gate r c q [{ win := d.dwin, lo := d.doff, hi := d.doff + 512, wr := true }] = (u, true)) :
    (runSignature r c q).mem = Mem.wrBytes u.mem (u.addrOf d.dwin d.doff) (signatureBytes u d.job) := by
  unfold runSignature
  simp only [State.desc_of hd, hover, hcmp, Bool.false_eq_true, if_false, List.nil_append, hgate, Bool.not_true, postReads_nil]
  rw [(EngOnly.postWrites _ _ _ _).mem, State.modDesc_mem, State.setMem_mem]

/-! ## RESTORE_CONTEXT -/

/-- R294, R295: an image that passes its checks is taken up. -/
theorem runRestore_of_passes {s u v : State} {c q len : Nat} {d : Desc} (hd : s.desc? c q = some d) (hover : d.over = false)
    (hhead : gate s c q [{ win := d.swin, lo := d.soff, hi := min (s.win d.swin).bytes (d.soff + 0x4000) }] = (u, true))
    (hroom : d.soff + 0x4000 ≤ (s.win d.swin).bytes) (hlen : len = Mem.rd u.mem (u.addrOf d.swin d.soff + 0x0C) 4)
    (hfit : d.soff + len ≤ (s.win d.swin).bytes)
    (hbody : gate u c q [{ win := d.swin, lo := d.soff, hi := d.soff + len }] = (v, true))
    (w : State) (hw : w = postReads v c [{ win := d.swin, lo := d.soff, hi := d.soff + len }])
    (hcheck : imageCheck w (bits d.doff 11 0) ((s.win d.swin).bytes - d.soff)
      (Mem.bytes w.mem (u.addrOf d.swin d.soff) len) = none) :
    runRestore s c q = loadImage (w.modDesc c q (fun d => { d with status := none, finished := true })) (bits d.doff 11 0)
      (Mem.bytes w.mem (u.addrOf d.swin d.soff) len) := by
  have hboth : d.soff + 0x4000 ≤ (s.win d.swin).bytes ∧ d.soff + len ≤ (s.win d.swin).bytes := ⟨hroom, hfit⟩
  unfold runRestore
  simp only [State.desc_of hd, hover, Bool.false_eq_true, if_false, hhead, Bool.not_true, ← hlen, hboth, decide_true, Bool.and_self,
    if_true, hbody, ← hw, hcheck, Option.isSome_none]

/-! ## COLLECTIVE and REBOND -/

/-- The first descriptor of a group that is not present makes it present, and clears the job's signatures (R236, R242). -/
def Link.joined (l : Link) (d : Desc) (g : Group) : Link :=
  let l : Link := { l with insts := l.insts ++
    [{ job := d.job, ticket := d.ticket, pd := g.pd, members := g.members, self := g.self, kind := d.kind }] }
  l.setJob d.job { l.job d.job with sentSig := 0, recvSig := 0, sentPart := [], recvPart := [] }

theorem Link.joined_ne (l : Link) (d : Desc) (g : Group) : l.joined d g ≠ {} := fun hdef => by
  have hnil := congrArg Link.insts hdef
  simp [Link.joined, Link.setJob] at hnil

/-- The signatures of the job, in a canonical table. -/
theorem Link.joined_job (l : Link) (d : Desc) (g : Group) (hwf : SMap.wf l.jobs {} = true) :
    ((l.joined d g).job d.job).sentSig = 0 ∧ ((l.joined d g).job d.job).recvSig = 0 := by
  have hread : (l.joined d g).job d.job = { l.job d.job with sentSig := 0, recvSig := 0, sentPart := [], recvPart := [] } :=
    SMap.get_set_same l.jobs {} d.job _ 0 hwf
  rw [hread]
  exact ⟨rfl, rfl⟩

/-- A descriptor of a group whose checks pass: it stands admitted, its ticket is noted, and its opcode's start follows. -/
theorem admitDesc_of_passes {s1 : State} {c : Nat} {d A : Desc} {g : Group} (hA : A = { d with
      admitted := true, tag := (s1.eng (s1.engOf c)).epoch, early := false, status := none })
    (hg : g = if d.isColl && d.pb && isPe (s1.engOf c) then groupFor s1 (s1.engOf c - 96) d else {})
    (hcheck : d.check s1 c d.seq g = none) (hcoll : (d.isColl && d.pb) = true) (u : State)
    (hu : u = (admittedIn s1 c A).modCtx c (fun x => { x with lastTicket := d.ticket })) :
    admitDesc s1 c d = beginDesc u c (u.desc c d.seq) g := by
  subst hA hu hg
  simp only [admitDesc, hcheck, Option.isSome_none, Bool.false_eq_true, if_false]
  simp only [hcoll, if_true, Bool.true_and]
  rfl

/-- R236: with no member lost, nothing announced before, and no ticket in its way, the group is joined and nothing else
happens. -/
theorem admitColl_of_first {s : State} {p c : Nat} {d : Desc} {g : Group} (hd : s.desc? c d.seq = some d)
    (hnew : (s.link p).inst? d.job d.ticket = none)
    (hticket : (s.link p).insts.any (fun i =>
      (i.job == d.job && decide (d.ticket < i.ticket)) || (i.job != d.job && i.ticket == d.ticket)) = false)
    (hlive : g.members.any (fun m => (s.link p).lost.contains m) = false)
    (hann : (s.link p).ann.any (fun a => a.job == d.job && a.ticket == d.ticket && a.bucket == d.bucket) = false) :
    admitColl s p c d g = (s.modLink p (fun l => l.joined d g)).modDesc c d.seq
      (fun d => { d with coll := { members := g.members, self := g.self } }) := by
  have hjoin : joinInstance s p d g = s.modLink p (fun l => l.joined d g) := by
    simp only [joinInstance, hnew, Option.isSome_none, Bool.false_eq_true, if_false]
    rfl
  have hbad : ∀ x : Desc, x.job = d.job → x.ticket = d.ticket → x.bucket = d.bucket →
      (s.link p).ann.any (fun a => a.job == x.job && a.ticket == x.ticket && a.bucket == x.bucket && !annAgrees x a) =
        false := by
    intro x hj ht hb
    rw [List.any_eq_false] at hann ⊢
    intro a ha
    have hno := hann a ha
    rw [Bool.not_eq_true] at hno ⊢
    rw [hj, ht, hb, hno, Bool.false_and]
  obtain ⟨y, hy, hagree⟩ : ∃ y : Desc, y = { d with coll := { members := g.members, self := g.self } } ∧
      (s.link p).ann.any (fun a => a.job == y.job && a.ticket == y.ticket && a.bucket == y.bucket && !annAgrees y a) =
        false := ⟨_, rfl, hbad _ rfl rfl rfl⟩
  have hdesc : ((s.modLink p (fun l => l.joined d g)).modDesc c d.seq
      (fun d => { d with coll := { members := g.members, self := g.self } })).desc? c d.seq = some y :=
    State.desc?_modDesc_eq (s := s.modLink p (fun l => l.joined d g)) (show _ = some d from hd) hy.symm (by rw [hy])
  simp only [admitColl, hticket, Bool.false_eq_true, if_false, hjoin, State.desc_of hdesc, hlive, hagree, Bool.false_and]

end Sys2Proof.Machine

namespace Sys2Proof.Laws
open Sys2Proof Sys2Proof.Machine

/-- Settles O10: DRAIN notes its region's drain, RIBBON joins the requests of the island. -/
theorem admitDrainRibbon : Obligations.AdmitDrainRibbon := by
  refine ⟨fun c s s1 d par h hd hstarted => ?_, fun c s s1 d par h hd hstarted => ?_⟩
  · have hrun := started_startedIn h hd hstarted
    refine ⟨_, exec_of_service h hd (row := Instr.drain) (by simp [admitRows]) (by simp) _ rfl, ?_⟩
    rw [if_pos rfl]
    exact ⟨State.desc?_modDesc_eq hrun.desc rfl rfl, hrun.setup.trans' (.modDesc _ _ _ _), hrun.links, hrun.mem,
      fun x hx => (modDesc_other hrun.desc hx).trans (hrun.other x hx)⟩
  · have hrun := started_startedIn h hd hstarted
    refine ⟨_, exec_of_service h hd (row := Instr.ribbon) (by simp [admitRows]) (by simp) _ rfl, ?_⟩
    rw [if_neg (by omega), if_neg (by omega), if_pos rfl]
    refine ⟨?_, hrun.desc, ?_, hrun.links, hrun.mem, hrun.other⟩
    · rw [← hrun.ribbons]
    · exact hrun.setup.trans' ⟨rfl, rfl, rfl, rfl, rfl, rfl, rfl, rfl, rfl, rfl, rfl, rfl, rfl⟩

/-- Settles O11: the lease is asked for, and LEASE_REQ goes out. -/
theorem admitLease : Obligations.AdmitLease := by
  intro c s s1 d par h hd hstarted hiss
  have hrun := started_startedIn h hd hstarted
  have hexec := exec_of_service h hd (row := Instr.ticketLease) (by simp [admitRows]) (by simp) _ rfl
  rw [if_neg (by omega), if_pos rfl] at hexec
  generalize startedIn s1 c _ = run at hrun hexec
  have hasked := State.desc?_modDesc_eq (f := fun d => { d with leaseAsked := true }) hrun.desc rfl rfl
  have hother : ∀ x, x ≠ c → (run.modDesc c d.seq (fun d => { d with leaseAsked := true })).ctx x = s.ctx x :=
    fun x hx => (modDesc_other hrun.desc hx).trans (hrun.other x hx)
  have hask : startLease run c d.seq = askLease (run.modDesc c d.seq (fun d => { d with leaseAsked := true })) c d.seq := by
    have hiss' : (run.modDesc c d.seq (fun d => { d with leaseAsked := true })).isIssuer = false := by
      rw [← hiss, State.isIssuer, State.isIssuer, ← hrun.setup.dom]
      rfl
    simp only [startLease, hiss', Bool.false_eq_true, if_false]
  generalize hu : run.modDesc c d.seq (fun d => { d with leaseAsked := true }) = u at hasked hother hask
  have husetup : SameSetup s u ∧ u.mem = run.mem ∧ u.trace.on = run.trace.on :=
    hu ▸ ⟨hrun.setup.trans' (.modDesc run c d.seq _), rfl, rfl⟩
  have hsend : SendOnly u (askLease u c d.seq) := SendOnly.sendCtrl u _ _
  refine ⟨askLease u c d.seq, by rw [hexec, hask], (hsend.desc? c d.seq).trans hasked, husetup.1.trans' hsend.setup,
    fun hoff => ?_, fun x hx => (hsend.ctx x).trans (hother x hx)⟩
  rw [(hsend.quiet (by rw [husetup.2.2, hrun.on, hoff])).1, husetup.2.1, hrun.mem hoff]

/-- Settles O12: the target is marked as saving, and its descriptors meet their endings. -/
theorem admitSave : Obligations.AdmitSave := by
  intro c s s1 d par h hd hstarted htgt
  have hrun := started_startedIn h hd hstarted
  have hexec := exec_of_service h hd (row := Instr.saveContext) (by simp [admitRows]) (by simp) _ rfl
  rw [if_neg (by omega), if_neg (by omega), if_neg (by omega), if_pos rfl] at hexec
  generalize startedIn s1 c _ = run at hrun hexec
  generalize bits d.soff 11 0 = tgt at htgt hexec ⊢
  have hne : ({ run.ctx tgt with saving := true } : Ctx) ≠ {} := Ctx.ne_of_saving rfl
  generalize hu : run.modCtx tgt (fun x => { x with saving := true }) = u
  have hutgt : (u.ctx tgt).saving = true := by rw [← hu, State.ctx_modCtx hne]
  have huc : u.ctx c = run.ctx c := by rw [← hu, State.ctx_modCtx_other hne (Ne.symm htgt)]
  have husetup : SameSetup run u ∧ u.mem = run.mem ∧ u.trace.on = run.trace.on :=
    hu ▸ ⟨⟨rfl, rfl, rfl, rfl, rfl, rfl, rfl, rfl, rfl, rfl, rfl, rfl, rfl⟩, rfl, rfl⟩
  have hstop : stopTarget run tgt = endCtx u tgt stCANCELLED (fun d => d.isColl || d.op == opLEASE) := by
    rw [← hu]
    rfl
  have hends := EndsOnly.endCtx u tgt stCANCELLED (fun d => d.isColl || d.op == opLEASE)
  rw [← hstop] at hends
  obtain ⟨l, hl⟩ := hends.own
  refine ⟨_, hexec, by rw [hl]; exact hutgt, ?_, (hrun.setup.trans' husetup.1).trans' hends.setup, fun hoff => ?_⟩
  · rw [State.desc?, hends.other c (Ne.symm htgt), huc]
    exact hrun.desc
  · rw [(hends.quiet (by rw [husetup.2.2, hrun.on, hoff])).1, husetup.2.1, hrun.mem hoff]

/-- Settles O13: SIGNATURE runs as it starts, or waits for the watch unit. -/
theorem admitSignature : Obligations.AdmitSignature := by
  intro c s s1 d par h hd hstarted
  have hrun := started_startedIn h hd hstarted
  have hexec := exec_of_service h hd (row := Instr.signature) (by simp [admitRows]) (by simp) _ rfl
  rw [if_neg (by omega), if_neg (by omega), if_neg (by omega), if_neg (by omega), if_neg (by omega)] at hexec
  refine ⟨_, hexec, hrun.desc, hrun.setup, hrun.links, hrun.mem, hrun.other, fun u hcmp hover hgate => ?_⟩
  have hgoes : ({ admittedAs d par (s.eng (s.engOf c)).epoch with started := true } : Desc).over = false := by
    simp only [Desc.over, admittedAs, Bool.or_eq_false_iff, Option.isSome_none, and_true] at hover ⊢
    exact ⟨hover.1.1, hover.2⟩
  have hwrite := runSignature_mem hrun.desc hgoes hcmp hgate
  exact hwrite

/-- Settles O14: RESTORE_CONTEXT marks its target and runs as it starts; an image that passes is taken up. -/
theorem admitRestore : Obligations.AdmitRestore := by
  refine ⟨fun c s s1 d par h hd hstarted htgt => ?_, fun c q s u v d hd hover hhead hroom hfit hbody hcheck => ?_⟩
  · have hrun := started_startedIn h hd hstarted
    have hexec := exec_of_service h hd (row := Instr.restoreContext) (by simp [admitRows]) (by simp) _ rfl
    rw [if_neg (by omega), if_neg (by omega), if_neg (by omega), if_neg (by omega), if_pos rfl] at hexec
    generalize startedIn s1 c _ = run at hrun hexec
    have hne : ({ run.ctx (bits d.doff 11 0) with restoring := true } : Ctx) ≠ {} := Ctx.ne_of_restoring rfl
    refine ⟨run.modCtx (bits d.doff 11 0) (fun x => { x with restoring := true }), hexec, ?_, ?_, ?_, hrun.links, hrun.mem,
      fun x hx hxt => ?_⟩
    · rw [State.ctx_modCtx hne]
    · rw [State.desc?, State.ctx_modCtx_other hne (Ne.symm htgt)]
      exact hrun.desc
    · exact hrun.setup.trans' ⟨rfl, rfl, rfl, rfl, rfl, rfl, rfl, rfl, rfl, rfl, rfl, rfl, rfl⟩
    · rw [State.ctx_modCtx_other hne hxt, hrun.other x hx]
  · have hreads := postReads_eq v c
      [{ win := d.swin, lo := d.soff, hi := d.soff + Mem.rd u.mem (u.addrOf d.swin d.soff + 0x0C) 4 }]
    generalize hw : postReads v c
      [{ win := d.swin, lo := d.soff, hi := d.soff + Mem.rd u.mem (u.addrOf d.swin d.soff + 0x0C) 4 }] = w at hreads
    have hmem : w.mem = v.mem := by rw [hreads]
    have hcheck' : imageCheck w (bits d.doff 11 0) ((s.win d.swin).bytes - d.soff)
        (Mem.bytes w.mem (u.addrOf d.swin d.soff) (Mem.rd u.mem (u.addrOf d.swin d.soff + 0x0C) 4)) = none := by
      rw [hmem, ← hcheck, hreads]
      rfl
    rw [runRestore_of_passes hd hover hhead hroom rfl hfit hbody w hw.symm hcheck', hmem]

/-- Settles O15: the group of the descriptor becomes present as its checks pass. -/
theorem admitCollective : Obligations.AdmitCollective := by
  intro row op c s s1 d par A g l hrow hnext hop hpb hpe hload hd hA hl hwait hg hcheck hnew hticket hlive hann
  have hop' : op = 0x10 ∨ op = 0x11 := by simpa using op_of_mem_rows hrow
  have hmem : (row, op) ∈ admitRows := by
    simp only [admitRows, List.mem_cons, List.not_mem_nil, or_false] at hrow ⊢
    grind
  have hcoll : d.isColl = true := by
    rw [Desc.isColl, hop]
    rcases hop' with rfl | rfl <;> decide
  have hread := (paramRead_of_loadParam hload).eng
  have heng : s1.engOf c = s.engOf c := by rw [State.engOf, hread.ctx, State.engOf]
  have hepoch := (loadParam_ctx hload).2
  have hseq : A.seq = d.seq := by rw [hA]; rfl
  have hAcoll : A.isColl = true := by rw [hA]; exact hcoll
  have hdesc := desc?_admittedIn hload hd hseq
  generalize hu : (admittedIn s1 c A).modCtx c (fun x => { x with lastTicket := A.ticket }) = u
  have hwork : WorkOnly True c (admittedIn s1 c A) u := hu ▸ .modCtx_sameWork _ (fun _ => ⟨rfl, rfl, rfl, rfl⟩)
  have hudesc : u.desc? c d.seq = some A := hu ▸ State.desc?_modCtx (fun _ => ⟨rfl, rfl, rfl, rfl⟩) hdesc
  have hueng : u.engOf c = s.engOf c := by
    have hne : ({ (admittedIn s1 c A).ctx c with lastTicket := A.ticket } : Ctx) ≠ {} :=
      Ctx.ne_of_descs (State.descs_ne_nil hdesc)
    rw [← engOf_admittedIn hload hd (A := A), ← hu, State.engOf, State.ctx_modCtx hne]
    rfl
  obtain ⟨hwctxs, hwmem, hwsetup, hwlinks, hwerr, -, hwout⟩ := wantWatch_facts u (s.engOf c) A
  generalize hw : wantWatch u (s.engOf c) A = w at hwctxs hwmem hwsetup hwlinks hwerr hwout
  have hwctx : ∀ x, w.ctx x = u.ctx x := fun x => by rw [State.ctx, hwctxs, State.ctx]
  have hwdesc : w.desc? c A.seq = some A := by rw [State.desc?, hwctx, hseq]; exact hudesc
  have hwlink : ∀ p, w.link p = s.link p := fun p => by
    rw [State.link, hwlinks, hwork.links, State.link, ← hread.links]
    rfl
  have hfirst := admitColl_of_first (p := s.engOf c - 96) (g := g) hwdesc (by rw [hwlink, ← hl]; exact hnew)
    (by rw [hwlink, ← hl]; exact hticket) (by rw [hwlink, ← hl]; exact hlive) (by rw [hwlink, ← hl]; exact hann)
  have hexec : exec (row c) s = .next (admitColl w (s.engOf c - 96) c A g) := by
    have hboth : (({ d with par := par } : Desc).isColl && ({ d with par := par } : Desc).pb) = true := by
      rw [show ({ d with par := par } : Desc).isColl = true from hcoll, show ({ d with par := par } : Desc).pb = true from hpb]
      rfl
    have hgroup : g = if ({ d with par := par } : Desc).isColl && ({ d with par := par } : Desc).pb && isPe (s1.engOf c) then
        groupFor s1 (s1.engOf c - 96) { d with par := par } else {} := by
      rw [hboth, heng, hpe, hg]
      rfl
    have hadmit := admitDesc_of_passes (s1 := s1) (c := c) (d := { d with par := par }) (A := A)
      (by rw [hA, heng, hepoch]; rfl) hgroup hcheck hboth u (by rw [← hu, hA]; rfl)
    rw [exec_admitRow hmem c s, admitRow]
    simp only [hnext, hop, decide_true, Bool.true_or, if_true, hload, hwait, Bool.false_eq_true, if_false, hadmit,
      State.desc_of hudesc]
    simp only [beginDesc, hAcoll, if_true, hueng, hw]
  rw [hexec, hfirst]
  have hjoined : (w.modLink (s.engOf c - 96) (fun l => l.joined A g)).link (s.engOf c - 96) = l.joined A g := by
    rw [State.link_modLink (Link.joined_ne _ A g), hwlink, hl]
  refine ⟨_, rfl, ?_, ?_, ?_, ?_, fun hwf => ?_, ?_, ?_, ?_, ?_, fun x hx => ?_⟩
  · rw [← hseq]
    exact State.desc?_modDesc_eq (s := w.modLink _ _) (show _ = some A from hwdesc) rfl rfl
  · rw [State.modDesc_link, hjoined]
    rfl
  · rw [State.modDesc_link, hjoined]
    rfl
  · rw [State.modDesc_link, hjoined]
    rfl
  · rw [State.modDesc_link, hjoined]
    exact Link.joined_job l A g hwf
  · exact (hwmem.trans (hwork.mem trivial)).trans hread.mem
  · exact (((sameSetup_admittedIn hload).trans' hwork.setup).trans' hwsetup).trans'
      ((SendOnly.modLink w _ _).setup.trans' (.modDesc _ _ _ _))
  · rw [State.modDesc_outputs, State.modLink_outputs, hwout, ← hu]
    rfl
  · exact (hwerr.trans hwork.err).trans hread.err
  · refine (modDesc_other (s := w.modLink _ _) (show _ = some A from hwdesc) hx).trans ?_
    rw [State.modLink_ctx, hwctx, hwork.other (State.descs_ne_nil hdesc) x hx]
    exact ctx_admittedIn hload hd hseq hx

end Sys2Proof.Laws
end

section
/-! Sample points (R316) and the ribbon (R331 to R336): the ports leave everything of an engine but its requests, and the fclk
that pass up to a point are counted. -/

namespace Sys2Proof.Machine

/-! ## Everything of an engine but its requests -/

/-- An engine with its requests left out. -/
def Engine.besideReqs (x : Engine) : Engine := { x with reqs := [] }

/-- From `s` to `t` every engine keeps all but its requests. -/
def PortsSame (s t : State) : Prop := ∀ j, (t.eng j).besideReqs = (s.eng j).besideReqs

namespace PortsSame

theorem rfl' (s : State) : PortsSame s s := fun _ => rfl

theorem trans' {s t u : State} (h : PortsSame s t) (k : PortsSame t u) : PortsSame s u := fun j => (k j).trans (h j)

/-- Operations that leave the table of engines. -/
theorem ofEngines {s t : State} (h : t.engines = s.engines) : PortsSame s t := fun j => by rw [State.eng, h, State.eng]

theorem out (s : State) (o : Output) : PortsSame s (s.out o) := ofEngines rfl
theorem stackDef (s : State) (m : List (Nat × Nat)) : PortsSame s { s with stackDef := m } := ofEngines rfl
theorem setMem (s : State) (m : Mem) : PortsSame s (s.setMem m) := ofEngines rfl

theorem foldl {α : Type} {f : State → α → State} (hf : ∀ s x, PortsSame s (f s x)) (s : State) (l : List α) :
    PortsSame s (l.foldl f s) := by
  induction l generalizing s with
  | nil => exact rfl' s
  | cons x r ih => exact (hf s x).trans' (ih _)

/-- A change of the requests of one engine that leaves some. -/
theorem modReqs {s : State} {e : Nat} {f : List Req → List Req} (h : f (s.eng e).reqs ≠ []) :
    PortsSame s (s.modEng e (fun x => { x with reqs := f x.reqs })) := by
  intro j
  have hne : ({ s.eng e with reqs := f (s.eng e).reqs } : Engine) ≠ {} := fun hdef => h (congrArg Engine.reqs hdef)
  by_cases hj : j = e
  · subst hj
    rw [State.eng_modEng hne]
    rfl
  · rw [State.eng_modEng_other hne hj]

theorem presentReq (s : State) (e : Nat) (net : Bool) (p : Req → Bool) (tag : Option Nat) :
    PortsSame s (presentReq s e net p tag) := by
  unfold Machine.presentReq
  split
  · next t r hr =>
    have hreqs : (s.eng e).reqs ≠ [] := fun hnil => by rw [hnil] at hr; cases hr
    have hmod := modReqs (s := s) (f := sendFirst (fun r => r.waits net && p r) t)
      (IslandSame.sendFirst_ne_nil _ _ hreqs)
    extract_lets u
    split
    · exact hmod
    · exact hmod.trans' (out u _)
  · exact rfl' s

theorem issueNet (s : State) (e : Nat) : PortsSame s (issueNet s e) := foldl (fun s _ => presentReq s e _ _ _) s _

theorem issueStack (s : State) (k : Nat) : PortsSame s (issueStack s k) := by
  unfold Machine.issueStack
  extract_lets u l r v
  have hu : PortsSame s u := by
    refine foldl (fun s e => ?_) s _
    exact foldl (fun s _ => presentReq s _ _ _ _) _ _
  have hv : PortsSame u v := foldl (fun s _ => presentReq s _ _ _ _) u _
  exact (hu.trans' hv).trans' (stackDef v _)

theorem issueReqs (s : State) (e : Nat) : PortsSame s (issueReqs s e) := by
  unfold Machine.issueReqs
  split
  · exact (issueNet s e).trans' (issueStack _ _)
  · exact issueNet s e

theorem sendReqs (s : State) (e : Nat) (l : List Req) : PortsSame s (s.sendReqs e l) := by
  unfold State.sendReqs
  split
  · exact rfl' s
  · next hl =>
    have hl' : l ≠ [] := by simpa using hl
    exact (modReqs (f := (· ++ l)) fun hnil => hl' (List.append_eq_nil_iff.1 hnil).2).trans' (issueReqs _ e)

theorem writeRecord (s : State) (e c a : Nat) (l : List Byte) : PortsSame s (writeRecord s e c a l) :=
  (setMem s _).trans' (sendReqs _ _ _)

end PortsSame

/-! ## A sample record (R316) -/

theorem Engine.ne_of_works {x : Engine} (h : x.works = true) : x ≠ {} := fun hdef => by rw [hdef] at h; cases h

section Record
variable {s : State} {e : Nat} (hworks : (s.eng e).works = true) (kind tag time : Nat) (k : Counters)

/-- What a sample record writes, and to where. -/
theorem writeSample_mem : (writeSample s e kind tag time k).mem =
    Mem.wrBytes s.mem (s.samp.base * 256 + 256 * (e * s.samp.slots + (s.eng e).recNo % s.samp.slots))
      (sampleBytes k time (if kind = 1 then ((s.eng e).sampleNo + 1) % 2 ^ 32 else (s.eng e).sampleNo) e kind tag (s.eng e).fcur
        (if isPe e then k.rescales else 0) (s.eng e).recNo) := by
  unfold writeSample writeRecord
  rw [State.modEng_mem, (EngOnly.sendReqs _ _ _).mem, State.setMem_mem]

theorem writeSample_frame : ∃ m : Mem, EngOnly (s.setMem m) (writeSample s e kind tag time k) := by
  unfold writeSample writeRecord
  exact ⟨_, (EngOnly.sendReqs _ _ _).trans' (.modEng _ e _)⟩

theorem presents_writeSample : Presents s (writeSample s e kind tag time k) :=
  (Presents.writeRecord s _ _ _ _).trans' (.modEng _ _ _)

include hworks

/-- The engine counts the record, and keeps everything else but its requests. -/
theorem writeSample_eng : ((writeSample s e kind tag time k).eng e).besideReqs = { (s.eng e).besideReqs with
    recNo := ((s.eng e).recNo + 1) % 2 ^ 32
    sampleNo := if kind = 1 then ((s.eng e).sampleNo + 1) % 2 ^ 32 else (s.eng e).sampleNo } := by
  unfold writeSample
  extract_lets x no a u
  have hu : (u.eng e).besideReqs = (s.eng e).besideReqs := PortsSame.writeRecord s e noCtx a _ e
  have hon : ({ u.eng e with recNo := ((u.eng e).recNo + 1) % 2 ^ 32, sampleNo := no } : Engine) ≠ {} := by
    refine Engine.ne_of_works ?_
    have hsame := congrArg Engine.works hu
    exact Eq.trans hsame hworks
  rw [State.eng_modEng hon]
  exact congrArg (fun y : Engine => { y with recNo := (y.recNo + 1) % 2 ^ 32, sampleNo := no }) hu

end Record

/-! ## The fclk up to a point (R314, R317) -/

theorem Counters.stall_fclk (k : Counters) (cl n : Nat) : (k.stall cl n).fclk = k.fclk := by
  unfold Counters.stall
  split
  · rfl
  · split
    · rfl
    · split <;> rfl

/-- Contexts that are counted change nothing but contexts. -/
theorem foldl_modCtx_eq (f : Ctx → Ctx) (l : List Nat) (s : State) :
    l.foldl (fun s c => s.modCtx c f) s = { s with ctxs := (l.foldl (fun s c => s.modCtx c f) s).ctxs } := by
  induction l generalizing s with
  | nil => rfl
  | cons c l ih =>
    rw [List.foldl_cons, ih (s.modCtx c f)]
    rfl

/-- What the engine keeps while its fclk are counted. -/
structure Engine.SameSampling (x y : Engine) : Prop where
  st : y.st = x.st
  fenced : y.fenced = x.fenced
  recNo : y.recNo = x.recNo
  sampleNo : y.sampleNo = x.sampleNo
  fcur : y.fcur = x.fcur
  sampEff : y.sampEff = x.sampEff
  ctxEff : y.ctxEff = x.ctxEff

theorem Engine.SameSampling.works {x y : Engine} (h : x.SameSampling y) : y.works = x.works := by
  rw [Engine.works, h.st, h.fenced, Engine.works]

/-- An engine whose t_c has come fixes its counters (R332). -/
def Engine.cutFixed (x : Engine) : Engine :=
  if x.cut.marked && !x.cut.fixed then { x with cut := { x.cut with fixed := true, frozen := x.cnt } } else x

theorem Engine.sameSampling_cutFixed (x : Engine) : x.SameSampling x.cutFixed ∧ x.cutFixed.cnt = x.cnt := by
  unfold cutFixed
  split <;> exact ⟨⟨rfl, rfl, rfl, rfl, rfl, rfl, rfl⟩, rfl⟩

theorem Engine.SameSampling.trans' {x y z : Engine} (h : x.SameSampling y) (k : y.SameSampling z) : x.SameSampling z :=
  ⟨k.st.trans h.st, k.fenced.trans h.fenced, k.recNo.trans h.recNo, k.sampleNo.trans h.sampleNo, k.fcur.trans h.fcur,
    k.sampEff.trans h.sampEff, k.ctxEff.trans h.ctxEff⟩

/-- From `s` to `u` only engines and contexts have changed, and engine `e` keeps what a sample point reads of it. -/
structure Passed (s u : State) (e n : Nat) : Prop where
  same : (s.eng e).SameSampling (u.eng e)
  fclk : (u.eng e).cnt.fclk = (s.eng e).cnt.fclk + n
  frame : u = { s with engines := u.engines, ctxs := u.ctxs }

/-- `n` fclk of a working engine are counted. -/
theorem passed_passFclk {s : State} {e : Nat} (hworks : (s.eng e).works = true) (n : Nat) :
    Passed s (passFclk s e n) e n := by
  by_cases hn : n = 0
  · subst hn
    exact ⟨⟨rfl, rfl, rfl, rfl, rfl, rfl, rfl⟩, rfl, rfl⟩
  · rw [passFclk, if_neg hn]
    extract_lets cl v
    have hread : v.eng e = { (s.eng e).earn e n with
        cnt := if (s.eng e).issued then
            ({ (s.eng e).cnt with fclk := (s.eng e).cnt.fclk + n, active := (s.eng e).cnt.active + 1 } : Counters).stall cl
              (n - 1)
          else ({ (s.eng e).cnt with fclk := (s.eng e).cnt.fclk + n } : Counters).stall cl n
        issued := false } := State.eng_modEng (Engine.ne_of_works hworks)
    have hcount : (v.eng e).cnt.fclk = (s.eng e).cnt.fclk + n := by
      rw [hread]
      simp only
      split <;> rw [Counters.stall_fclk]
    have hsame : (s.eng e).SameSampling (v.eng e) := by
      rw [hread]
      exact ⟨rfl, rfl, rfl, rfl, rfl, rfl, rfl⟩
    rw [foldl_modCtx_eq]
    exact ⟨hsame, hcount, rfl⟩

/-- `n` fclk of a working engine pass, and t_c may end. -/
theorem passed_fixCut {s : State} {e : Nat} (hworks : (s.eng e).works = true) (n : Nat) :
    Passed s (fixCut (passFclk s e n) e) e n := by
  obtain ⟨hsame, hfclk, hframe⟩ := passed_passFclk hworks n
  obtain ⟨kept, hcnt⟩ := ((passFclk s e n).eng e).sameSampling_cutFixed
  have hread : (fixCut (passFclk s e n) e).eng e = ((passFclk s e n).eng e).cutFixed :=
    State.eng_modEng (f := Engine.cutFixed)
      (Engine.ne_of_works ((kept.works.trans hsame.works).trans hworks))
  refine ⟨by rw [hread]; exact hsame.trans' kept, by rw [hread, hcnt, hfclk], ?_⟩
  rw [fixCut, State.modEng, State.setEng, hframe]

/-- The passing of fclk leaves the time. -/
theorem passed_time (s : State) (e n : Nat) : (fixCut (passFclk s e n) e).time = s.time := by
  have hpass : (passFclk s e n).time = s.time := by
    by_cases hn : n = 0
    · rw [passFclk, if_pos hn]
    · rw [passFclk, if_neg hn]
      simp only
      rw [foldl_modCtx_eq]
      rfl
  exact hpass

theorem le_nextPoint (x : Engine) : x.cnt.fclk ≤ nextPoint x := by
  have hceil : x.cnt.fclk ≤ ceilDiv x.cnt.fclk sampleSpan * sampleSpan := by
    unfold ceilDiv sampleSpan
    omega
  exact Nat.le_trans hceil (Nat.le_max_left _ _)

end Sys2Proof.Machine

namespace Sys2Proof.Laws
open Sys2Proof Sys2Proof.Machine

/-- Settles O44: the fclk up to the point are counted, and the periodic record of the engine is written. -/
theorem samplePoint : Obligations.SamplePoint := by
  intro e s u hworks hhold hon hctx heff hu
  obtain ⟨hsame, hcount, hframe⟩ := passed_fixCut hworks (nextPoint (s.eng e) - (s.eng e).cnt.fclk)
  rw [← hu] at hsame hcount hframe
  have hfclk : (u.eng e).cnt.fclk = nextPoint (s.eng e) := by
    rw [hcount]
    exact Nat.add_sub_cancel' (le_nextPoint _)
  have huworks : (u.eng e).works = true := hsame.works.trans hworks
  obtain ⟨husamp, hutime, humem, huout⟩ : u.samp = s.samp ∧ u.time = s.time ∧ u.mem = s.mem ∧ u.outputs = s.outputs := by
    rw [hframe]
    exact ⟨rfl, rfl, rfl, rfl⟩
  have husetup : SameSetup s u ∧ u.links = s.links ∧ u.err = s.err ∧ u.trace = s.trace := by
    rw [hframe]
    exact ⟨⟨rfl, rfl, rfl, rfl, rfl, rfl, rfl, rfl, rfl, rfl, rfl, rfl, rfl⟩, rfl, rfl, rfl⟩
  have hwmem := writeSample_mem (s := u) (e := e) 1 0 u.time (u.eng e).cnt
  obtain ⟨m, hwframe⟩ := writeSample_frame (s := u) (e := e) 1 0 u.time (u.eng e).cnt
  have hweng := writeSample_eng huworks 1 0 u.time (u.eng e).cnt
  obtain ⟨l, hl, hreq⟩ := presents_writeSample (s := u) (e := e) 1 0 u.time (u.eng e).cnt
  generalize hw : writeSample u e 1 0 u.time (u.eng e).cnt = w at hwmem hwframe hweng hl
  have hwworks : (w.eng e).works = true := by
    have hkept := congrArg Engine.works hweng
    exact Eq.trans hkept huworks
  have hwsamp : w.samp = s.samp := hwframe.setup.samp.trans husamp
  have hexec : exec (.samplePoint e) s = .next (w.modEng e (fun x => { x with
      sampEff := w.samp.on, ctxEff := w.samp.ctxOn, lastPoint := x.cnt.fclk })) := by
    change execSamplePoint e s = _
    rw [execSamplePoint, if_pos (by simp [hworks, hhold])]
    simp only [Machine.samplePoint, ← hu, husamp, hon, Bool.true_or, if_true, hw, hwsamp, hctx, hsame.ctxEff, heff,
      Bool.or_self, Bool.false_eq_true, if_false]
  have hread : (w.modEng e (fun x => { x with
      sampEff := w.samp.on, ctxEff := w.samp.ctxOn, lastPoint := x.cnt.fclk })).eng e = { w.eng e with
        sampEff := w.samp.on, ctxEff := w.samp.ctxOn, lastPoint := (w.eng e).cnt.fclk } :=
    State.eng_modEng (Engine.ne_of_works hwworks)
  have hwcnt : (w.eng e).cnt.fclk = nextPoint (s.eng e) :=
    (congrArg (fun x : Engine => x.cnt.fclk) hweng).trans hfclk
  refine ⟨_, hexec, ?_, ?_, ?_, ?_, ?_, ?_, ?_, ?_, ?_, ?_, l, ?_, List.all_eq_true.1 hreq⟩
  · rw [State.modEng_mem, hwmem, humem, husamp, hutime, hsame.recNo, hsame.sampleNo, hsame.fcur, if_pos rfl]
  · rw [hread, ← hsame.recNo]
    exact congrArg Engine.recNo hweng
  · rw [hread, ← hsame.sampleNo]
    exact congrArg Engine.sampleNo hweng
  · rw [hread, hwsamp]
    exact hon
  · rw [hread]
    exact hwcnt
  · rw [hread]
    exact hwcnt
  · exact ((husetup.1.trans' (.setMem u m)).trans' hwframe.setup).trans' (EngOnly.modEng w e _).setup
  · exact hwframe.links.trans husetup.2.1
  · exact hwframe.err.trans husetup.2.2.1
  · exact hwframe.trace.trans husetup.2.2.2
  · rw [State.modEng_outputs, hl, huout]

/-- Settles O46: the grant, the marker at the head of the channel or behind epochs, and the capture. -/
theorem ribbonCut : Obligations.RibbonCut := by
  intro e s x hx
  subst hx
  refine ⟨fun c q d rest hbusy hrib hrest hd hover => ?_, fun tag hold l hpart hmarked hworks hchan => ?_,
    fun n l hpart hmarked hworks hchan => ?_, fun hpart hmarked hcap hin => ⟨_, _, rfl, rfl, ?_⟩⟩
  · have hwait : s.trace.ribbons.filter (fun r => !(s.desc r.1 r.2).over && (s.desc? r.1 r.2).isSome) = (c, q) :: rest := by
      rw [hrib, List.filter_eq_self]
      intro r hr
      rcases List.mem_cons.1 hr with rfl | hr
      · simp [State.desc_of hd, hover, hd]
      · obtain ⟨hsome, hgoes⟩ := hrest r hr
        simp [hsome, hgoes]
    change execRibbonGrant s = _
    simp only [execRibbonGrant, hbusy, Bool.false_eq_true, if_false, grantRibbon, hwait, State.desc_of hd]
    rfl
  · have hahead : takeAhead s e = s := by
      simp [takeAhead, hchan, forN]
    change execRibbonMarker e s = _
    simp only [execRibbonMarker, hpart, hmarked, hworks, Bool.not_false, Bool.and_self, if_true, hahead, hchan, cutPoint,
      State.modEng, List.drop_one, List.tail_cons]
  · have hdue : ((s.eng e).cut.part && !(s.eng e).cut.marked && (s.eng e).works) = true := by
      rw [hpart, hmarked, hworks]
      rfl
    exact congrArg Host.Outcome.next (if_pos hdue)
  · change execCutCapture e s = _
    simp only [execCutCapture, hpart, hmarked, hcap, hin, Bool.not_false, Bool.and_self, if_true, capture, State.modEng]
    generalize hu : (if (s.eng e).cut.fixed = true then s else fixCut (passFclk s e 1) e) = u
    generalize hv : (if (u.eng e).sampEff = true then
      writeSample u e 2 (u.eng e).cut.tag (u.eng e).cut.tc (u.eng e).cut.frozen else u) = v
    have hutime : u.time = s.time := by
      rw [← hu]
      split
      · rfl
      · exact passed_time s e 1
    have hvtime : v.time = s.time := by
      rw [← hv, ← hutime]
      split
      · obtain ⟨m, hm⟩ := writeSample_frame (s := u) (e := e) 2 (u.eng e).cut.tag (u.eng e).cut.tc (u.eng e).cut.frozen
        exact hm.setup.time
      · rfl
    rw [hvtime]

end Sys2Proof.Laws
end

section
/-! Claims: polls and swaps of flags, responses of the boundary, and the exchange of a drain (R99, R146 to R152, R307). -/

namespace Sys2Proof.Machine

/-- A key that a filter leaves out reads as the default. -/
theorem SMap.get_filter_of_excluded {α : Type} (m : List (Nat × α)) (d : α) (k : Nat) (p : Nat × α → Bool)
    (h : ∀ v, p (k, v) = false) : SMap.get (m.filter p) d k = d := by
  induction m with
  | nil => rfl
  | cons x r ih =>
    obtain ⟨a, v⟩ := x
    by_cases hp : p (a, v) = true
    · have hka : k ≠ a := fun hk => by simp [← hk, h] at hp
      rw [List.filter_cons_of_pos hp, SMap.get, if_neg hka, ih, ite_self]
    · rw [List.filter_cons_of_neg hp, ih]

/-- A change of a descriptor leaves its context on its engine. -/
theorem State.engOf_modDesc {s : State} {c q : Nat} {d : Desc} (h : s.desc? c q = some d) (f : Desc → Desc) :
    (s.modDesc c q f).engOf c = s.engOf c := by
  have hne : (s.ctx c).descs.map (fun d => if d.seq = q then f d else d) ≠ [] :=
    fun hnil => State.descs_ne_nil h (List.map_eq_nil_iff.1 hnil)
  rw [State.engOf, State.modDesc, State.ctx_modCtx (Ctx.ne_of_descs hne)]
  rfl

/-- A swap of a chunk's flag asks for the word with the wanted value, where the expected one stands. -/
theorem sendSwap_eq {s : State} {c q : Nat} {d : Desc} (h : s.desc? c q = some d) (w k kind word : Nat) :
    sendSwap s c q w k kind word =
      (s.modDesc c q (·.setPhase w k (if kind = 1 then phSWAP else if kind = 2 then phTODONE else phTOFAULT))).sendReqs (s.engOf c)
        [{ net := true, kind := kind, ctx := c, seq := q, win := w, chunk := k, addr := (s.win w).flagAddr k
           expect := withFlag word k (swapFrom kind)
           data := leBytes 4 (withFlag word k (swapFrom kind)) ++ leBytes 4 (withFlag word k (swapValue kind)) }] := by
  simp only [sendSwap, State.modDesc_win, State.engOf_modDesc h]

/-- A descriptor whose tag is the engine's epoch keeps its rights. -/
theorem reEvaluate_of_current {s : State} {c q : Nat} {d : Desc} (h : s.desc? c q = some d)
    (ht : before32 d.tag (s.eng (s.engOf c)).epoch = false) : reEvaluate s c q = s := by
  simp [reEvaluate, State.desc_of h, ht]

/-- A poll that may be made acts on the word read. -/
theorem exec_flagPoll_of_polls {c q : Nat} {word : Word32} {s : State} {d : Desc} {k : Claim} (hd : s.desc? c q = some d)
    (hcar : carries s (s.engOf c) = true) (hon : (s.eng (s.engOf c)).isOn = true ∨ runsOn d = true) (hover : d.over = false)
    (hclaim : s.mayClaim c d = true) (ht : before32 d.tag (s.eng (s.engOf c)).epoch = false)
    (hk : d.claims.find? (fun k => k.phase == 4) = some k) (htrack : s.mayTrack c q = true) :
    exec (.flagPoll c q word) s =
      .next (claimFrom (readMem s (s.engOf c) ((s.win k.win).flagAddr k.chunk) 4) c q k.win k.chunk word.toNat) := by
  have hpolls : (carries s (s.engOf c) && ((s.eng (s.engOf c)).isOn || runsOn d) && !d.over && s.mayClaim c d) = true := by
    simp [hcar, hon, hover, hclaim]
  have hfind : d.claims.find? (fun k => k.phase == phWAIT) = some k := hk
  change execFlagPoll c q word s = _
  simp only [execFlagPoll, State.desc_of hd]
  rw [if_pos hpolls]
  simp only [reEvaluate_of_current hd ht, State.desc_of hd, hfind, hover, htrack, Bool.not_true, Bool.or_self,
    Bool.false_eq_true, if_false]

/-- A chunk that the descriptor holds, with nothing left of it, is finished: by a swap in a flagged window. -/
theorem exec_chunkDone_of_finished {c q w k : Nat} {s : State} {d : Desc} (hd : s.desc? c q = some d)
    (hcar : carries s (s.engOf c) = true) (hph : d.phaseOf w k = some 1) (hwr : writePending s c q w k = false)
    (htouch : touchesStill s c d w k = false) :
    exec (.chunkDone c q w k) s = .next (if (s.win w).flagged = true then sendSwap s c q w k 2 (s.flagWord w k)
      else s.modDesc c q (·.setPhase w k 5)) := by
  have hfin : chunkFinished s c d w k = true := by
    simp [chunkFinished, Desc.holds, hph, State.desc?_seq hd, hwr, htouch, phCLAIMED]
  change execChunkDone c q w k s = _
  simp only [execChunkDone, State.desc_of hd, hcar, hfin, Bool.and_self, if_true]
  rfl

/-! ## Responses -/

/-- Outside a hold, with nothing kept from one, a response takes effect at once. -/
theorem response_of_free {e : Nat} {s : State} (hh : (s.eng e).holding = false) (hkept : (s.eng e).heldResp = []) (net : Bool)
    (r : RespFor) (st : RespStatus) (hst : (st == .marker) = false) (w : Word32) :
    response s e net r st w = linkOn (takeResponse s e net r st w) e := by
  have hkeep : takeHeld s e = s := by simp [takeHeld, hkept]
  simp [response, hst, hh, hkeep]

/-- The good answer to a request takes it away and sends the next. -/
theorem takeTagged_ok {e t : Nat} {net : Bool} {s : State} {r : Req}
    (h : (s.eng e).reqs.find? (fun r => r.sent && r.tag == t && r.net == net && r.kind != 5) = some r) (hk : r.kind < 4)
    (old : Nat) :
    takeTagged s e t net .ok old =
      if r.kind = 0 then issueReqs (s.modEng e (fun x => { x with reqs := x.reqs.erase r })) e
      else swapAnswer (issueReqs (s.modEng e (fun x => { x with reqs := x.reqs.erase r })) e) r old := by
  have hok : (RespStatus.ok == RespStatus.ok) = true := rfl
  simp only [takeTagged, h, hok, if_true, if_neg (show ¬ 4 ≤ r.kind by omega)]

end Sys2Proof.Machine

namespace Sys2Proof.Laws
open Sys2Proof Sys2Proof.Machine

/-- Settles O18: a poll acts on the word as read, and a finished chunk of a flagged window is swapped. -/
theorem flagSwaps : Obligations.FlagSwaps := by
  unfold Obligations.FlagSwaps
  refine ⟨?_, ?_⟩
  · intro c q a word s u d k hd hcar hon hover hclaim ht hk htrack ha hu
    have hread := EngOnly.readMem s (s.engOf c) a 4
    rw [← hu] at hread
    have hud : u.desc? c q = some d := (hread.desc? c q).trans hd
    have hexec := exec_flagPoll_of_polls (word := word) hd hcar hon hover hclaim ht hk htrack
    rw [← ha, ← hu] at hexec
    refine ⟨fun hready => ?_, fun hwait => ?_⟩
    · have hwin : u.win = s.win := by funext w; simp only [State.win, hread.setup.windows]
      have heng : u.engOf c = s.engOf c := by rw [State.engOf, hread.ctx, State.engOf]
      rw [hexec, claimFrom, if_pos (by exact hready), sendSwap_eq hud, hwin, ← ha, heng]
      rfl
    · rw [hexec, claimFrom, if_neg (by exact hwait)]
      rfl
  · intro c q w k s d hd hcar hph hwr htouch
    have hexec := exec_chunkDone_of_finished hd hcar hph hwr htouch
    refine ⟨fun hflag => ?_, fun hplain => ?_⟩
    · rw [hexec, if_pos hflag, sendSwap_eq hd]
      rfl
    · rw [hexec, if_neg (by simp [hplain])]

/-- Settles O19: a tagged answer takes its request away; the answer to a swap decides the claim. -/
theorem responses : Obligations.Responses := by
  unfold Obligations.Responses
  intro e s hhold hkept
  refine ⟨?_, ?_⟩
  · intro t net r w u hr hu
    have htake : ∀ (old : Nat), r.kind < 4 →
        takeTagged s e t net .ok old = if r.kind = 0 then u else swapAnswer u r old := fun old hk => by
      rw [takeTagged_ok hr hk, hu]
    have hnet : net = true → exec (.networkResponse e (.tag t) .ok w) s = .next (linkOn (takeTagged s e t net .ok w.toNat) e) :=
      fun hn => by
        subst hn
        exact congrArg Host.Outcome.next (response_of_free hhold hkept true (.tag t) .ok rfl w)
    have hstack : net = false → exec (.stackResponse e (.tag t) .ok) s = .next (linkOn (takeTagged s e t net .ok 0) e) :=
      fun hn => by
        subst hn
        exact congrArg Host.Outcome.next (response_of_free hhold hkept false (.tag t) .ok rfl 0)
    refine ⟨fun hk => ?_, fun hn hk hw => ?_, fun hn hk hw hflag => ?_⟩
    · cases hcase : net with
      | true => rw [if_pos rfl, hnet hcase, htake _ (by omega), if_pos hk]
      | false => rw [if_neg (by simp), hstack hcase, htake _ (by omega), if_pos hk]
    · rw [hnet hn, htake _ (by omega), if_neg (by omega), swapAnswer, if_pos hw]
      rfl
    · rw [hnet hn, htake _ (by omega), if_neg (by omega), swapAnswer, if_neg hw]
      simp only [if_neg (show ¬ r.kind = 1 by omega)]
      rw [if_neg (by exact hflag)]
  · intro c q w k d hd he hnet
    have hhere : readsHere s e false c q ((s.win w).addr + k * (s.win w).chunkBytes) = true := by
      simp [readsHere, he, hnet, hd]
    have hread : takeResponse s e false (.read c q w k) .error 0 = externalRead s c q w k false := by
      have hne : (RespStatus.error == RespStatus.ok) = false := rfl
      simp only [takeResponse, hhere, hne, Bool.not_true, Bool.or_self, Bool.false_eq_true, if_false]
      rfl
    exact congrArg Host.Outcome.next
      ((response_of_free hhold hkept false (.read c q w k) .error rfl 0).trans (by rw [hread]))

/-- Settles O20: the exchange of the next drain, and a check that fails in a step of one. -/
theorem drainExchange : Obligations.DrainExchange := by
  unfold Obligations.DrainExchange
  refine ⟨?_, ?_⟩
  · intro c q s d r hd hr hcar hover hblk htest
    refine ⟨?_, fun k hk _ => SMap.get_filter_of_excluded _ _ _ _ (fun v => ?_)⟩
    · change Host.Outcome.next (exchangeDrain s c q) = _
      simp only [exchangeDrain, State.desc_of hd, hr, hcar, hover, hblk, htest, Bool.not_true, Bool.or_self, Bool.false_eq_true,
        if_false]
    · simp only [Nat.le_add_right, decide_true, Nat.add_lt_add_left hk, Bool.and_self, Bool.not_true]
  · intro c q s k hk
    have hcorr : (k.kind == .secdedCorr) = false := beq_eq_false_iff_ne.2 hk
    have hstep : ∀ run, drainStep s c { seq := q, det := some k } run = checkFails s c { k with seq := some q } := fun run => by
      simp only [drainStep, hcorr, Bool.false_eq_true, if_false]
    exact ⟨congrArg Host.Outcome.next (hstep _), congrArg Host.Outcome.next (hstep _)⟩

end Sys2Proof.Laws
end

section
/-! A strip leaves the words of its descriptor: its 64 bytes, its parameter block, its slot (R171, R181). -/

namespace Sys2Proof.Machine

/-- The same fetched words in the same slot. -/
structure Desc.SameBlock (d e : Desc) : Prop where
  words : e.words = d.words
  par : e.par = d.par
  seq : e.seq = d.seq

namespace Desc.SameBlock

theorem rfl' (d : Desc) : d.SameBlock d := ⟨rfl, rfl, rfl⟩

theorem trans' {d e f : Desc} (h : d.SameBlock e) (k : e.SameBlock f) : d.SameBlock f :=
  ⟨k.words.trans h.words, k.par.trans h.par, k.seq.trans h.seq⟩

/-- A fold over a value that carries a descriptor. -/
theorem foldl {α β : Type} {g : β → Desc} {f : β → α → β} (hf : ∀ b x, (g b).SameBlock (g (f b x))) (b : β) (l : List α) :
    (g b).SameBlock (g (l.foldl f b)) := by
  induction l generalizing b with
  | nil => exact rfl' _
  | cons x r ih => exact (hf b x).trans' (ih _)

theorem forN {β : Type} {g : β → Desc} {f : β → Nat → β} (hf : ∀ b x, (g b).SameBlock (g (f b x))) (b : β) (n : Nat) :
    (g b).SameBlock (g (forN n b f)) :=
  foldl hf b _

theorem op {d e : Desc} (h : d.SameBlock e) : e.op = d.op := by rw [Desc.op, Desc.w, h.words]; rfl

theorem dwin {d e : Desc} (h : d.SameBlock e) : e.dwin = d.dwin := by rw [Desc.dwin, Desc.w, h.words]; rfl
theorem doff {d e : Desc} (h : d.SameBlock e) : e.doff = d.doff := by rw [Desc.doff, Desc.w, h.words]; rfl
theorem statsCfg {d e : Desc} (h : d.SameBlock e) : e.statsCfg = d.statsCfg := by
  simp only [Desc.statsCfg, Desc.dfmtW, Desc.w, h.words]

end Desc.SameBlock

namespace Desc

theorem sameBlock_emit (d : Desc) (f : Fmt) (i code : Nat) (ev : Ev) : d.SameBlock (d.emit f i code ev) := by
  unfold Desc.emit
  extract_lets e c
  split <;> exact ⟨rfl, rfl, rfl⟩

theorem sameBlock_foldObserve (d : Desc) (live : List (Nat × Byte)) : d.SameBlock (foldObserve d live) :=
  SameBlock.foldl (g := id) (fun d _ => d.sameBlock_emit _ _ _ _) d _

end Desc

theorem sameBlock_foldStep (m : Mem) (ta tb : Tensor) (k : Nat) (p : Desc × List (Nat × Byte)) :
    p.1.SameBlock (foldStep m ta tb k p).1 :=
  Desc.SameBlock.foldl (g := Prod.fst) (fun _ _ => by exact ⟨rfl, rfl, rfl⟩) p _

theorem sameBlock_emitElems (st : Strip) (t : Tensor) (lo : Nat) (l : List (Nat × Ev)) :
    st.d.SameBlock (emitElems st t lo l).d :=
  Desc.SameBlock.foldl (g := id) (fun d _ => d.sameBlock_emit _ _ _ _) st.d _

/-! ## The streaming opcodes -/

theorem sameBlock_quantSegment (s : State) (st : Strip) (lo hi : Nat) : st.d.SameBlock (quantSegment s st lo hi).d := by
  unfold quantSegment
  extract_lets d ts td tr n idx a0 a u rs w outs evs vals d1 c wt held
  have hnote : st.d.SameBlock d1 := Desc.SameBlock.foldl (g := id) (fun _ _ => by exact ⟨rfl, rfl, rfl⟩) st.d _
  exact ⟨hnote.words, hnote.par, hnote.seq⟩

theorem sameBlock_stripQuantise (s : State) (hi fuel : Nat) (st : Strip) (lo : Nat) :
    st.d.SameBlock (stripQuantise s hi fuel st lo).d := by
  induction fuel generalizing st lo with
  | zero => exact .rfl' _
  | succ n ih =>
    rw [stripQuantise]
    split
    · exact .rfl' _
    · exact (sameBlock_quantSegment s st lo _).trans' (ih _ _)

theorem sameBlock_reduceWrite (s : State) (st : Strip) (row : Nat) (r : RedSt) : st.d.SameBlock (reduceWrite s st row r).d := by
  have hemit := sameBlock_emitElems st (st.d.redDst s) (funcElems st.d.func * row)
  exact (hemit _).trans' (by exact ⟨rfl, rfl, rfl⟩)

theorem sameBlock_reduceElem (s : State) (st : Strip) : st.d.SameBlock (reduceElem s st).d := by
  unfold reduceElem
  extract_lets d i col row x r0 r1
  split
  · exact .rfl' _
  · split
    · exact ⟨rfl, rfl, rfl⟩
    · split
      · exact ⟨rfl, rfl, rfl⟩
      · exact Desc.SameBlock.trans' (e := { d with cursor := i + 1, pass := 0, reds := [] }) ⟨rfl, rfl, rfl⟩
          (sameBlock_reduceWrite s { st with d := { d with cursor := i + 1, pass := 0, reds := [] } } row r1)

theorem sameBlock_checkpoint (st : Strip) (key : List Nat) : st.d.SameBlock (checkpoint st key).d := by
  unfold checkpoint
  extract_lets d k
  split <;> exact ⟨rfl, rfl, rfl⟩

theorem sameBlock_stripReduce (s : State) (st : Strip) (n : Nat) :
    st.d.SameBlock (stripReduce s (fun st => checkpoint st (workChunk s st.d st.d.cursor)) st n).d :=
  Desc.SameBlock.forN (g := Strip.d) (fun _ _ => (sameBlock_checkpoint _ _).trans' (sameBlock_reduceElem s _))
    { st with ins := st.ins ++ [((st.d.src s).w, min n (st.d.count - st.d.cursor))] } n

theorem sameBlock_finishRow (s : State) (st : Strip) (row : RowSt) (rr : RowRec) (bad : Bool) :
    st.d.SameBlock (finishRow s st row rr bad).d := ⟨rfl, rfl, rfl⟩

theorem sameBlock_scanTo (s : State) (rr : RowRec) (hi fuel : Nat) (st : Strip) (row : RowSt) :
    st.d.SameBlock (scanTo s (fun st r => checkpoint st (sampleKey s st.d r)) rr hi fuel st row).1.d := by
  induction fuel generalizing st row with
  | zero => exact .rfl' _
  | succ n ih =>
    rw [scanTo]
    split
    · exact .rfl' _
    · extract_lets u row'
      have hpoint : st.d.SameBlock u.d := sameBlock_checkpoint st (sampleKey s st.d row)
      have hrest := ih { u with d := { u.d with rows := row' :: u.d.rows.drop 1 } } row'
      exact hpoint.trans' ⟨hrest.words, hrest.par, hrest.seq⟩

/-- A row in its slot that is scanned, and leaves the slot once its scores are. -/
theorem sameBlock_scanned (s : State) (rr : RowRec) (hi n : Nat) (st : Strip) (row : RowSt) (l : List (Nat × Nat))
    (p : Strip × RowSt) (hp : p = scanTo s (fun st r => checkpoint st (sampleKey s st.d r)) rr hi n st row) :
    st.d.SameBlock (if hi < rr.len then { p.1 with ins := l } else finishRow s { p.1 with ins := l } p.2 rr false).d := by
  have hscan := sameBlock_scanTo s rr hi n st row
  rw [← hp] at hscan
  split
  · exact hscan
  · exact ⟨hscan.words, hscan.par, hscan.seq⟩

theorem sameBlock_stripSample (s : State) (st : Strip) (n : Nat) :
    st.d.SameBlock (stripSample s (fun st r => checkpoint st (sampleKey s st.d r)) st n).d := by
  unfold stripSample
  simp only []
  split
  case h_1 r l hrows =>
    have h := sameBlock_scanned s (rowRec s st.rd st.d r.row) (min (rowRec s st.rd st.d r.row).len (r.col + n)) n
      { st with d := { st.d with rows := r :: st.d.rows.drop 1 } } r
    split
    · exact ⟨rfl, rfl, rfl⟩
    · exact ⟨(h _ _ rfl).words, (h _ _ rfl).par, (h _ _ rfl).seq⟩
  case h_2 hrows =>
    have h := sameBlock_scanned s (rowRec s st.rd { st.d with cursor := st.d.cursor + 1 } st.d.cursor)
      (min (rowRec s st.rd { st.d with cursor := st.d.cursor + 1 } st.d.cursor).len (0 + n)) n
      { st with d := { st.d with cursor := st.d.cursor + 1, rows := { row := st.d.cursor } :: st.d.rows.drop 1 } }
      { row := st.d.cursor }
    split
    · exact ⟨rfl, rfl, rfl⟩
    · exact ⟨(h _ _ rfl).words, (h _ _ rfl).par, (h _ _ rfl).seq⟩

theorem sameBlock_stripFold (s : State) (st : Strip) (lo hi : Nat) : st.d.SameBlock (stripFold s st lo hi).d := by
  unfold stripFold
  extract_lets d live
  have hsteps := Desc.SameBlock.foldl (g := Prod.fst) (fun p k => sameBlock_foldStep st.rd (d.foldA s) (d.foldB s) k p) (d, live)
    (range2 lo hi)
  generalize (range2 lo hi).foldl (fun p k => foldStep st.rd (d.foldA s) (d.foldB s) k p) (d, live) = p at hsteps
  simp only []
  split
  · exact ⟨hsteps.words, hsteps.par, hsteps.seq⟩
  · split
    · exact ⟨hsteps.words, hsteps.par, hsteps.seq⟩
    · split
      · exact ⟨hsteps.words, hsteps.par, hsteps.seq⟩
      · have hobs := Desc.sameBlock_foldObserve { p.1 with cursor := hi } p.2
        exact hsteps.trans' ⟨hobs.words, hobs.par, hobs.seq⟩

/-! ## Recipes -/

theorem sameBlock_slotEmit (s : State) (st : Strip) (slot lo : Nat) (l : List (Nat × Ev)) :
    st.d.SameBlock (slotEmit s st slot lo l).d := by
  unfold slotEmit
  extract_lets t d d1
  change d.SameBlock d1
  by_cases h : slot = 1
  · have hd1 : d1 = _ := if_pos h
    rw [hd1]
    refine Desc.SameBlock.foldl (g := id) (fun e k => ?_) d _
    split
    · exact ⟨rfl, rfl, rfl⟩
    · exact e.sameBlock_emit _ _ _ _
  · have hd1 : d1 = d := if_neg h
    rw [hd1]
    exact .rfl' d

theorem sameBlock_runSts (s : State) (r : RunSt) (w lo hi j : Nat) : r.st.d.SameBlock (runSts s r w lo hi j).st.d := by
  unfold runSts
  extract_lets st d live t out
  split
  · exact .rfl' _
  · exact sameBlock_slotEmit s st _ _ _

theorem sameBlock_qntSegment (s : State) (r : RunSt) (w lo a e : Nat) : r.st.d.SameBlock (qntSegment s r w lo a e).1.st.d := by
  unfold qntSegment
  extract_lets st d t n u rs wv outs evs vals prim d1 c wt vd
  have hnote : d.SameBlock d1 := by
    change d.SameBlock (if prim then _ else d)
    split
    · exact Desc.SameBlock.foldl (g := id) (fun _ _ => by exact ⟨rfl, rfl, rfl⟩) d _
    · exact .rfl' d
  exact ⟨hnote.words, hnote.par, hnote.seq⟩

theorem sameBlock_runQnt (s : State) (r : RunSt) (w lo hi : Nat) : r.st.d.SameBlock (runQnt s r w lo hi).st.d := by
  have hsegs (f : RunSt × List Nat → Nat × Nat → RunSt × List Nat) (hf : ∀ (p : RunSt × List Nat) g, p.1.st.d.SameBlock (f p g).1.st.d)
      (l : List (Nat × Nat)) :
      r.st.d.SameBlock (l.foldl f (r, [])).1.st.d :=
    Desc.SameBlock.foldl (g := fun p : RunSt × List Nat => p.1.st.d) hf (r, []) l
  unfold runQnt
  simp only []
  split
  all_goals
    refine hsegs _ (fun p g => ?_) _
    exact sameBlock_qntSegment s p.1 w lo g.1 g.2

theorem sameBlock_runRed (s : State) (r : RunSt) (w lo hi : Nat) : r.st.d.SameBlock (runRed s r w lo hi).st.d := by
  unfold runRed
  extract_lets func k r'
  refine Desc.SameBlock.foldl (g := fun r : RunSt => r.st.d) (fun r i => ?_) r _
  simp only []
  split
  · exact ⟨rfl, rfl, rfl⟩
  · change r.st.d.SameBlock (slotEmit s _ _ _ _).d
    refine Desc.SameBlock.trans' ?_ (sameBlock_slotEmit s _ _ _ _)
    exact ⟨rfl, rfl, rfl⟩

theorem sameBlock_runMac (r : RunSt) (w idx lo hi : Nat) : r.st.d.SameBlock (runMac r w idx lo hi).st.d := by
  have hsteps (f : Desc × List (Nat × Byte) → Nat → Desc × List (Nat × Byte)) (hf : ∀ (p : Desc × List (Nat × Byte)) i, p.1.SameBlock (f p i).1)
      (live : List (Nat × Byte)) (l : List Nat) :
      r.st.d.SameBlock (l.foldl f (r.st.d, live)).1 := Desc.SameBlock.foldl (g := Prod.fst) hf (r.st.d, live) l
  unfold runMac
  extract_lets st d n live
  simp only []
  split
  · refine Desc.SameBlock.mk (hsteps _ (fun p i => ?_) live (range2 lo hi)).words (hsteps _ (fun p i => ?_) live (range2 lo hi)).par
      (hsteps _ (fun p i => ?_) live (range2 lo hi)).seq
    all_goals exact ⟨rfl, rfl, rfl⟩
  · exact hsteps _ (fun p i => by exact ⟨rfl, rfl, rfl⟩) live (range2 lo hi)

theorem sameBlock_runWatch (r : RunSt) (w lo hi : Nat) : r.st.d.SameBlock (runWatch r w lo hi).st.d := by
  unfold runWatch
  extract_lets st c f wt
  split <;> exact ⟨rfl, rfl, rfl⟩

theorem sameBlock_runIns (s : State) (m0 : Mem) (lo hi : Nat) (r : RunSt) (w idx j n stride : Nat) :
    r.st.d.SameBlock (runIns s m0 lo hi r w idx j n stride).st.d := by
  unfold runIns
  extract_lets o
  split
  · split
    · exact sameBlock_runSts s r w lo hi j
    · exact .rfl' _
  split
  · exact .rfl' _
  split
  · exact .rfl' _
  split
  · exact sameBlock_runQnt s r w lo hi
  split
  · exact sameBlock_runRed s r w lo hi
  split
  · exact sameBlock_runMac r w idx lo hi
  split
  · exact sameBlock_runWatch r w lo hi
  · exact .rfl' _

theorem sameBlock_runBody (s : State) (m0 : Mem) (lo hi fuel idx : Nat) (l : List Nat) (r : RunSt) :
    r.st.d.SameBlock (runBody s m0 lo hi fuel idx l r).st.d := by
  induction fuel generalizing idx l r with
  | zero => exact .rfl' _
  | succ n ih =>
    cases l with
    | nil => exact .rfl' _
    | cons w rest =>
      rw [runBody]
      split
      · refine Desc.SameBlock.trans' ?_ (ih _ _ _)
        refine Desc.SameBlock.forN (g := fun r : RunSt => r.st.d) (fun r j => ?_) r _
        exact Desc.SameBlock.foldl (g := fun r : RunSt => r.st.d) (fun r k => sameBlock_runIns s m0 lo hi r _ _ _ _ _) r _
      · exact (sameBlock_runIns s m0 lo hi r w idx 0 1 0).trans' (ih _ _ _)

theorem sameBlock_stripRecipe (s : State) (st : Strip) (lo hi : Nat) : st.d.SameBlock (stripRecipe s st lo hi).d :=
  sameBlock_runBody s st.mem lo hi _ 0 st.d.body { st := st, regs := List.replicate 32 (List.replicate (hi - lo) 0) }

/-! ## The work of a strip -/

theorem sameBlock_byChunks (s : State) (work : Strip → Nat → Nat → Strip) (hw : ∀ (st : Strip) (lo hi : Nat), st.d.SameBlock (work st lo hi).d)
    (hi fuel : Nat) (st : Strip) (lo : Nat) : st.d.SameBlock (byChunks s work hi fuel st lo).d := by
  induction fuel generalizing st lo with
  | zero => exact .rfl' _
  | succ n ih =>
    rw [byChunks]
    split
    · exact .rfl' _
    · extract_lets u e r
      have hpart : st.d.SameBlock r.d := (sameBlock_checkpoint st _).trans' (hw u lo e)
      have hrest := ih { r with d := { r.d with cursor := e } } e
      exact hpart.trans' ⟨hrest.words, hrest.par, hrest.seq⟩

theorem sameBlock_flushHeld (s : State) (st : Strip) : st.d.SameBlock (flushHeld s st).d := by
  unfold flushHeld
  extract_lets d out t n old keep
  split
  · exact .rfl' _
  · exact ⟨rfl, rfl, rfl⟩

/-- The work of a strip leaves the words of its descriptor, whatever the opcode. -/
theorem sameBlock_stripWork (s : State) (d : Desc) (live : List (Nat × Byte)) (l : Nat) (x : Nat × Nat) :
    d.SameBlock (stripWork s d live l x).d := by
  unfold stripWork
  extract_lets st o work
  split
  · exact sameBlock_stripReduce s st _
  split
  · exact sameBlock_stripSample s st l
  split
  · exact sameBlock_stripFold s st x.1 x.2
  refine Desc.SameBlock.trans' (sameBlock_byChunks s work (fun st lo hi => ?_) x.2 (x.2 - x.1) st x.1) (sameBlock_flushHeld s _)
  simp only [work]
  split
  · exact sameBlock_emitElems _ _ lo _
  split
  · exact sameBlock_stripQuantise s hi _ st lo
  split
  · exact sameBlock_emitElems _ _ lo _
  split
  · exact sameBlock_emitElems _ _ lo _
  split
  · exact sameBlock_emitElems _ _ lo _
  split
  · exact ⟨rfl, rfl, rfl⟩
  · exact sameBlock_stripRecipe s st lo hi

end Sys2Proof.Machine
end

section
/-! Strips and output stages (R13, R91, R100, R188): what the work of one descriptor leaves beside memory and its tiles. -/

namespace Sys2Proof.Machine

theorem WorkOnly.foldl {P : Prop} {c : Nat} {α : Type} {f : State → α → State} (hf : ∀ s x, WorkOnly P c s (f s x)) (s : State)
    (l : List α) : WorkOnly P c s (l.foldl f s) := by
  induction l generalizing s with
  | nil => exact .rfl' s
  | cons x r ih => exact (hf s x).trans' (ih _)

/-- Memory written leaves all but memory. -/
theorem WorkOnly.writeMem {c : Nat} (s : State) (m : Mem) : WorkOnly False c s (s.setMem m) where
  setup := ⟨rfl, rfl, rfl, rfl, rfl, rfl, rfl, rfl, rfl, rfl, rfl, rfl, rfl⟩
  links := rfl
  err := rfl
  quiet := False.elim
  own := fun hs => ⟨hs, rfl, rfl, rfl⟩
  other := fun _ _ _ => rfl

/-- The only descriptor of a context is found at its slot. -/
theorem State.desc?_of_only {s : State} {c : Nat} {d : Desc} (h : (s.ctx c).descs = [d]) : s.desc? c d.seq = some d := by
  simp [State.desc?, h]

theorem carries_of_issues {s : State} {e : Nat} (h : issues s e = true) : (s.eng e).works = true := by
  simp only [issues, Bool.and_eq_true] at h
  exact h.1.1

/-! ## The context of work stays on its engine -/

theorem WorkOnly.engOf {P : Prop} {c : Nat} {s t : State} (h : WorkOnly P c s t) (hd : (s.ctx c).descs ≠ []) :
    t.engOf c = s.engOf c := by
  obtain ⟨-, -, -, huse⟩ := h.own hd
  rw [State.engOf, huse, State.engOf]

/-! ## One strip -/

theorem isColl_of_isStream {d : Desc} (h : d.isStream = true) : d.isColl = false := by
  simp only [Desc.isStream, List.contains_eq_mem, decide_eq_true_eq, List.mem_cons, List.not_mem_nil, or_false] at h
  rcases h with h | h | h | h | h | h | h | h | h | h <;> simp [Desc.isColl, h] <;> decide

/-- A context with one descriptor issues what that descriptor tries. -/
theorem exec_stripIssue_of_only {c : Nat} {s : State} {d : Desc} (hi : issues s (s.engOf c) = true)
    (hr : (s.ctx c).resident = true) (hd : (s.ctx c).descs = [d]) :
    exec (.stripIssue c none) s = .next (tryIssue s c d.seq).1 := by
  change Host.Outcome.next (issueNow s c) = _
  rw [issueNow]
  simp only [hi, hr, Bool.and_self, if_true, issueOne, hd, List.map_cons, List.map_nil, List.foldl_cons, List.foldl_nil,
    Bool.false_eq_true, if_false]

/-- A streaming descriptor whose strip may issue runs it, once its chunks may be touched. -/
theorem tryIssue_of_mayStrip {s u : State} {c : Nat} {d : Desc} {sp : List Acc} {ok : Bool} (hd : s.desc? c d.seq = some d)
    (hm : mayStrip s c d = true) (hn : d.count ≠ 0) (hg : gateStrip s c d = (u, sp, ok)) :
    (tryIssue s c d.seq).1 = if ok then runStrip u c (u.desc c d.seq) sp else u := by
  have hstream : d.isStream = true := by
    simp only [mayStrip, Bool.and_eq_true] at hm
    exact hm.1.1.1.1.1.1.2
  have hwhole : (decide (d.op = opSIGNATURE) || decide (d.op = opRESTORE) || (d.isStream && decide (d.count = 0))) = false := by
    have hop : d.op ≠ opSIGNATURE ∧ d.op ≠ opRESTORE := by
      constructor <;> intro h <;> rw [Desc.isStream, h] at hstream <;> exact absurd hstream (by decide)
    simp [hop, hn]
  have hcoll : (d.isColl && isPe (s.engOf c)) = false := by rw [isColl_of_isStream hstream]; rfl
  simp only [tryIssue, State.desc_of hd, hwhole, hcoll, hm, hg, Bool.false_eq_true, if_false, if_true]
  cases ok <;> rfl

/-- A strip whose chunks are held issues at once. -/
theorem gateStrip_of_held {s : State} {c : Nat} {d : Desc} (hd : s.desc? c d.seq = some d) (ho : d.over = false)
    (hop : d.op ≠ opSAMPLE) (hheld : HeldAll s d (d.stripSpan (d.nextStrip (lanes (s.engOf c))).1 (d.nextStrip (lanes (s.engOf c))).2)) :
    gateStrip s c d = (s, d.stripSpan (d.nextStrip (lanes (s.engOf c))).1 (d.nextStrip (lanes (s.engOf c))).2, true) := by
  simp only [gateStrip, if_neg hop, gate_held hd ho hheld]

/-! ## What a strip leaves -/

theorem desc?_countsIn {s : State} {c q : Nat} {d : Desc} (h : s.desc? c q = some d) (e : Nat) (l : List (Nat × Nat)) :
    (l.foldl (fun s x => countIn s e (some (c, q)) x.1 x.2) s).desc? c q = some d := by
  induction l generalizing s with
  | nil => exact h
  | cons x r ih => exact ih (desc?_countIn h e q x.1 x.2)

theorem desc?_countsOut {s : State} {c q : Nat} {d : Desc} (h : s.desc? c q = some d) (e : Nat) (l : List (Nat × Nat)) :
    (l.foldl (fun s x => countOut s e (some (c, q)) x.1 x.2) s).desc? c q = some d := by
  induction l generalizing s with
  | nil => exact h
  | cons x r ih => exact ih (desc?_countOut h e q x.1 x.2)

/-- The command has no strip and no drain left. -/
def Strip.finishes (r : Strip) : Bool := r.d.stripsDone && r.d.drains.isEmpty

/-- What a strip leaves of descriptor `d`: a FOLD finishes with its drain. -/
def Strip.left (r : Strip) (d : Desc) : Desc := { r.d with finished := r.d.finished || (r.finishes && d.op != opFOLD) }

/-- The writes of a strip, its descriptor and its tiles. -/
def stripWritten (s : State) (c q : Nat) (r : Strip) : State :=
  ((s.setMem r.mem).modDesc c q r.left).modCtx c (fun x => { x with live := r.live })

/-- With its elements counted on engine `e`. -/
def stripCounted (s : State) (c q e : Nat) (r : Strip) : State :=
  r.outs.foldl (fun s x => countOut s e (some (c, q)) x.1 x.2)
    (r.ins.foldl (fun s x => countIn s e (some (c, q)) x.1 x.2) (stripWritten s c q r))

section Apply
variable {s : State} {c q : Nat} {d : Desc} {r : Strip}

theorem applyStrip_eq (sp : List Acc) : applyStrip s c q sp r =
    postWrites (if r.d.op = opSTATS && r.finishes then
        writeStats (stripCounted s c q (s.engOf c) r) ((stripCounted s c q (s.engOf c) r).desc c q) false
      else stripCounted s c q (s.engOf c) r) c q (if r.d.op = opSTATS && !r.finishes then [] else sp) := by
  unfold applyStrip stripCounted stripWritten Strip.left Strip.finishes
  rfl

variable (hd : s.desc? c q = some d)
include hd

theorem desc?_stripWritten (hq : r.d.seq = q) : (stripWritten s c q r).desc? c q = some (r.left d) := by
  have hwritten : ((s.setMem r.mem).modDesc c q r.left).desc? c q = some (r.left d) :=
    State.desc?_modDesc (s := s.setMem r.mem) r.left hd hq
  rw [State.desc?, stripWritten, State.ctx_modCtx (Ctx.ne_of_descs (State.descs_ne_nil hwritten))]
  exact hwritten

/-- What the writes of a strip leave. -/
theorem stripWritten_facts :
    ((stripWritten s c q r).ctx c).live = r.live ∧ ((stripWritten s c q r).ctx c).shadow = (s.ctx c).shadow ∧
    ∀ x, x ≠ c → (stripWritten s c q r).ctx x = s.ctx x := by
  have hown := (WorkOnly.modDesc (P := False) (c := c) (s.setMem r.mem) q r.left).own (State.descs_ne_nil hd)
  have hother := (WorkOnly.modDesc (P := False) (c := c) (s.setMem r.mem) q r.left).other (State.descs_ne_nil hd)
  obtain ⟨hdescs, -, hshadow, -⟩ := hown
  have hread := State.ctx_modCtx (s := (s.setMem r.mem).modDesc c q r.left) (c := c)
    (f := fun x => { x with live := r.live }) (Ctx.ne_of_descs hdescs)
  refine ⟨?_, ?_, fun x hx => ?_⟩
  · rw [stripWritten, hread]
  · rw [stripWritten, hread]
    exact hshadow
  · rw [stripWritten, State.ctx_modCtx_other (Ctx.ne_of_descs hdescs) hx]
    exact hother x hx

/-- What a strip leaves: its memory, with the record of a STATS that has finished, and its tiles; all else stays. -/
theorem applyStrip_facts (hq : r.d.seq = q) (sp : List Acc) :
    (applyStrip s c q sp r).mem = (if r.d.op = opSTATS && r.finishes then
      Mem.wrBytes r.mem (s.addrOf r.d.dwin r.d.doff) (watchRecord r.d.watch r.d.statsCfg r.d.seq false) else r.mem) ∧
    ((applyStrip s c q sp r).ctx c).live = r.live ∧ ((applyStrip s c q sp r).ctx c).shadow = (s.ctx c).shadow ∧
    SameSetup s (applyStrip s c q sp r) ∧ (applyStrip s c q sp r).links = s.links ∧ (applyStrip s c q sp r).err = s.err ∧
    (applyStrip s c q sp r).trace = s.trace ∧ ∀ x, x ≠ c → (applyStrip s c q sp r).ctx x = s.ctx x := by
  have happly := applyStrip_eq (s := s) (c := c) (q := q) (r := r) sp
  obtain ⟨hlive, hshadow, hother⟩ := stripWritten_facts hd (r := r)
  have hwritten := desc?_stripWritten hd hq
  have hdesc : (stripCounted s c q (s.engOf c) r).desc? c q = some (r.left d) :=
    desc?_countsOut (desc?_countsIn hwritten (s.engOf c) r.ins) (s.engOf c) r.outs
  have hcounts : WorkOnly True c (stripWritten s c q r) (stripCounted s c q (s.engOf c) r) :=
    (WorkOnly.foldl (fun u x => .countIn u (s.engOf c) q x.1 x.2) _ r.ins).trans'
      (.foldl (fun u x => .countOut u (s.engOf c) q x.1 x.2) _ r.outs)
  generalize stripCounted s c q (s.engOf c) r = u at happly hdesc hcounts
  generalize (if (r.d.op = opSTATS && !r.finishes) = true then [] else sp) = l at happly
  have hsetup : SameSetup s (stripWritten s c q r) := ⟨rfl, rfl, rfl, rfl, rfl, rfl, rfl, rfl, rfl, rfl, rfl, rfl, rfl⟩
  generalize hv : (if (r.d.op = opSTATS && r.finishes) = true then writeStats u (u.desc c q) false else u) = v at happly
  have hmem : v.mem = if (r.d.op = opSTATS && r.finishes) = true then
      Mem.wrBytes r.mem (s.addrOf r.d.dwin r.d.doff) (watchRecord r.d.watch r.d.statsCfg r.d.seq false) else r.mem := by
    have humem : u.mem = r.mem := hcounts.mem trivial
    have hwin : u.win = s.win := by funext w; simp only [State.win, hcounts.setup.windows, hsetup.windows]
    rw [← hv]
    split
    · have hleft : r.d.SameBlock (r.left d) := ⟨rfl, rfl, rfl⟩
      have hwatch : (r.left d).watch = r.d.watch := rfl
      rw [writeStats, State.desc_of hdesc, State.setMem_mem, humem, State.addrOf, hwin, hleft.dwin, hleft.doff, hleft.statsCfg,
        hleft.seq, hwatch, State.addrOf]
    · exact humem
  have hlast : WorkOnly False c u v ∧ v.trace = u.trace := by
    rw [← hv]
    split
    · rw [writeStats]
      exact ⟨.writeMem u _, State.setMem_trace ..⟩
    · exact ⟨.rfl' u, rfl⟩
  obtain ⟨hlast, htrace⟩ := hlast
  have hposts := EngOnly.postWrites v c q l
  rw [← happly] at hposts
  have hall := ((hcounts.under False.elim).trans' hlast).trans' (.ofEng hposts)
  have hdescs := State.descs_ne_nil hwritten
  obtain ⟨-, hl, hs, -⟩ := hall.own hdescs
  refine ⟨hposts.mem.trans hmem, hl.trans hlive, hs.trans hshadow, hsetup.trans' hall.setup, hall.links, hall.err, ?_,
    fun x hx => (hall.other hdescs x hx).trans (hother x hx)⟩
  exact hposts.trace.trans (htrace.trans (hcounts.trace trivial))

end Apply

theorem sameBlock_keepBefore (s : State) (d : Desc) (sp : List Acc) : d.SameBlock (d.keepBefore s sp) := by
  unfold Desc.keepBefore
  extract_lets hit
  split <;> exact ⟨rfl, rfl, rfl⟩

/-- The strip of a descriptor that has its chunks, run: the descriptor as the strip finds it is `x`, its work `r`. -/
theorem runStrip_eq {s : State} {c : Nat} {d : Desc} (hd : s.desc? c d.seq = some d) (sp : List Acc) :
    runStrip s c d sp = applyStrip (issueWork s c d sp) c d.seq sp
      (stripWork (issueWork s c d sp)
        { Desc.keepBefore (issueWork s c d sp) { d with started := true } sp with
          pos := min d.count (max d.pos d.cursor + lanes (s.engOf c)) }
        (s.ctx c).live (lanes (s.engOf c)) (d.nextStrip (lanes (s.engOf c)))) := by
  have hwork := WorkOnly.issueWork hd sp
  have hdescs := State.descs_ne_nil hd
  obtain ⟨-, hlive, -, -⟩ := hwork.own hdescs
  have heng : (issueWork s c d sp).engOf c = s.engOf c := hwork.engOf hdescs
  have hkeep : ∀ x : Desc, (x.keepBefore (issueWork s c d sp) sp).count = x.count ∧
      (x.keepBefore (issueWork s c d sp) sp).pos = x.pos ∧ (x.keepBefore (issueWork s c d sp) sp).cursor = x.cursor ∧
      (x.keepBefore (issueWork s c d sp) sp).nextStrip = x.nextStrip := fun x => by
    unfold Desc.keepBefore
    extract_lets hit
    split <;> exact ⟨rfl, rfl, rfl, rfl⟩
  obtain ⟨hcount, hpos, hcursor, hnext⟩ := hkeep { d with started := true }
  simp only [runStrip, State.desc_of (desc?_issueWork hd sp), heng, hlive, hcount, hpos, hcursor, hnext]
  rfl

/-! ## A check that fails in a strip -/

/-- A residue check of a quire that fails in the strip of the only descriptor is a detection there. -/
theorem exec_stripIssue_of_residue {c : Nat} {s : State} {d : Desc} {k : Detection} (hi : issues s (s.engOf c) = true)
    (hr : (s.ctx c).resident = true) (hd : (s.ctx c).descs = [d]) (hcoll : d.isColl = false) (hm : mayStrip s c d = true)
    (hop : d.op ≠ opSAMPLE)
    (hheld : HeldAll s d (d.stripSpan (d.nextStrip (lanes (s.engOf c))).1 (d.nextStrip (lanes (s.engOf c))).2))
    (hkind : k.kind = .residue) (hunit : k.unit = 0) (hin : k.inside = false) (hseq : k.seq = none) (heng : k.eng = none) :
    ∃ p redo, exec (.stripIssue c (some k)) s = .next (detect s (s.engOf c) 0 (theQuire k) 3 k.synd p redo) := by
  have hdesc := State.desc?_of_only hd
  have hover : d.over = false := by
    simp only [mayStrip, Bool.and_eq_true, Bool.not_eq_true'] at hm
    exact hm.1.1.1.1.1.1.1.2
  have hpick : pickStrip s c = (s, some (d, d.stripSpan (d.nextStrip (lanes (s.engOf c))).1 (d.nextStrip (lanes (s.engOf c))).2)) := by
    simp only [pickStrip, hd, List.map_cons, List.map_nil, List.foldl_cons, List.foldl_nil, State.desc_of hdesc, hcoll, hm,
      gateStrip_of_held hdesc hover hop hheld, Bool.false_and, Bool.false_eq_true, if_false, if_true]
  have haffected : affected s c k = (s, some (d, d.stripSpan (d.nextStrip (lanes (s.engOf c))).1
      (d.nextStrip (lanes (s.engOf c))).2)) := by
    simp only [affected, hseq, heng, Option.isNone_none, hi, hr, Bool.and_self, if_true, hpick]
  have hon : ((s.eng (s.engOf c)).isOn || (s.eng (s.engOf c)).st == .quiescing) = true := by
    have hworks := carries_of_issues hi
    simp only [Engine.works, Bool.and_eq_true] at hworks
    rw [Engine.isOn, hworks.1, Bool.true_or]
  have hres : (ErrKind.residue == .secdedCorr) = false := rfl
  have honly : onlyInside k = false := by simp [onlyInside, hin, hunit, unTILE, unWC]
  have hfails : ∃ p redo, checkFails s c k = detect s (s.engOf c) 0 (theQuire k) 3 k.synd p redo := by
    have hisland : ¬ (0 : Nat) = unISLAND := by decide
    have hlink : ¬ (0 : Nat) = unLINK := by decide
    have hwc : ¬ (0 : Nat) = unWC := by decide
    simp only [checkFails, heng, Option.getD_none, hunit, if_neg hisland, hon, Bool.not_true, Bool.false_eq_true, if_false,
      if_neg hlink, if_neg hwc, workError, haffected, hkind, honly, Bool.not_false, Bool.or_true, if_true, kindCode]
    exact ⟨_, _, rfl⟩
  obtain ⟨p, redo, hfails⟩ := hfails
  refine ⟨p, redo, ?_⟩
  change Host.Outcome.next (if (k.kind == .secdedCorr) = true then issueNow (checkFails s c k) c else checkFails s c k) = _
  rw [hkind, hres, if_neg Bool.false_ne_true, hfails]

/-- A record of an error leaves all but memory, the error ring and what waits at the ports. -/
structure ErrWritten (s : State) (r : ErrRec) (t : State) : Prop where
  ctxs : t.ctxs = s.ctxs
  engines : t.engines = s.engines
  setup : SameSetup s t
  links : t.links = s.links
  mem : t.mem = if s.err.room then
    Mem.wr s.mem (s.err.base * 64 + 32 * (s.err.tail % s.err.size)) 32 (errNat { r with phase := s.err.phase }) else s.mem

theorem errWritten_writeErr (s : State) (r : ErrRec) : ErrWritten s r (writeErr s r) := by
  cases h : s.err.room with
  | true =>
    simp only [writeErr, h, if_true]
    generalize hm : Mem.wr s.mem (s.err.base * 64 + 32 * (s.err.tail % s.err.size)) 32 (errNat { r with phase := s.err.phase }) = m
    exact ⟨rfl, rfl, ⟨rfl, rfl, rfl, rfl, rfl, rfl, rfl, rfl, rfl, rfl, rfl, rfl, rfl⟩, rfl, by rw [h, if_pos rfl, hm]; rfl⟩
  | false =>
    simp only [writeErr, h, Bool.false_eq_true, if_false]
    exact ⟨rfl, rfl, ⟨rfl, rfl, rfl, rfl, rfl, rfl, rfl, rfl, rfl, rfl, rfl, rfl, rfl⟩, rfl, by rw [h]; rfl⟩

/-- An error counted in its unit, at this time. -/
def noteError (s : State) (e unit quire kind : Nat) : State :=
  (countError s e unit quire kind).modEng e (fun x => { x with
    lastDet := SMap.set x.lastDet 0 (unitKey unit quire) ((countError s e unit quire kind).time + 1) })

/-- The counting leaves the tests of a working engine. -/
theorem noteError_tests {s : State} {e : Nat} (hworks : (s.eng e).works = true) (unit quire kind : Nat) :
    ((noteError s e unit quire kind).eng e).tests = (s.eng e).tests ∧
      ((noteError s e unit quire kind).eng e).works = (s.eng e).works := by
  have hcount : ((countError s e unit quire kind).eng e).tests = (s.eng e).tests ∧
      ((countError s e unit quire kind).eng e).works = (s.eng e).works := by
    rw [countError, State.eng_modEng (Engine.ne_of_works hworks)]
    exact ⟨rfl, rfl⟩
  obtain ⟨htests, hw⟩ := hcount
  rw [noteError, State.eng_modEng (Engine.ne_of_works (hw.trans hworks))]
  exact ⟨htests, hw⟩

/-- The first detection in a unit of an engine that works: its record, and the test that it asks for. -/
theorem detect_of_first {s : State} {e unit quire : Nat} (hworks : (s.eng e).works = true)
    (hfirst : repeated s e unit quire = false) (kind synd : Nat) (p : ErrAt) (redo : Bool) :
    ∃ (x : SelfTest) (t : State), t = detect s e unit quire kind synd p redo ∧ x.unit = unit ∧ x.quire = quire ∧
      x.started = false ∧ x.record.kind = kind ∧ x.record.cls = 0 ∧ (t.eng e).tests = (s.eng e).tests ++ [x] ∧
      t.ctxs = s.ctxs ∧ SameSetup s t ∧ t.links = s.links ∧
      t.mem = if s.err.room then
        Mem.wr s.mem (s.err.base * 64 + 32 * (s.err.tail % s.err.size)) 32 (errNat { x.record with phase := s.err.phase })
        else s.mem := by
  obtain ⟨htests, hw⟩ := noteError_tests hworks unit quire kind
  have hnote : EngOnly s (noteError s e unit quire kind) := (EngOnly.modEng s e _).trans' (.modEng _ e _)
  have hdetect : detect s e unit quire kind synd p redo =
      (writeErr (noteError s e unit quire kind) (mkErr (noteError s e unit quire kind) e unit quire kind clPENDING synd p)).modEng e
        (fun x => { x with tests := x.tests ++ [{ unit := unit, quire := quire, redo := redo
                                                  record := mkErr (noteError s e unit quire kind) e unit quire kind clPENDING synd p }] }) := by
    rw [detect]
    simp only [hfirst, Bool.false_eq_true, if_false]
    rfl
  generalize noteError s e unit quire kind = u at htests hw hnote hdetect
  generalize hr : mkErr u e unit quire kind clPENDING synd p = r at hdetect
  have hwrite := errWritten_writeErr u r
  generalize writeErr u r = v at hwrite hdetect
  have heng : v.eng e = u.eng e := by rw [State.eng, hwrite.engines, State.eng]
  refine ⟨{ unit := unit, quire := quire, redo := redo, record := r }, _, rfl, rfl, rfl, rfl, ?_, ?_, ?_, ?_, ?_, ?_, ?_⟩
  · rw [← hr]
    rfl
  · rw [← hr]
    rfl
  · have hne : ({ v.eng e with tests := (v.eng e).tests ++ [{ unit := unit, quire := quire, redo := redo, record := r }] } : Engine)
        ≠ {} := Engine.ne_of_works ((congrArg Engine.works heng).trans (hw.trans hworks))
    rw [hdetect, State.eng_modEng hne, heng, htests]
  · rw [hdetect]
    exact hwrite.ctxs.trans hnote.ctxs
  · rw [hdetect]
    exact (hnote.setup.trans' hwrite.setup).trans' (EngOnly.modEng v e _).setup
  · rw [hdetect]
    exact hwrite.links.trans hnote.links
  · rw [hdetect, State.modEng_mem, hwrite.mem, hnote.err, hnote.mem]

/-! ## Output stages -/

/-- The output stage of the only descriptor of a context, over a region that is exchanged, once its chunks are held: memory
takes what the stage computes, and the rest of the work is counted. -/
theorem outputStage_work {c : Nat} {s : State} {d : Desc} {r : DrainReq} (hd : s.desc? c d.seq = some d) (hop : d.op ≠ opRECIPE)
    (hr : d.drains.find? (fun r => r.exchanged) = some r) (hcar : carries s (s.engOf c) = true)
    (htest : (s.eng (s.engOf c)).testing = false) (hover : d.over = false) (hw : watchReady s c d = true)
    (hheld : heldByTest (s.eng (s.engOf c)) c d.seq = false) (hst : d.started = true) (hall : HeldAll s d d.outSpan) :
    ∃ u, WorkOnly True c s u ∧ (u.ctx c).shadow = (s.ctx c).shadow ∧
      WorkOnly True c (u.setMem ((d.foldOut s).run (u.ctx c).shadow u.mem d true).1) (runOutputStage s c d.seq) := by
  have hplain : (d.op != opRECIPE) = true := bne_iff_ne.2 hop
  have hstage : drainStage s d r = (d.foldOut s, d.outSpan) := by rw [drainStage, if_neg hop]
  have hprimary : d.primaryDrain r = true := by rw [Desc.primaryDrain, hplain, Bool.true_or]
  have hwork := (WorkOnly.issueWork hd d.outSpan).under (fun _ : True => Or.inl hst)
  have hdesc := desc?_issueWork hd d.outSpan
  have hsame : ({ d with started := true } : Desc) = d := by rw [← hst]
  rw [hsame] at hdesc
  obtain ⟨-, -, hshadow, -⟩ := hwork.own (State.descs_ne_nil hd)
  refine ⟨issueWork s c d d.outSpan, hwork, hshadow, ?_⟩
  simp only [runOutputStage, State.desc_of hd, hr, hcar, htest, hover, hw, hheld, Bool.not_true, Bool.or_self, Bool.false_eq_true,
    if_false, hstage, gate_held hd hover hall, State.desc_of hdesc, hprimary]
  generalize issueWork s c d d.outSpan = u
  generalize ((d.foldOut s).run (u.ctx c).shadow u.mem d true) = p
  split
  · exact (((WorkOnly.modDesc _ _ _).trans' (.countIn _ _ _ _ _)).trans' (.countOut _ _ _ _ _)).trans' (.ofEng (.postWrites _ _ _ _))
  · exact ((WorkOnly.modDesc _ _ _).trans' (.countOut _ _ _ _ _)).trans' (.ofEng (.postWrites _ _ _ _))

end Sys2Proof.Machine

namespace Sys2Proof.Laws
open Sys2Proof Sys2Proof.Machine

/-- Settles O16: the only descriptor issues its strip, whose work `applyStrip` leaves; or the check that fails in it is
recorded. -/
theorem stripIssues : Obligations.StripIssues := by
  unfold Obligations.StripIssues
  refine ⟨?_, ?_, ?_, ?_⟩
  · intro c s u d sp ok hi hr hd hm hn hg
    rw [exec_stripIssue_of_only hi hr hd, tryIssue_of_mayStrip (State.desc?_of_only hd) hm hn hg]
  · intro c s u d x sp r hi hr hd hn hm hop hsp hheld hu hx hrun
    have hdesc := State.desc?_of_only hd
    have hover : d.over = false := by
      simp only [mayStrip, Bool.and_eq_true, Bool.not_eq_true'] at hm
      exact hm.1.1.1.1.1.1.1.2
    rw [hsp] at hheld
    have hgate := gateStrip_of_held hdesc hover hop hheld
    rw [← hsp] at hgate
    have hexec := (exec_stripIssue_of_only hi hr hd).trans (by rw [tryIssue_of_mayStrip hdesc hm hn hgate, if_pos rfl])
    have hwork := WorkOnly.issueWork hdesc sp
    have hrunEq : runStrip s c (s.desc c d.seq) sp = applyStrip u c d.seq sp r := by
      rw [State.desc_of hdesc, runStrip_eq hdesc, ← hu, ← hx, hrun]
    have hstart : u.desc? c d.seq = some { d with started := true } := hu ▸ desc?_issueWork hdesc sp
    have hwords : d.SameBlock r.d := by
      have hkeep := sameBlock_keepBefore u { d with started := true } sp
      rw [← hx] at hkeep
      have hstrip := sameBlock_stripWork u { x with pos := min d.count (max d.pos d.cursor + lanes (s.engOf c)) } (s.ctx c).live
        (lanes (s.engOf c)) (d.nextStrip (lanes (s.engOf c)))
      rw [← hrun] at hstrip
      exact Desc.SameBlock.trans' ⟨hkeep.words, hkeep.par, hkeep.seq⟩ ⟨hstrip.words, hstrip.par, hstrip.seq⟩
    obtain ⟨hmem, hlive, hshadow, hsetup, hlinks, herr, htrace, hother⟩ := applyStrip_facts hstart (r := r) hwords.seq sp
    rw [← hrunEq] at hmem hlive hshadow hsetup hlinks herr htrace hother
    rw [← hu] at hwork
    obtain ⟨-, -, hwshadow, -⟩ := hwork.own (State.descs_ne_nil hdesc)
    refine ⟨_, hexec, fun hne => ?_, fun hstats => ?_, hlive, hshadow.trans hwshadow, hwork.setup.trans' hsetup,
      hlinks.trans hwork.links, herr.trans hwork.err, fun hst => htrace.trans (hwork.trace (.inl hst)),
      fun y hy => (hother y hy).trans (hwork.other (State.descs_ne_nil hdesc) y hy)⟩
    · rw [hmem, hwords.op, if_neg (by simp [opSTATS, hne])]
    · have hwin : u.win = s.win := by funext w; simp only [State.win, hwork.setup.windows]
      rw [hmem, hwords.op, hstats, State.addrOf, hwin, hwords.dwin, hwords.doff, hwords.statsCfg, hwords.seq, State.addrOf]
      simp [opSTATS, Strip.finishes]
  · intro c s d hi hr hd hadm hover hw
    have hdesc := State.desc?_of_only hd
    have hwhole : (!d.admitted || d.over || !watchReady s c d) = false := by simp [hadm, hover, hw]
    refine ⟨fun hop => ?_, fun hop => ?_⟩
    · have hsig : d.op = opSIGNATURE := hop
      rw [exec_stripIssue_of_only hi hr hd]
      simp only [tryIssue, runWhole, State.desc_of hdesc, hsig, hwhole, decide_true, Bool.true_or, Bool.false_eq_true, if_true,
        if_false]
    · have hres : d.op = opRESTORE := hop
      have hnot : ¬ opRESTORE = opSIGNATURE := by decide
      rw [exec_stripIssue_of_only hi hr hd]
      simp only [tryIssue, runWhole, State.desc_of hdesc, hres, hnot, hwhole, decide_true, Bool.true_or, Bool.or_true,
        Bool.false_eq_true, if_true, if_false]
  · intro c s d k hi hr hd hcoll hm hop hheld hkind hunit hin hseq heng hfirst
    obtain ⟨p, redo, hexec⟩ := exec_stripIssue_of_residue hi hr hd hcoll hm hop hheld hkind hunit hin hseq heng
    obtain ⟨x, t, ht, hxu, hxq, hxs, hxk, hxc, htests, hctxs, hsetup, hlinks, hmem⟩ :=
      detect_of_first (carries_of_issues hi) hfirst 3 k.synd p redo
    exact ⟨t, x, by rw [hexec, ht], hxu, hxq, hxs, hxk, hxc, htests, hctxs, hsetup, hlinks, hmem⟩

/-- Settles O21: the stage writes what it computes from the shadow set, and the rest is counted. -/
theorem outputStage : Obligations.OutputStage := by
  unfold Obligations.OutputStage
  intro c q s d r hd hq hop hr hcar htest hover hw hheld hst hall
  subst hq
  have hdesc := State.desc?_of_only hd
  obtain ⟨u, hwork, hshadow, hlast⟩ := outputStage_work hdesc hop hr hcar htest hover hw hheld hst hall
  generalize hm : ((d.foldOut s).run (u.ctx c).shadow u.mem d true).1 = m at hlast
  have hframe := ((hwork.under False.elim).trans' (.writeMem u m)).trans' (hlast.under False.elim)
  obtain ⟨-, hlive, hshadow', -⟩ := hframe.own (State.descs_ne_nil hdesc)
  refine ⟨runOutputStage s c d.seq, rfl, ?_, hframe.setup, hframe.links, hframe.err, ?_, hlive, hshadow',
    hframe.other (State.descs_ne_nil hdesc)⟩
  · rw [hlast.mem trivial, State.setMem_mem, ← hm, hshadow, hwork.mem trivial]
  · rw [hlast.trace trivial, State.setMem_trace, hwork.trace trivial]

end Sys2Proof.Laws
end

section
/-! CONVERT: the codes that a strip writes do not depend on the chunks into which its work is cut (R13, R14, R53). -/

namespace Sys2Proof.Machine

/-- The code that CONVERT writes for element `i`, its sources read in `m`. -/
def convertCode (s : State) (d : Desc) (m : Mem) (i : Nat) : Nat :=
  (convert ((d.src s).value m i) d.dfmt.fmt false d.infnan d.mode (d.rbyte 0 i)).1

/-! ## Elements in ascending order -/

theorem writeElems_append (m : Mem) (t : Tensor) (i : Nat) (l k : List Nat) :
    writeElems m t i (l ++ k) = writeElems (writeElems m t i l) t (i + l.length) k := by
  induction l generalizing m i with
  | nil => rfl
  | cons x r ih =>
    rw [List.cons_append, writeElems, ih, writeElems, List.length_cons]
    congr 1
    omega

theorem range2_self (n : Nat) : range2 n n = [] := by simp [range2]

theorem range2_length (lo hi : Nat) : (range2 lo hi).length = hi - lo := by simp [range2]

theorem range2_append {a b c : Nat} (hab : a ≤ b) (hbc : b ≤ c) : range2 a b ++ range2 b c = range2 a c := by
  have hn : c - a = (b - a) + (c - b) := by omega
  rw [range2, range2, range2, hn, List.range_add, List.map_append, List.map_map]
  congr 1
  refine List.map_congr_left (fun k _ => ?_)
  simp only [Function.comp]
  omega

/-! ## One part of a strip -/

/-- Observing elements leaves the residuals that are held. -/
theorem emitElems_held (st : Strip) (t : Tensor) (lo : Nat) (l : List (Nat × Ev)) : (emitElems st t lo l).d.held = st.d.held := by
  have hfold (f : Desc → Nat → Desc) (hf : ∀ d k, (f d k).held = d.held) (d : Desc) (ks : List Nat) :
      (ks.foldl f d).held = d.held := by
    induction ks generalizing d with
    | nil => rfl
    | cons k r ih => exact (ih _).trans (hf d k)
  refine hfold _ (fun d k => ?_) st.d _
  unfold Desc.emit
  extract_lets e c
  split <;> rfl

theorem checkpoint_facts (st : Strip) (key : List Nat) :
    (checkpoint st key).mem = st.mem ∧ (checkpoint st key).rd = st.rd ∧ (checkpoint st key).live = st.live ∧
      (checkpoint st key).d.held = st.d.held ∧ (checkpoint st key).d.cursor = st.d.cursor := by
  unfold checkpoint
  extract_lets d k
  split <;> exact ⟨rfl, rfl, rfl, rfl, rfl⟩

/-- What the elements of a CONVERT leave. -/
theorem stripConvert_facts (s : State) {d : Desc} {st : Strip} (hd : d.SameBlock st.d) (lo hi : Nat) :
    (stripConvert s st lo hi).mem = writeElems st.mem (d.dst s) lo ((range2 lo hi).map (convertCode s d st.rd)) ∧
      (stripConvert s st lo hi).rd = st.rd ∧ (stripConvert s st lo hi).live = st.live ∧
      (stripConvert s st lo hi).d.held = st.d.held ∧ d.SameBlock (stripConvert s st lo hi).d := by
  have hdst : st.d.dst s = d.dst s := by simp only [Desc.dst, Desc.dwin, Desc.doff, Desc.dfmt, Desc.count, Desc.w, hd.words]
  have hsrc : st.d.src s = d.src s := by simp only [Desc.src, Desc.swin, Desc.soff, Desc.sfmt, Desc.count, Desc.w, hd.words]
  have hround : st.d.round = d.round := by simp only [Desc.round, Desc.w, hd.words]
  have hbyte (i : Nat) : st.d.rbyte 0 i = d.rbyte 0 i := by
    have hseed : st.d.seed = d.seed ∧ st.d.stream = d.stream ∧ st.d.posbase = d.posbase := by
      simp only [Desc.seed, Desc.stream, Desc.posbase, Desc.w, hd.words, and_self]
    obtain ⟨hseed, hstream, hpos⟩ := hseed
    simp only [Desc.rbyte, hround, hseed, hstream, hpos]
  have hcode : convertCode s st.d st.rd = convertCode s d st.rd := by
    funext i
    simp only [convertCode, hsrc, hbyte, Desc.mode, hround, Desc.dfmt, Desc.infnan, Desc.w, hd.words]
  refine ⟨?_, rfl, rfl, emitElems_held _ _ _ _, hd.trans' (sameBlock_emitElems _ _ _ _)⟩
  rw [← hdst, ← hcode]
  simp only [stripConvert, emitElems, List.map_map]
  rfl

/-- The part of a strip of CONVERT that lies in one chunk ends after its first element and within the strip. -/
theorem partEnd_of_convert (s : State) {d : Desc} (hop : d.op = opCONVERT) {hi : Nat} (hcount : hi ≤ d.count) (fuel : Nat) {i : Nat}
    (hlt : i < hi) : i < partEnd s d hi fuel i ∧ partEnd s d hi fuel i ≤ hi := by
  have hgroups : d.groups = (1, 1) := by
    rw [Desc.groups, hop]
    rfl
  induction fuel generalizing i with
  | zero => exact ⟨hlt, Nat.le_refl hi⟩
  | succ n ih =>
    have hup : groupUp d.groups.1 d.groups.2 (i + 1) d.count = i + 1 := by
      rw [hgroups]
      simp [groupUp, Nat.mod_one]
      omega
    rw [partEnd, hup]
    split
    case isTrue => exact ⟨hlt, Nat.le_refl hi⟩
    case isFalse hmore =>
      simp only [Bool.or_eq_true, decide_eq_true_eq, not_or, Nat.not_le] at hmore
      obtain ⟨hnext, -⟩ := hmore
      split
      · exact ⟨Nat.lt_succ_self i, Nat.le_of_lt hnext⟩
      · obtain ⟨hlo, hhi⟩ := ih hnext
        exact ⟨by omega, hhi⟩

/-- The work of CONVERT on the elements `lo` to `hi - 1`, chunk by chunk, writes them in ascending order. -/
theorem byChunks_of_convert (s : State) {d : Desc} (hop : d.op = opCONVERT) {work : Strip → Nat → Nat → Strip}
    (hwork : work = stripConvert s) {hi : Nat} (hcount : hi ≤ d.count) (fuel : Nat) {st : Strip} {lo : Nat} (hd : d.SameBlock st.d)
    (hcursor : st.d.cursor = lo) (hle : lo ≤ hi) (hfuel : hi - lo ≤ fuel) :
    (byChunks s work hi fuel st lo).mem = writeElems st.mem (d.dst s) lo ((range2 lo hi).map (convertCode s d st.rd)) ∧
      (byChunks s work hi fuel st lo).live = st.live ∧ (byChunks s work hi fuel st lo).d.held = st.d.held ∧
      (byChunks s work hi fuel st lo).d.cursor = hi := by
  induction fuel generalizing st lo with
  | zero =>
    obtain rfl : lo = hi := by omega
    rw [range2_self]
    exact ⟨rfl, rfl, rfl, hcursor⟩
  | succ n ih =>
    rw [byChunks]
    split
    case isTrue hend =>
      obtain rfl : lo = hi := by omega
      rw [range2_self]
      exact ⟨rfl, rfl, rfl, hcursor⟩
    case isFalse hmore =>
      extract_lets u e r
      obtain ⟨hmem, hrd, hlive, hheld, -⟩ : u.mem = st.mem ∧ u.rd = st.rd ∧ u.live = st.live ∧ u.d.held = st.d.held ∧ _ :=
        checkpoint_facts st (workChunk s st.d lo)
      have hu : d.SameBlock u.d := hd.trans' (sameBlock_checkpoint st _)
      have hcountu : hi ≤ u.d.count := by rw [Desc.count, Desc.w, hu.words]; exact hcount
      obtain ⟨hlo, hhi⟩ : lo < e ∧ e ≤ hi := partEnd_of_convert s (hu.op.trans hop) hcountu _ (by omega)
      have hr : r = stripConvert s u lo e := by rw [← hwork]
      obtain ⟨rmem, rrd, rlive, rheld, rwords⟩ := stripConvert_facts s hu lo e
      rw [← hr] at rmem rrd rlive rheld rwords
      obtain ⟨qmem, qlive, qheld, qcursor⟩ := ih (st := { r with d := { r.d with cursor := e } }) (lo := e)
        ⟨rwords.words, rwords.par, rwords.seq⟩ rfl hhi (by omega)
      refine ⟨?_, qlive.trans (rlive.trans hlive), qheld.trans (rheld.trans hheld), qcursor⟩
      rw [qmem]
      simp only [rmem, rrd, hrd, hmem]
      have hlen : e = lo + ((range2 lo e).map (convertCode s d st.rd)).length := by
        rw [List.length_map, range2_length]
        omega
      rw [← range2_append (Nat.le_of_lt hlo) hhi, List.map_append, writeElems_append, ← hlen]

end Sys2Proof.Machine

namespace Sys2Proof.Laws
open Sys2Proof Sys2Proof.Machine

/-- Settles O17: the parts of the work write one after another, each in ascending order. -/
theorem convertStrip : Obligations.ConvertStrip := by
  unfold Obligations.ConvertStrip
  intro s d live l hi hop hle hcount hheld
  have hopn : ¬ d.op = opREDUCE ∧ ¬ d.op = opSAMPLE ∧ ¬ d.op = opFOLD := by
    rw [hop]
    decide
  obtain ⟨hreduce, hsample, hfold⟩ := hopn
  have hwork : (fun (st : Strip) (lo hi : Nat) =>
      if d.op = opCONVERT then stripConvert s st lo hi
      else if d.op = opQUANTISE then stripQuantise s hi (hi - lo) st lo
      else if d.op = opDEQUANTISE then stripDequantise s st lo hi
      else if d.op = opROTATE then stripRotate s st lo hi
      else if d.op = opFILL then stripFill s st lo hi
      else if d.op = opSTATS then stripStats s st lo hi
      else stripRecipe s st lo hi) = stripConvert s := by
    funext st lo hi
    exact if_pos hop
  have hstrip : stripWork s d live l (d.cursor, hi) = flushHeld s (byChunks s (stripConvert s) hi (hi - d.cursor)
      { mem := s.mem, rd := d.sourceMem s.mem, d := d, live := live } d.cursor) := by
    simp only [stripWork, if_neg hreduce, if_neg hsample, if_neg hfold, hwork]
  obtain ⟨hmem, hlive, hheld', hcursor⟩ := byChunks_of_convert s hop rfl hcount (hi - d.cursor)
    (st := { mem := s.mem, rd := d.sourceMem s.mem, d := d, live := live }) (.rfl' d) rfl hle (Nat.le_refl _)
  rw [hstrip]
  generalize byChunks s (stripConvert s) hi (hi - d.cursor) { mem := s.mem, rd := d.sourceMem s.mem, d := d, live := live } d.cursor
    = r at hmem hlive hheld' hcursor
  have hflush : flushHeld s r = r := by
    have hnone : r.d.held.isEmpty = true := by rw [hheld', hheld]; rfl
    simp only [flushHeld, hnone, if_true]
  rw [hflush]
  exact ⟨hmem, hcursor, hlive⟩

end Sys2Proof.Laws
end

section
/-! Completion records (R172): what a completion writes and presents, and what it leaves. -/

namespace Sys2Proof.Machine

/-- A record written leaves all but memory, the engine's requests and the outputs. -/
theorem engOnly_writeRecord (s : State) (e c a : Nat) (l : List Byte) :
    EngOnly (s.setMem (Mem.wrBytes s.mem a l)) (writeRecord s e c a l) := .sendReqs _ _ _

/-- A context whose ring has taken one record more (R172). -/
def Ctx.recorded (x : Ctx) : Ctx :=
  { x with
    cqTail := (x.cqTail + 1) % mod16, phase := if (x.cqTail + 1) % x.use.cqSize = 0 then !x.phase else x.phase }

/-- Where the next completion record of a context goes. -/
def Ctx.recordAddr (x : Ctx) : Nat := x.use.cqBase * 64 + 32 * (x.cqTail % x.use.cqSize)

theorem postRecord_eq (s : State) (c v : Nat) : postRecord s c v =
    (writeRecord s (s.ctx c).use.engine c (s.ctx c).recordAddr (leBytes 32 v)).setCtx c (s.ctx c).recorded := rfl

/-- What a completion record writes, presents and leaves. -/
theorem postRecord_facts {s : State} {c : Nat} (hd : (s.ctx c).descs ≠ []) (v : Nat) :
    WorkOnly False c s (postRecord s c v) ∧ (postRecord s c v).ctx c = (s.ctx c).recorded ∧
      (postRecord s c v).mem = Mem.wrBytes s.mem (s.ctx c).recordAddr (leBytes 32 v) ∧
      Presents s (postRecord s c v) ∧ (postRecord s c v).trace = s.trace := by
  have hrec := engOnly_writeRecord s (s.ctx c).use.engine c (s.ctx c).recordAddr (leBytes 32 v)
  have hout := Presents.writeRecord s (s.ctx c).use.engine c (s.ctx c).recordAddr (leBytes 32 v)
  rw [postRecord_eq]
  generalize writeRecord s (s.ctx c).use.engine c (s.ctx c).recordAddr (leBytes 32 v) = u at hrec hout
  generalize Mem.wrBytes s.mem (s.ctx c).recordAddr (leBytes 32 v) = m at hrec
  have hctx : u.ctx c = s.ctx c := hrec.ctx c
  have hset : u.setCtx c (s.ctx c).recorded = u.modCtx c Ctx.recorded := by rw [State.modCtx, hctx]
  have hlast := WorkOnly.modCtx (P := False) (c := c) u (f := Ctx.recorded) (fun _ h => h) (fun _ => ⟨rfl, rfl, rfl⟩)
  rw [← hset] at hlast
  exact ⟨((WorkOnly.writeMem s m).trans' (.ofEng hrec)).trans' hlast,
    State.ctx_setCtx u c (s.ctx c).recorded (Ctx.ne_of_descs hd), hrec.mem, hout.trans' (.ofOutputs rfl), hrec.trace⟩

/-- The counters that a completion raises in its context. -/
def CtxCounters.completed (k : CtxCounters) (d : Desc) : CtxCounters :=
  { k with done := k.done + 1, sat := k.sat + d.sat, flush := k.flush + d.flush, nonfin := k.nonfin + bit d.nonfin }

/-- What the counting of a completion leaves. -/
theorem countDone_facts {s : State} {c : Nat} (hd : (s.ctx c).descs ≠ []) (d : Desc) :
    WorkOnly False c s (countDone s c d) ∧ (countDone s c d).mem = s.mem ∧ (countDone s c d).trace = s.trace ∧
      (countDone s c d).outputs = s.outputs ∧
      (countDone s c d).ctx c = { s.ctx c with cnt := (s.ctx c).cnt.completed d } := by
  obtain ⟨u, hu, hcount⟩ : ∃ u, (EngOnly s u ∧ u.outputs = s.outputs) ∧
      countDone s c d = u.modCtx c (fun x => { x with cnt := x.cnt.completed d }) :=
    ⟨_, ⟨(EngOnly.modEng s _ _).trans' (.modEng _ _ _), rfl⟩, rfl⟩
  obtain ⟨heng, hout⟩ := hu
  have hctx : u.ctx c = s.ctx c := heng.ctx c
  have hlast := WorkOnly.modCtx (P := False) (c := c) u (f := fun x => { x with cnt := x.cnt.completed d }) (fun _ h => h)
    (fun _ => ⟨rfl, rfl, rfl⟩)
  rw [hcount]
  refine ⟨(WorkOnly.ofEng heng).trans' hlast, heng.mem, heng.trace, hout, ?_⟩
  rw [State.ctx_modCtx (Ctx.ne_of_descs (by rw [hctx]; exact hd)), hctx]

/-! ## The image of a stopped context (R289) -/

/-- A descriptor with no group begun and no residual held has nothing to finish. -/
theorem finishGroup_of_none {s : State} {t q : Nat} (hheld : (s.desc t q).held = [])
    (hpos : (s.desc t q).pos ≤ (s.desc t q).cursor) : finishGroup s t q = s := by
  have hbegun : ¬ (s.desc t q).cursor < (s.desc t q).pos := Nat.not_lt.2 hpos
  have hrelease : releaseHeld s t q = s := by simp only [releaseHeld, hheld, List.isEmpty_nil, if_true]
  simp only [finishGroup, hbegun, decide_false, Bool.and_false, Bool.false_eq_true, if_false, hrelease]

/-- A fetched descriptor, read by its slot, is one of those of its context. -/
theorem State.desc_mem {s : State} {c : Nat} {d : Desc} (h : d ∈ (s.ctx c).descs) : s.desc c d.seq ∈ (s.ctx c).descs := by
  cases hq : s.desc? c d.seq with
  | none => exact absurd (List.find?_eq_none.1 hq d h) (by simp)
  | some x =>
    rw [State.desc_of hq]
    exact State.desc?_mem hq

/-- The image of a target with no group begun is written where its chunks are held and it fits. -/
theorem writeImage_of_held {s : State} {c q t : Nat} {d : Desc} {a : Acc} (hd : s.desc? c q = some d) (hover : d.over = false)
    (hgroups : (s.ctx t).descs.all (fun x => x.held.isEmpty && decide (x.pos ≤ x.cursor)) = true)
    (hfits : d.doff + (contextImage s t).length ≤ (s.win d.dwin).bytes)
    (ha : a = { win := d.dwin, lo := d.doff, hi := d.doff + (contextImage s t).length, wr := true }) (hheld : HeldAll s d [a]) :
    writeImage s c d t = leaveCtx
      (((postWrites (s.setMem (Mem.wrBytes s.mem (s.addrOf d.dwin d.doff) (contextImage s t))) c q [a]).modDesc c q
        (fun d => { d with aux := (contextImage s t).length, finished := true })).modCtx t
          (fun x => { x with enable := false, saving := false })) t false := by
  obtain rfl := State.desc?_seq hd
  have hfinish : ((s.ctx t).descs.map (·.seq)).foldl (fun s q => finishGroup s t q) s = s := by
    refine foldl_fixed _ _ _ (fun q hq => ?_)
    obtain ⟨x, hx, rfl⟩ := List.mem_map.1 hq
    have hnone := List.all_eq_true.1 hgroups _ (State.desc_mem hx)
    simp only [Bool.and_eq_true, List.isEmpty_iff, decide_eq_true_eq] at hnone
    exact finishGroup_of_none hnone.1 hnone.2
  have hgate := gate_held hd hover hheld
  rw [ha] at hgate ⊢
  simp only [writeImage, hfinish, if_neg (Nat.not_lt.2 hfits), hgate, Bool.not_true, Bool.false_eq_true, if_false]

end Sys2Proof.Machine

namespace Sys2Proof.Laws
open Sys2Proof Sys2Proof.Machine

/-- Settles O22: the record goes to the ring, the counters rise, and the descriptor leaves its context. -/
theorem completionWrite : Obligations.CompletionWrite := by
  unfold Obligations.CompletionWrite
  intro c q s d hd hmay hkept
  obtain rfl := State.desc?_seq hd
  refine ⟨?_, fun hwatch hcoll hop hheld => ?_⟩
  · have htake : takeHeld s (s.engOf c) = s := by simp [takeHeld, hkept]
    change execCompletionWrite c d.seq s = _
    simp only [execCompletionWrite, htake, hd, hmay, if_true]
  · have hdescs := State.descs_ne_nil hd
    simp only [List.mem_cons, List.not_mem_nil, or_false, not_or] at hop
    obtain ⟨hstats, hlease, hribbon, hsave, hrestore⟩ := hop
    have hrelease : releaseHeld s c d.seq = s := by simp only [releaseHeld, State.desc_of hd, hheld, List.isEmpty_nil, if_true]
    have hend : endStats s c d = s := by simp [endStats, opSTATS, hstats]
    have hwrite : ∀ st, writeWatch s c d st = (s, none) := fun st => by simp [writeWatch, hwatch]
    have hgive : ∀ u, giveBack u c d = u := fun u => by
      simp [giveBack, opSAVE, opRESTORE, opRIBBON, opLEASE, hsave, hrestore, hribbon, hlease]
    generalize hv : completionNat d.reported (s.engOf c) d.finalStatus none (s.ctx c).phase = v
    obtain ⟨hpost, hpctx, hpmem, hpout, hptrace⟩ := postRecord_facts hdescs v
    have hpdescs : ((postRecord s c v).ctx c).descs ≠ [] := by rw [hpctx]; exact hdescs
    obtain ⟨hcount, hcmem, hctrace, hcout, hcctx⟩ := countDone_facts hpdescs d.reported
    have hcomplete : complete s c d = leaveIfDone (linkOn ((if d.notify then
        (traceEnd (countDone (postRecord s c v) c d.reported) (s.engOf c) c d.reported (if knownOp d.op then d.op else 0)
          d.finalStatus d.reported.sat d.reported.flush).out (.event 0 c)
        else traceEnd (countDone (postRecord s c v) c d.reported) (s.engOf c) c d.reported (if knownOp d.op then d.op else 0)
          d.finalStatus d.reported.sat d.reported.flush).modCtx c (fun x => { x with
            descs := x.descs.filter (fun y => y.seq != d.seq) })) (s.engOf c)) c := by
      simp only [complete, hrelease, hend, hwrite, hgive, hcoll, hv, Bool.false_and, Bool.false_eq_true, if_false]
    have htrace := traceOnly_traceEmitAt (countDone (postRecord s c v) c d.reported) (countDone (postRecord s c v) c d.reported).time
      (s.engOf c) 2 2
    have htout := Presents.traceEmitAt (countDone (postRecord s c v) c d.reported)
      (countDone (postRecord s c v) c d.reported).time (s.engOf c) 2 2
    obtain ⟨w, hw, hwork, hwout, hwmem⟩ : ∃ w, w = traceEnd (countDone (postRecord s c v) c d.reported) (s.engOf c) c d.reported
        (if knownOp d.op then d.op else 0) d.finalStatus d.reported.sat d.reported.flush ∧
        TraceOnly (countDone (postRecord s c v) c d.reported) w ∧ Presents (countDone (postRecord s c v) c d.reported) w ∧
        (s.trace.on = false → w.mem = (countDone (postRecord s c v) c d.reported).mem) := by
      refine ⟨_, rfl, htrace _, htout _, fun hoff => ?_⟩
      exact ((htrace _).send.quiet (by rw [hctrace, hptrace]; exact hoff)).1
    rw [← hw] at hcomplete
    have hall := (hpost.trans' hcount).trans' (.ofSend (c := c) hwork.send hwork.links False.elim)
    have hwctx : w.ctx c = { (s.ctx c).recorded with cnt := (s.ctx c).recorded.cnt.completed d.reported } := by
      rw [State.ctx, hwork.send.ctxs, ← State.ctx, hcctx, hpctx]
    obtain ⟨l, hl, hreq⟩ : Presents s w := (hpout.trans' (.ofOutputs hcout)).trans' hwout
    generalize hy : (if d.notify then w.out (.event 0 c) else w) = y at hcomplete
    have hyeng : EngOnly w y ∧ y.outputs = w.outputs ++ (if d.notify then [.event 0 c] else []) := by
      rw [← hy]
      cases d.notify with
      | true => exact ⟨.out w _, rfl⟩
      | false => exact ⟨.rfl' w, (List.append_nil _).symm⟩
    obtain ⟨hyeng, hyout⟩ := hyeng
    have hyctx : y.ctx c = _ := (hyeng.ctx c).trans hwctx
    have hne : ({ y.ctx c with descs := (y.ctx c).descs.filter (fun y => y.seq != d.seq) } : Ctx) ≠ {} := fun hdef => by
      have hdone := congrArg (fun x : Ctx => x.cnt.done) hdef
      rw [hyctx] at hdone
      exact absurd hdone (Nat.succ_ne_zero _)
    have hread := State.ctx_modCtx (s := y) (c := c) (f := fun x => { x with descs := x.descs.filter (fun y => y.seq != d.seq) }) hne
    rw [hyctx] at hread
    refine ⟨_, l, hcomplete, fun hoff => ?_, ?_, hreq, ?_, ?_, ?_, ?_, ?_, ?_, fun x hx => ?_⟩
    · rw [State.modCtx_mem, hyeng.mem, hwmem hoff, hcmem, hpmem, ← hv]
      rfl
    · rw [State.modCtx_outputs, hyout, hl]
    · exact (hall.setup.trans' hyeng.setup).trans' ⟨rfl, rfl, rfl, rfl, rfl, rfl, rfl, rfl, rfl, rfl, rfl, rfl, rfl⟩
    · exact hyeng.links.trans hall.links
    · exact hyeng.err.trans hall.err
    · rw [hread]
      rfl
    · rw [hread]
      rfl
    · rw [hread]
      rfl
    · rw [State.ctx_modCtx_other hne hx, hyeng.ctx, hall.other hdescs x hx]

/-- Settles O23: the image of a stopped target is written at once where no group is begun. -/
theorem contextImageWrite : Obligations.ContextImageWrite := by
  unfold Obligations.ContextImageWrite
  intro c q tgt s d a hd hop hadm hover hcar htgt hsaving hworks hstopped
  simp only [Engine.works, Bool.and_eq_true, Bool.not_eq_true'] at hworks
  obtain ⟨hon, hfenced⟩ := hworks
  refine ⟨?_, fun hgroups hfits ha hheld => ?_⟩
  · have hruns : (d.admitted && d.op == opSAVE && !d.over && carries s (s.engOf c)) = true := by
      simp [hadm, hop, hover, hcar, opSAVE]
    change execContextImageWrite c q s = _
    simp only [execContextImageWrite, hd, hruns, ← htgt, hfenced, hsaving, Engine.isOn, hon, hstopped, Bool.not_true, Bool.or_self,
      Bool.false_eq_true, if_false, if_true]
  · refine ⟨_, writeImage_of_held hd hover hgroups hfits ha hheld, ?_⟩
    generalize (contextImage s tgt).length = n
    generalize hm : Mem.wrBytes s.mem (s.addrOf d.dwin d.doff) (contextImage s tgt) = m
    have hposts := EngOnly.postWrites (s.setMem m) c q [a]
    have hdesc : (postWrites (s.setMem m) c q [a]).desc? c q = some d := (hposts.desc? c q).trans hd
    generalize postWrites (s.setMem m) c q [a] = u at hposts hdesc
    have hframe := ((WorkOnly.writeMem (c := c) s m).trans' (.ofEng hposts)).trans'
      (.modDesc u q (fun d => { d with aux := n, finished := true }))
    exact ⟨hposts.mem, State.desc?_modDesc_eq hdesc rfl rfl,
      hframe.setup, hframe.links, hframe.err, hposts.trace, hframe.other (State.descs_ne_nil hd)⟩

end Sys2Proof.Laws
end

section
/-! Inline service (R154 to R161): the one part of an access, and what answers it. -/

namespace Sys2Proof.Machine

/-! ## Accesses stay open through merges and errors -/

theorem State.coverFlush_accesses (s : State) (i : Nat) : (s.coverFlush i).accesses = s.accesses := by
  have hfold (f : State → Nat → State) (hf : ∀ s e, (f s e).accesses = s.accesses) (s : State) (l : List Nat) :
      (l.foldl f s).accesses = s.accesses := by
    induction l generalizing s with
    | nil => rfl
    | cons e r ih => exact (ih _).trans (hf s e)
  exact hfold _ (fun _ _ => by rfl) s _

theorem State.inlineEnable_accesses (s : State) (i : Nat) : (s.inlineEnable i).accesses = s.accesses := by
  rw [State.inlineEnable]
  split <;> rfl

theorem State.flushEnd_accesses (s : State) (i : Nat) : (s.flushEnd i).accesses = s.accesses := by
  unfold State.flushEnd
  extract_lets x u v
  split
  · rfl
  split
  · split
    · exact State.inlineEnable_accesses u i
    · rfl
  split
  · have hv : v.accesses = s.accesses := State.coverFlush_accesses (s.setInl i { x with flushAgain := false }) i
    split <;> exact hv
  · rfl

theorem external_accesses (s : State) (e : Nat) (parity : Bool) (p : ErrAt) : (external s e parity p).accesses = s.accesses := by
  unfold external writeErr
  extract_lets kind u r
  split <;> rfl

theorem inlineStackErr_accesses (s : State) (e i b : Nat) (parity : Bool) :
    (inlineStackErr s e i b parity).accesses = s.accesses :=
  (State.flushEnd_accesses _ i).trans (external_accesses s e parity _)

/-! ## The one part of an access -/

/-- An access of which no part is held is answered at once. -/
theorem respond_of_unheld {s : State} {h : HeldInline} (hacc : s.accesses.find? (fun a => a.id == h.acc) = none) (code : Nat)
    (data : List Byte) : respond s h code data = s.out (.inlineResp h.tag code data) := by
  simp only [respond, hacc]

/-- What the engine of the only part of an access is given. -/
def heldOf (s : State) (p : Part) (isWrite : Bool) (l : List PartStatus) (who : Asker) (addr : Nat)
    (data : List (Option Byte)) : HeldInline :=
  { isWrite := isWrite, tag := who.tag, addr := p.addr, pd := who.pd, len := p.len, data := data.drop (p.addr - addr)
    part := nth l 0 .ok, acc := s.accNext + 1, idx := 0 }

section OnePart
variable {s : State} {addr len : Nat} {p : Part} (hab : s.absent = false) (hp : s.parts len addr len = [p])
include hab hp

theorem inlineAccess_of_part (isWrite : Bool) (l : List PartStatus) (who : Asker) (data : List (Option Byte)) :
    inlineAccess s isWrite true l who.tag addr who.pd len data = servePart s 1 p (heldOf s p isWrite l who addr data) := by
  simp only [inlineAccess, hab, hp, Bool.false_eq_true, if_false, Bool.not_true, List.length_singleton]
  rfl

/-- A request with bad parity for an address outside the active windows is recorded and answered with DATA. -/
theorem inlineAccess_of_parity (hwin : p.win = none) (isWrite : Bool) (l : List PartStatus) (who : Asker)
    (data : List (Option Byte)) :
    inlineAccess s isWrite false l who.tag addr who.pd len data =
      (external s p.se true { lockind := 2, loc := p.block, win := 0, noctx := true }).out (.inlineResp who.tag 3 []) := by
  simp only [inlineAccess, hab, hp, hwin, Bool.false_eq_true, if_false, Bool.not_false, if_true, Option.isSome_none,
    Bool.false_and, Option.getD_none]

end OnePart

theorem inlineAccess_of_absent {s : State} (hab : s.absent = true) (isWrite ok : Bool) (l : List PartStatus) (tag addr pd len : Nat)
    (data : List (Option Byte)) : inlineAccess s isWrite ok l tag addr pd len data = s.out (.inlineResp tag 4 []) := by
  simp only [inlineAccess, hab, if_true]

/-! ## Service by an engine -/

theorem servePart_of_unmapped {s : State} {p : Part} (hwin : p.win = none) (h : HeldInline) :
    servePart s 1 p h = respond s h 1 [] := by
  simp only [servePart, hwin]

section Serve
variable {s : State} {p : Part} {i : Nat} (hwin : p.win = some i) (h : HeldInline)
include hwin

theorem servePart_of_off (hon : (s.eng p.se).isOn = false) :
    servePart s 1 p h = respond s { h with epoch := (s.eng p.se).epoch } 4 [] := by
  simp only [servePart, hwin, hon, Bool.not_false, if_true]

theorem servePart_of_fenced (hon : (s.eng p.se).isOn = true) (hf : (s.eng p.se).fenced = true) :
    servePart s 1 p h = respond s { h with epoch := (s.eng p.se).epoch } 3 [] := by
  simp only [servePart, hwin, hon, hf, Bool.not_true, Bool.false_eq_true, if_false, if_true]

theorem servePart_of_waits (hon : (s.eng p.se).isOn = true) (hf : (s.eng p.se).fenced = false)
    (hw : (s.eng p.se).testing = true ∨ (s.eng p.se).holding = true) :
    servePart s 1 p h = holdPart s p.se 1 { h with epoch := (s.eng p.se).epoch } := by
  have hwaits : ((s.eng p.se).testing || (s.eng p.se).holding) = true := by simpa using hw
  simp only [servePart, hwin, hon, hf, hwaits, Bool.not_true, Bool.false_eq_true, if_false, if_true]

theorem servePart_of_serves (hon : (s.eng p.se).isOn = true) (hf : (s.eng p.se).fenced = false)
    (ht : (s.eng p.se).testing = false) (hh : (s.eng p.se).holding = false)
    (hpart : h.part = .ok ∨ h.part = .stackErr ∨ h.part = .parity) :
    servePart s 1 p h = serveNow s p.se i p { h with epoch := (s.eng p.se).epoch } := by
  simp only [servePart, hwin, hon, hf, ht, hh, Bool.not_true, Bool.false_eq_true, if_false, Bool.or_self]
  rcases hpart with hpart | hpart | hpart <;> rw [hpart]

end Serve

section Now
variable {s : State} {e i : Nat} {p : Part} {h : HeldInline}

/-- A part without the right is refused (R161). -/
theorem serveNow_of_refused (hmay : s.inlineMay h.epoch i h.pd (!h.isWrite) = false) :
    serveNow s e i p h = respond s h 2 [] := by
  simp only [serveNow, partRefused, hmay, Bool.not_false, if_true]

variable (hmay : s.inlineMay h.epoch i h.pd (!h.isWrite) = true) (hlost : (s.inl i).lost.contains p.block = false)
include hmay hlost

theorem serveNow_of_write (hw : h.isWrite = true) : serveNow s e i p h = servePartWrite s e i p h := by
  rw [hw, Bool.not_true] at hmay
  simp only [serveNow, partRefused, hmay, hlost, hw, Bool.not_true, Bool.false_eq_true, if_false, if_true]

theorem serveNow_of_read (hw : h.isWrite = false) (hpart : h.part = .ok) : serveNow s e i p h = servePartRead s e i p h := by
  rw [hw] at hmay
  simp only [serveNow, partRefused, hmay, hlost, hw, hpart, Bool.not_true, Bool.false_eq_true, if_false]

theorem serveNow_of_stackErr (hw : h.isWrite = false) (hpart : h.part = .stackErr) :
    serveNow s e i p h = respond (inlineStackErr s e i p.block false) h 3 [] := by
  rw [hw] at hmay
  simp only [serveNow, partRefused, hmay, hlost, hw, hpart, Bool.not_true, Bool.false_eq_true, if_false]

theorem serveNow_of_parity (hw : h.isWrite = false) (hpart : h.part = .parity) :
    serveNow s e i p h = respond (inlineStackErr s e i p.block true) h 3 [] := by
  rw [hw] at hmay
  simp only [serveNow, partRefused, hmay, hlost, hw, hpart, Bool.not_true, Bool.false_eq_true, if_false]

end Now

/-! ## Reads -/

theorem blockRead_of_empty {s : State} {x : InlineSet} {b : Nat} (h : Mem.rdBits s.mem (s.inlBase x + x.stateOff) (2 * b) 2 = 0)
    (lo hi : Nat) : ∀ r ∈ blockRead s x b lo hi, r.1 = 0 := by
  intro r hr
  have hmask : blockMask s x b = 0 := by simp only [blockMask, h]
  simp only [blockRead, hmask, List.mem_map] at hr
  obtain ⟨j, -, rfl⟩ := hr
  have hbit : bitAt 0 j = false := by simp [bitAt]
  simp only [hbit, Bool.false_eq_true, if_false]

/-- The bytes that a part reads from a block as memory holds it. -/
def partBytes (s : State) (x : InlineSet) (p : Part) : List Byte :=
  (((blockRead s x p.block (p.off / x.viewBytes) (ceilDiv (p.off + p.len) x.viewBytes)).map
    (fun q => leBytes x.viewBytes q.1)).flatten.drop (p.off - p.off / x.viewBytes * x.viewBytes)).take p.len

/-- From `s` to `t` at most engines and inline windows have changed, and requests have been presented. -/
structure ServedOnly (s t : State) : Prop where
  mem : t.mem = s.mem
  ctxs : t.ctxs = s.ctxs
  windows : t.windows = s.windows
  links : t.links = s.links
  err : t.err = s.err
  trace : t.trace = s.trace
  accesses : t.accesses = s.accesses
  out : Presents s t

namespace ServedOnly

theorem trans' {s t u : State} (h : ServedOnly s t) (k : ServedOnly t u) : ServedOnly s u :=
  ⟨k.mem.trans h.mem, k.ctxs.trans h.ctxs, k.windows.trans h.windows, k.links.trans h.links, k.err.trans h.err,
    k.trace.trans h.trace, k.accesses.trans h.accesses,
    h.out.trans' k.out⟩

theorem modEng (s : State) (e : Nat) (f : Engine → Engine) : ServedOnly s (s.modEng e f) :=
  ⟨rfl, rfl, rfl, rfl, rfl, rfl, rfl, .modEng s e f⟩
theorem modInl (s : State) (i : Nat) (f : InlineWin → InlineWin) : ServedOnly s (s.modInl i f) :=
  ⟨rfl, rfl, rfl, rfl, rfl, rfl, rfl, .ofOutputs rfl⟩

theorem readMem (s : State) (e a n : Nat) : ServedOnly s (readMem s e a n) := by
  have hout := Presents.readMem s e a n
  rw [readMem_eq] at hout ⊢
  exact ⟨rfl, rfl, rfl, rfl, rfl, rfl, rfl, hout⟩

theorem inlineReads (s : State) (e : Nat) (l : List (Nat × Nat)) : ServedOnly s (inlineReads s e l) := by
  induction l generalizing s with
  | nil => exact ⟨rfl, rfl, rfl, rfl, rfl, rfl, rfl, .rfl' s⟩
  | cons r k ih => exact (readMem s e r.1 r.2).trans' (ih _)

theorem inlineEvents (s : State) (e i : Nat) (evs : List Ev) : ServedOnly s (inlineEvents s e i evs) := by
  simp only [Machine.inlineEvents, countNumeric]
  exact (modInl s i _).trans' (modEng _ e _)

theorem countServed (s : State) (e : Nat) : ServedOnly s (countServed s e) := modEng s e _
theorem countIn (s : State) (e w n : Nat) : ServedOnly s (countIn s e none w n) := by
  simp only [Machine.countIn]
  exact modEng s e _

end ServedOnly

/-- A read of a block without buffered writes: the reads of the stack, counters and events, then the response. -/
theorem servePartRead_of_no_entry {s : State} {e i : Nat} {p : Part} (h : HeldInline) (hentry : (s.eng e).entry? i p.block = none)
    (hacc : s.accesses.find? (fun a => a.id == h.acc) = none) :
    ∃ u, servePartRead s e i p h = u.out (.inlineResp h.tag 0 (partBytes s (s.inl i).use p)) ∧ ServedOnly s u := by
  have hmerge : mergeBlock s e i p.block .ok = s := by simp only [mergeBlock, hentry]
  generalize hl : stateRanges (s.inl i).use (s.inlBase (s.inl i).use) p.block ++
    blockRanges (s.inl i).use ((s.inl i).use.tensor (s.inlBase (s.inl i).use)) p.block = l
  have hreads := ServedOnly.inlineReads s e l
  simp only [servePartRead, hmerge, hl]
  have hserved := ((hreads.trans' (.countServed _ e)).trans' (.inlineEvents _ e i ((blockRead s (s.inl i).use p.block
      (p.off / (s.inl i).use.viewBytes) (ceilDiv (p.off + p.len) (s.inl i).use.viewBytes)).map (·.2)))).trans'
    (.countIn _ e (s.inl i).use.fmt.fmt.w
      (ceilDiv (p.off + p.len) (s.inl i).use.viewBytes - p.off / (s.inl i).use.viewBytes))
  exact ⟨_, respond_of_unheld (by rw [hserved.accesses, hacc]) 0 _, hserved⟩

/-! ## Writes -/

/-- A write to a block without an entry, where the buffer has room and the entry does not hold its whole block. -/
theorem servePartWrite_of_room {s : State} {e i : Nat} {p : Part} {h : HeldInline} {y : Engine} {b : List (Nat × Byte)}
    (hy : y = s.eng e) (hon : y.isOn = true) (hentry : y.entry? i p.block = none) (hroom : y.wc.length < 64)
    (hb : b = (List.range p.len).filterMap (fun k => (nth h.data k none).map (fun v => (p.off + k, v))))
    (hpart : WcEntry.mask { data := b } (s.inl i).use.viewBytes ≠ 2 ^ (s.inl i).use.blockC - 1)
    (hacc : s.accesses.find? (fun a => a.id == h.acc) = none) :
    servePartWrite s e i p h = (s.setEng e { y with
      issued := true, cnt := { y.cnt with inlineCnt := y.cnt.inlineCnt + 1 }, wcStamp := y.wcStamp + 1
      wc := y.wc ++ [{ win := i, block := p.block, data := b, stamp := y.wcStamp + 1 }] }).out (.inlineResp h.tag 0 []) := by
  subst hy
  have hne : ∀ z : Engine, z.st = (s.eng e).st → z ≠ {} := fun z hz hdef => by
    have hoff := congrArg Engine.isOn hdef
    rw [Engine.isOn, hz] at hoff
    rw [Engine.isOn, hoff] at hon
    cases hon
  generalize hz : ({ s.eng e with issued := true, cnt := { (s.eng e).cnt with inlineCnt := (s.eng e).cnt.inlineCnt + 1 } } : Engine) = z
  have hserved : countServed s e = s.setEng e z := by rw [countServed, State.modEng, hz]
  have hread : (s.setEng e z).eng e = z := State.eng_setEng s e z (hne z (by rw [← hz]))
  have hzentry : z.entry? i p.block = none := by rw [← hz]; exact hentry
  have hzroom : ¬ 64 ≤ z.wc.length := by rw [← hz]; exact Nat.not_le.2 hroom
  have hzne : z ≠ {} := hne z (by rw [← hz])
  generalize hw : ({ win := i, block := p.block, data := b, stamp := z.wcStamp + 1 } : WcEntry) = w
  generalize hv : ({ z with wcStamp := z.wcStamp + 1, wc := z.wc ++ [w] } : Engine) = v
  have hvread : (s.setEng e v).eng e = v := State.eng_setEng s e v (hne v (by rw [← hv, ← hz]))
  have hventry : v.entry? i p.block = some w := by
    have hnone : z.wc.find? (fun w => w.win == i && w.block == p.block) = none := hzentry
    rw [← hv, Engine.entry?, List.find?_append, hnone, Option.none_or, ← hw]
    simp
  have hwpart : ¬ w.mask (s.inl i).use.viewBytes = 2 ^ (s.inl i).use.blockC - 1 := by rw [← hw]; exact hpart
  have hanswer : respond (s.setEng e v) h 0 [] = (s.setEng e v).out (.inlineResp h.tag 0 []) :=
    respond_of_unheld (s := s.setEng e v) hacc 0 []
  simp only [servePartWrite, hserved, hread, hzentry, hzroom, Option.isNone_none, Option.isSome_none, decide_false, Bool.and_false,
    Bool.false_eq_true, if_false, ← hb, State.modEng_setEng s e z _ hzne, hw, hv, hanswer, State.out_eng, hvread, hventry,
    State.out_inl, State.setEng_inl, if_neg hwpart]
  rw [← hv, ← hw, ← hz]

end Sys2Proof.Machine

namespace Sys2Proof.Laws
open Sys2Proof Sys2Proof.Machine

/-- Settles O25: the one part of a read is answered, held or served by its engine. -/
theorem inlineRead : Obligations.InlineRead := by
  unfold Obligations.InlineRead
  refine ⟨?_, ?_⟩
  · intro addr len i l who s p x hab hacc hp haddr hx hwin
    have hexec : exec (.inlineRead true l addr who len) s = .next (servePart s 1 p (heldOf s p false l who addr [])) :=
      congrArg Host.Outcome.next (inlineAccess_of_part hab hp false l who [])
    have hans (u : State) (hu : u.accesses = s.accesses) (code : Nat) (data : List Byte) :
        respond u { heldOf s p false l who addr [] with epoch := (s.eng p.se).epoch } code data =
          u.out (.inlineResp who.tag code data) := respond_of_unheld (by rw [hu]; exact hacc) code data
    refine ⟨fun hon => ?_, fun hon hf => ?_, fun hon hf hw => ?_, fun hon hf ht hh hpart => ⟨fun hmay => ?_, fun hmay hlost hentry => ?_⟩,
      fun hon hf ht hh hmay hlost => ⟨fun hpart => ?_, fun hpart => ?_⟩, fun hstate => blockRead_of_empty hstate⟩
    · rw [hexec, servePart_of_off hwin _ hon, hans s rfl]
    · rw [hexec, servePart_of_fenced hwin _ hon hf, hans s rfl]
    · rw [hexec, servePart_of_waits hwin _ hon hf hw, heldOf, haddr, List.drop_nil]
    · rw [hexec, servePart_of_serves hwin _ hon hf ht hh (.inl hpart), serveNow_of_refused hmay, hans s rfl]
    · have hnow := serveNow_of_read (e := p.se) (h := { heldOf s p false l who addr [] with epoch := (s.eng p.se).epoch }) hmay hlost
        rfl hpart
      obtain ⟨u, hu, hserved⟩ := servePartRead_of_no_entry { heldOf s p false l who addr [] with epoch := (s.eng p.se).epoch }
        hentry hacc
      obtain ⟨k, hk, hreq⟩ := hserved.out
      refine ⟨_, k, hexec.trans (congrArg Host.Outcome.next
        ((servePart_of_serves hwin _ hon hf ht hh (.inl hpart)).trans (hnow.trans hu))), hreq, ?_, hserved.mem, hserved.ctxs,
        hserved.windows, hserved.links, hserved.err, hserved.trace⟩
      rw [State.out_outputs, hk, hx]
      rfl
    · rw [hexec, servePart_of_serves hwin _ hon hf ht hh (.inr (.inl hpart)), serveNow_of_stackErr hmay hlost rfl hpart,
        hans _ (inlineStackErr_accesses _ _ _ _ _)]
    · rw [hexec, servePart_of_serves hwin _ hon hf ht hh (.inr (.inr hpart)), serveNow_of_parity hmay hlost rfl hpart,
        hans _ (inlineStackErr_accesses _ _ _ _ _)]
  · intro addr len l who data s hlen
    refine ⟨fun hab => ⟨?_, ?_⟩, fun p hab hp hwin => ⟨fun hacc => ⟨?_, ?_⟩, fun u hu => ⟨?_, ?_⟩⟩⟩
    · exact congrArg Host.Outcome.next (inlineAccess_of_absent hab false true l who.tag addr who.pd len [])
    · exact congrArg Host.Outcome.next (inlineAccess_of_absent hab true true l who.tag addr who.pd data.length data)
    · refine congrArg Host.Outcome.next ((inlineAccess_of_part hab hp false l who []).trans ?_)
      exact (servePart_of_unmapped hwin _).trans (respond_of_unheld hacc 1 [])
    · rw [← hlen] at hp
      refine congrArg Host.Outcome.next ((inlineAccess_of_part hab hp true l who data).trans ?_)
      exact (servePart_of_unmapped hwin _).trans (respond_of_unheld hacc 1 [])
    · rw [hu]
      exact congrArg Host.Outcome.next (inlineAccess_of_parity hab hp hwin false l who [])
    · rw [hu]
      rw [← hlen] at hp
      exact congrArg Host.Outcome.next (inlineAccess_of_parity hab hp hwin true l who data)

/-- Settles O26: the enabled bytes of a write enter a new entry of the buffer. -/
theorem inlineWrite : Obligations.InlineWrite := by
  unfold Obligations.InlineWrite
  intro addr i l who data s p y b hab hacc hp haddr hwin hy hon hf ht hh hpart
  have hexec : exec (.inlineWrite true l addr who data) s = .next (servePart s 1 p (heldOf s p true l who addr data)) :=
    congrArg Host.Outcome.next (inlineAccess_of_part hab hp true l who data)
  have hserve : exec (.inlineWrite true l addr who data) s =
      .next (serveNow s p.se i p { heldOf s p true l who addr data with epoch := (s.eng p.se).epoch }) := by
    rw [hexec, servePart_of_serves hwin _ (hy ▸ hon) (hy ▸ hf) (hy ▸ ht) (hy ▸ hh) (.inl hpart)]
  refine ⟨fun hmay => ?_, fun hmay hlost hentry hroom hb hmask => ?_⟩
  · rw [hy] at hmay
    rw [hserve, serveNow_of_refused hmay, respond_of_unheld hacc]
    rfl
  · have hdata : data.drop (p.addr - addr) = data := by rw [haddr, Nat.sub_self, List.drop_zero]
    rw [hserve]
    rw [hy] at hmay
    rw [serveNow_of_write hmay hlost rfl, servePartWrite_of_room hy hon hentry hroom (by rw [hb, heldOf, hdata]) hmask hacc]
    rfl

/-- Settles O27: a merge follows the answer of the stack, and an accepted enable initialises its block states. -/
theorem inlineMerge : Obligations.InlineMerge := by
  unfold Obligations.InlineMerge
  refine ⟨fun e i b s w hw hruns => ?_, fun i s x hx hpend => ?_⟩
  · have hcond : (((s.eng e).isOn && w.inFlush && !(s.eng e).testing && !(s.eng e).holding) || (s.eng e).st == .quiescing) = true := by
      rcases hruns with ⟨hon, hflush, ht, hh⟩ | hq
      · simp [hon, hflush, ht, hh]
      · simp [hq]
    have hexec (part : PartStatus) : exec (.merge e i b part) s = .next (mergeBlock s e i b part) := by
      change execMerge e i b part s = _
      simp only [execMerge, hw, hcond, if_true]
    refine ⟨?_, ?_, ?_, fun k hk => ?_⟩
    · rw [hexec]
      simp only [mergeBlock, hw]
    · rw [hexec]
      simp only [mergeBlock, hw, inlineStackErr]
    · rw [hexec]
      simp only [mergeBlock, hw, inlineStackErr]
    · have hcorr : (k.kind == .secdedCorr) = false := beq_eq_false_iff_ne.2 hk
      rw [hexec]
      simp only [mergeBlock, hw, hcorr, Bool.false_and, Bool.false_eq_true, if_false]
  · change execInlineActivate i s = _
    rw [hx] at hpend ⊢
    simp only [execInlineActivate, hpend, if_true]

end Sys2Proof.Laws
end

section
/-! A rail that falls (R344): what the engines of a die that are put OFF at once leave of the other engines, of the contexts and of
the always-on island. -/

namespace Sys2Proof.Machine

/-! ## What a cut leaves -/

/-- A context that has not been enabled, made resident or held for an enable, and keeps the words under which it runs. -/
structure Ctx.Falls (x y : Ctx) : Prop where
  use : y.use = x.use
  enable : x.enable = false → y.enable = false
  resident : x.resident = false → y.resident = false
  reEnable : x.reEnable = false → y.reEnable = false

theorem Ctx.Falls.rfl' (x : Ctx) : x.Falls x := ⟨rfl, id, id, id⟩

theorem Ctx.Falls.trans' {x y z : Ctx} (h : x.Falls y) (k : y.Falls z) : x.Falls z :=
  ⟨k.use.trans h.use, k.enable ∘ h.enable, k.resident ∘ h.resident, k.reEnable ∘ h.reEnable⟩

/-- The tables of engines and of contexts are in canonical form. -/
structure State.Canon (s : State) : Prop where
  eng : SMap.wf s.engines {} = true
  ctx : SMap.wf s.ctxs {} = true

theorem State.ctx_setCtx_of_canon {s : State} (hs : s.Canon) (c : Nat) (v : Ctx) (x : Nat) :
    (s.setCtx c v).ctx x = if x = c then v else s.ctx x := by
  split
  · next hx => exact hx ▸ SMap.get_set_same _ _ _ _ 0 hs.ctx
  · next hx => exact SMap.get_set_other _ _ _ _ _ 0 hs.ctx hx

theorem State.eng_setEng_of_canon {s : State} (hs : s.Canon) (e : Nat) (v : Engine) (x : Nat) :
    (s.setEng e v).eng x = if x = e then v else s.eng x := by
  split
  · next hx => exact hx ▸ SMap.get_set_same _ _ _ _ 0 hs.eng
  · next hx => exact SMap.get_set_other _ _ _ _ _ 0 hs.eng hx

/-- The island's words and tables that the fall of a rail leaves. -/
structure IslandWords (s t : State) : Prop where
  pins : t.pins = s.pins
  img : t.img = s.img
  time : t.time = s.time
  epoch : t.epoch = s.epoch
  windows : t.windows = s.windows
  pds : t.pds = s.pds
  err : t.err = s.err
  dom : t.dom = s.dom
  samp : t.samp = s.samp

theorem IslandWords.rfl' (s : State) : IslandWords s s := ⟨rfl, rfl, rfl, rfl, rfl, rfl, rfl, rfl, rfl⟩

theorem IslandWords.trans' {s t u : State} (h : IslandWords s t) (k : IslandWords t u) : IslandWords s u :=
  ⟨k.pins.trans h.pins, k.img.trans h.img, k.time.trans h.time, k.epoch.trans h.epoch, k.windows.trans h.windows,
    k.pds.trans h.pds, k.err.trans h.err, k.dom.trans h.dom, k.samp.trans h.samp⟩

/-- From `s` to `t` the island's words stay, every engine keeps its island part, and contexts only fall. -/
structure RailOnly (s t : State) : Prop where
  words : IslandWords s t
  canon : s.Canon → t.Canon
  island : s.Canon → ∀ j, (t.eng j).island = (s.eng j).island
  falls : s.Canon → ∀ c, (s.ctx c).Falls (t.ctx c)

namespace RailOnly

theorem rfl' (s : State) : RailOnly s s := ⟨.rfl' s, id, fun _ _ => rfl, fun _ _ => .rfl' _⟩

theorem trans' {s t u : State} (h : RailOnly s t) (k : RailOnly t u) : RailOnly s u where
  words := h.words.trans' k.words
  canon := k.canon ∘ h.canon
  island := fun hs j => (k.island (h.canon hs) j).trans (h.island hs j)
  falls := fun hs c => (h.falls hs c).trans' (k.falls (h.canon hs) c)

theorem foldl {α : Type} {f : State → α → State} (hf : ∀ s x, RailOnly s (f s x)) (s : State) (l : List α) :
    RailOnly s (l.foldl f s) := by
  induction l generalizing s with
  | nil => exact rfl' s
  | cons x r ih => exact (hf s x).trans' (ih _)

/-- Operations that leave the tables of engines and contexts. -/
theorem ofTables {s t : State} (hw : IslandWords s t) (he : t.engines = s.engines) (hc : t.ctxs = s.ctxs) : RailOnly s t where
  words := hw
  canon := fun h => ⟨he ▸ h.eng, hc ▸ h.ctx⟩
  island := fun _ j => by rw [State.eng, he, State.eng]
  falls := fun _ c => by
    rw [State.ctx, State.ctx, hc]
    exact .rfl' _

/-- Operations of the ports. -/
theorem ofEng {s t : State} (h : EngOnly s t) (k : IslandSame s t) : RailOnly s t where
  words := ⟨h.setup.pins, h.setup.img, h.setup.time, h.setup.epoch, h.setup.windows, h.setup.pds, h.err, h.setup.dom,
    h.setup.samp⟩
  canon := fun hs => ⟨k.wf hs.eng, h.ctxs ▸ hs.ctx⟩
  island := fun _ j => k.same j
  falls := fun _ c => by
    rw [h.ctx]
    exact .rfl' _

theorem setMem (s : State) (m : Mem) : RailOnly s (s.setMem m) := ofTables ⟨rfl, rfl, rfl, rfl, rfl, rfl, rfl, rfl, rfl⟩ rfl rfl
theorem out (s : State) (o : Output) : RailOnly s (s.out o) := ofTables ⟨rfl, rfl, rfl, rfl, rfl, rfl, rfl, rfl, rfl⟩ rfl rfl
theorem setInl (s : State) (i : Nat) (v : InlineWin) : RailOnly s (s.setInl i v) :=
  ofTables ⟨rfl, rfl, rfl, rfl, rfl, rfl, rfl, rfl, rfl⟩ rfl rfl
theorem modLink (s : State) (p : Nat) (f : Link → Link) : RailOnly s (s.modLink p f) :=
  ofTables ⟨rfl, rfl, rfl, rfl, rfl, rfl, rfl, rfl, rfl⟩ rfl rfl

theorem setCtx {s : State} {c : Nat} {v : Ctx} (hv : s.Canon → (s.ctx c).Falls v) : RailOnly s (s.setCtx c v) where
  words := ⟨rfl, rfl, rfl, rfl, rfl, rfl, rfl, rfl, rfl⟩
  canon := fun hs => ⟨hs.eng, SMap.wf_set _ _ _ _ hs.ctx⟩
  island := fun _ _ => rfl
  falls := fun hs x => by
    rw [State.ctx_setCtx_of_canon hs]
    split
    · next hx => exact hx ▸ hv hs
    · exact .rfl' _

theorem modCtx (s : State) (c : Nat) {f : Ctx → Ctx} (hf : ∀ x : Ctx, x.Falls (f x)) : RailOnly s (s.modCtx c f) :=
  setCtx (fun _ => hf _)

theorem modDesc (s : State) (c q : Nat) (f : Desc → Desc) : RailOnly s (s.modDesc c q f) :=
  modCtx s c (fun _ => by exact ⟨rfl, id, id, id⟩)

theorem modEng (s : State) (e : Nat) {f : Engine → Engine} (hf : ∀ x : Engine, (f x).island = x.island) :
    RailOnly s (s.modEng e f) where
  words := ⟨rfl, rfl, rfl, rfl, rfl, rfl, rfl, rfl, rfl⟩
  canon := fun hs => ⟨SMap.wf_set _ _ _ _ hs.eng, hs.ctx⟩
  island := fun hs => (IslandSame.modEng hf (.inl hs.eng)).same
  falls := fun _ _ => .rfl' _

/-! ## Inline accesses and the cut -/

theorem drainAccess (s : State) (a : OpenAccess) (n : Nat) : RailOnly s (drainAccess s a n) := by
  induction n generalizing s a with
  | zero => exact ofTables ⟨rfl, rfl, rfl, rfl, rfl, rfl, rfl, rfl, rfl⟩ rfl rfl
  | succ n ih =>
    rw [Machine.drainAccess]
    split
    · exact (out s _).trans' (ih _ _)
    · exact ofTables ⟨rfl, rfl, rfl, rfl, rfl, rfl, rfl, rfl, rfl⟩ rfl rfl

theorem respond (s : State) (p : HeldInline) (code : Nat) (data : List Byte) : RailOnly s (respond s p code data) := by
  unfold Machine.respond
  split
  · split
    · exact out s _
    · exact drainAccess s _ _
  · exact out s _

theorem dropHeldIn (s : State) (e code : Nat) : RailOnly s (s.dropHeldIn e code) :=
  (modEng s e (fun _ => by rfl)).trans' (foldl (fun s x => respond s x code []) _ _)

theorem trace (s : State) (v : Trace) : RailOnly s { s with trace := v } :=
  ofTables ⟨rfl, rfl, rfl, rfl, rfl, rfl, rfl, rfl, rfl⟩ rfl rfl

/-- Every engine's part in the cut is dropped. -/
theorem dropParts (s : State) (v : Trace) :
    RailOnly s { s with trace := v, engines := SMap.mapVals s.engines {} (fun x => { x with cut := {} }) } where
  words := ⟨rfl, rfl, rfl, rfl, rfl, rfl, rfl, rfl, rfl⟩
  canon := fun hs => ⟨SMap.wfFrom_mapVals s.engines {} (fun x : Engine => { x with cut := {} }) 0 hs.eng, hs.ctx⟩
  island := fun hs j => by
    have hread := congrArg Engine.island (SMap.get_mapVals s.engines {} (fun x : Engine => { x with cut := {} }) j 0 hs.eng rfl)
    exact hread
  falls := fun _ _ => .rfl' _

theorem cutCheck (s : State) : RailOnly s (cutCheck s) := by
  unfold Machine.cutCheck
  split
  · simp only []
    split
    · exact trace s _
    · cases s.trace.granted with
      | none => exact dropParts s _
      | some g =>
        have hdone := trace s { s.trace with cutDone := true, cutTime := s.time }
        have hfinish := modDesc { s with trace := { s.trace with cutDone := true, cutTime := s.time } } g.1 g.2
          (fun d => { d with finished := true })
        exact (hdone.trans' hfinish).trans' (dropParts _ _)
  · exact rfl' s

theorem leaveCut (s : State) (e : Nat) : RailOnly s (leaveCut s e) := by
  unfold Machine.leaveCut
  split
  · exact (modEng s e (fun _ => by rfl)).trans' (cutCheck _)
  · exact rfl' s

/-! ## Flushes of inline windows -/

theorem coverFlush (s : State) (i : Nat) : RailOnly s (s.coverFlush i) :=
  foldl (fun s e => modEng s e (fun _ => by rfl)) s _

theorem inlineEnable (s : State) (i : Nat) : RailOnly s (s.inlineEnable i) := by
  rw [State.inlineEnable]
  split <;> exact setInl s i _

theorem flushEnd (s : State) (i : Nat) : RailOnly s (s.flushEnd i) := by
  unfold State.flushEnd
  extract_lets x u v
  split
  · exact rfl' s
  split
  · have hu : RailOnly s u := setInl s i _
    split
    · exact hu.trans' (inlineEnable u i)
    · exact hu
  split
  · have hv : RailOnly s v := (setInl s i { x with flushAgain := false }).trans' (coverFlush _ i)
    split
    · exact hv
    · exact hv.trans' (setInl v i _)
  · exact setInl s i _

theorem dropWc (s : State) (e : Nat) : RailOnly s (s.dropWc e) :=
  (modEng s e (fun _ => by rfl)).trans' (foldl (fun s i => flushEnd s i) _ _)

/-! ## Doorbells held for a target -/

theorem sendReqs (s : State) (e : Nat) (l : List Req) : RailOnly s (s.sendReqs e l) := ofEng (.sendReqs s e l) (.sendReqs s e l)

theorem readMem (s : State) (e a n : Nat) : RailOnly s (readMem s e a n) := foldl (fun s _ => out s _) s _

theorem claimFrom (s : State) (c q w k word : Nat) : RailOnly s (claimFrom s c q w k word) := by
  unfold Machine.claimFrom sendSwap
  split
  · exact (modDesc s c q _).trans' (sendReqs _ _ _)
  · exact modDesc s c q _

theorem reReadFlags (s : State) (c : Nat) : RailOnly s (reReadFlags s c) := by
  refine foldl (fun s d => ?_) s _
  refine foldl (fun s k => ?_) s _
  split
  · exact claimFrom s c d.seq _ _ _
  · exact rfl' s

theorem dropDoorbell (s : State) (c : Nat) : RailOnly s (dropDoorbell s c) := by
  unfold Machine.dropDoorbell
  extract_lets u
  have hu : RailOnly s u := ofTables ⟨rfl, rfl, rfl, rfl, rfl, rfl, rfl, rfl, rfl⟩ rfl rfl
  split
  · exact hu.trans' (modCtx u c (fun _ => by exact ⟨rfl, id, id, id⟩))
  · exact hu

theorem ringDoorbell (s : State) (c v : Nat) : RailOnly s (ringDoorbell s c v) := by
  unfold Machine.ringDoorbell
  extract_lets x p h u
  split
  · have hu : RailOnly s u := setCtx (fun _ => by exact ⟨rfl, id, id, id⟩)
    split
    · exact hu.trans' (reReadFlags u c)
    · exact hu
  · exact setCtx (fun _ => by exact ⟨rfl, id, id, id⟩)

theorem takeDoorbell (s : State) (c v : Nat) : RailOnly s (takeDoorbell s c v) := by
  unfold Machine.takeDoorbell
  extract_lets x e
  split
  · exact dropDoorbell s c
  split
  · split
    · exact setCtx (fun _ => by exact ⟨rfl, id, id, id⟩)
    · exact dropDoorbell s c
  · exact ringDoorbell s c v

theorem releaseDoorbells (s : State) (c : Nat) : RailOnly s (releaseDoorbells s c) :=
  (modCtx s c (fun _ => by exact ⟨rfl, id, id, id⟩)).trans' (foldl (fun s v => takeDoorbell s c v) _ _)

theorem releaseTargets (s : State) (c : Nat) : RailOnly s (releaseTargets s c) := by
  refine foldl (fun s d => ?_) s _
  split
  · exact modCtx s _ (fun _ => by exact ⟨rfl, id, id, id⟩)
  split
  · exact (modCtx s _ (fun _ => by exact ⟨rfl, id, id, id⟩)).trans' (releaseDoorbells _ _)
  · exact rfl' s

/-! ## A context leaves an engine that goes OFF -/

theorem writeCtxRec (s : State) (c kind : Nat) : RailOnly s (writeCtxRec s c kind) := (setMem s _).trans' (sendReqs _ _ _)

end RailOnly

/-- A context that is not held for an enable leaves its engine, not enabled and not resident. -/
theorem leaveCtx_off {s : State} (hs : s.Canon) {c : Nat} (hre : (s.ctx c).reEnable = false) :
    RailOnly s (leaveCtx s c true) ∧ ((leaveCtx s c true).ctx c).enable = false ∧ ((leaveCtx s c true).ctx c).resident = false := by
  unfold leaveCtx
  extract_lets u x e v w again y z
  have hu : RailOnly s u := .releaseTargets s c
  have hagain : again = false := by
    have hx : x.reEnable = false := (hu.falls hs c).reEnable hre
    simp only [again, hx, Bool.false_and]
  have hv : RailOnly u v := by
    by_cases h : (x.resident && (u.eng e).ctxEff && !(u.eng e).fenced) = true
    · have hrec : v = writeCtxRec u c 3 := if_pos h
      exact hrec ▸ .writeCtxRec u c 3
    · have hsame : v = u := if_neg h
      exact hsame ▸ .rfl' u
  have huw : RailOnly u w := hv.trans' (.modEng v e (fun _ => by rfl))
  have henable : (if (true && !again) = true then false else x.enable) = false := by rw [hagain]; rfl
  have huse : (w.ctx c).use = x.use := (huw.falls (hu.canon hs) c).use
  have hy : RailOnly w y := .setCtx (fun _ => ⟨huse.symm, fun _ => henable, fun _ => rfl, fun _ => rfl⟩)
  have hz : RailOnly s z := ((hu.trans' huw).trans' hy).trans' (.ofTables ⟨rfl, rfl, rfl, rfl, rfl, rfl, rfl, rfl, rfl⟩ rfl rfl)
  have hread : z.ctx c = _ := (State.ctx_setCtx_of_canon ((hu.trans' huw).canon hs) c _ c).trans (if_pos rfl)
  rw [if_neg (by rw [hagain]; exact Bool.false_ne_true), hread]
  exact ⟨hz, henable, rfl⟩

/-- Contexts that leave one after another. -/
theorem leaveCtxs_off {s : State} (hs : s.Canon) (l : List Nat) (hre : ∀ c ∈ l, (s.ctx c).reEnable = false) :
    RailOnly s (l.foldl (fun s c => leaveCtx s c true) s) ∧
      ∀ c ∈ l, ((l.foldl (fun s c => leaveCtx s c true) s).ctx c).enable = false ∧
        ((l.foldl (fun s c => leaveCtx s c true) s).ctx c).resident = false := by
  induction l generalizing s with
  | nil => exact ⟨.rfl' s, fun _ hc => absurd hc List.not_mem_nil⟩
  | cons a r ih =>
    obtain ⟨hleave, henable, hresident⟩ := leaveCtx_off hs (hre a (List.mem_cons_self ..))
    obtain ⟨hrest, hoff⟩ := ih (hleave.canon hs)
      (fun c hc => (hleave.falls hs c).reEnable (hre c (List.mem_cons_of_mem _ hc)))
    refine ⟨hleave.trans' hrest, fun c hc => ?_⟩
    rcases List.mem_cons.1 hc with rfl | hc
    · have hfall := hrest.falls (hleave.canon hs) c
      exact ⟨hfall.enable henable, hfall.resident hresident⟩
    · exact hoff c hc

/-- A value that a table holds beside the default is listed. -/
theorem SMap.mem_of_get {α : Type} (m : List (Nat × α)) (d : α) (k : Nat) (h : SMap.get m d k ≠ d) : (k, SMap.get m d k) ∈ m := by
  induction m with
  | nil => exact absurd rfl h
  | cons p r ih =>
    obtain ⟨a, v⟩ := p
    simp only [SMap.get] at h ⊢
    split at h
    · exact absurd rfl h
    · next hlt =>
      rw [if_neg hlt]
      split at h
      · next heq =>
        rw [if_pos heq, heq]
        exact List.mem_cons_self ..
      · next hne =>
        rw [if_neg hne]
        exact List.mem_cons_of_mem _ (ih h)

/-- A context that runs on an engine or waits for it is among those that the engine names. -/
theorem State.mem_named {s : State} {c e : Nat} (he : (s.ctx c).use.engine = e)
    (h : (s.ctx c).enable = true ∨ (s.ctx c).resident = true) : c ∈ s.named e := by
  have hne : SMap.get s.ctxs {} c ≠ {} := fun hdef => by
    have hx : s.ctx c = {} := hdef
    rw [hx] at h
    rcases h with h | h <;> cases h
  refine List.mem_map.2 ⟨(c, s.ctx c), List.mem_filter.2 ⟨SMap.mem_of_get _ _ _ hne, ?_⟩, rfl⟩
  rcases h with h | h <;> simp [he, h]

/-- What a canonical table lists is what it holds. -/
theorem SMap.get_of_mem {α : Type} [DecidableEq α] {m : List (Nat × α)} {d : α} {lo k : Nat} {v : α} (h : SMap.wfFrom m d lo = true)
    (hv : (k, v) ∈ m) : lo ≤ k ∧ SMap.get m d k = v := by
  induction m generalizing lo with
  | nil => cases hv
  | cons p r ih =>
    obtain ⟨a, u⟩ := p
    simp only [SMap.wfFrom, Bool.and_eq_true, decide_eq_true_eq] at h
    obtain ⟨⟨hlo, -⟩, hr⟩ := h
    rcases List.mem_cons.1 hv with heq | hmem
    · obtain ⟨rfl, rfl⟩ := Prod.mk.injEq .. ▸ heq
      exact ⟨hlo, by simp [SMap.get]⟩
    · obtain ⟨hk, hget⟩ := ih hr hmem
      have hlt : ¬ k < a := by omega
      have hne : k ≠ a := by omega
      exact ⟨by omega, by rw [SMap.get, if_neg hlt, if_neg hne, hget]⟩

/-- A context that an engine names runs on it or waits for it. -/
theorem State.of_mem_named {s : State} (hs : s.Canon) {c e : Nat} (h : c ∈ s.named e) :
    (s.ctx c).use.engine = e ∧ ((s.ctx c).enable = true ∨ (s.ctx c).resident = true) := by
  obtain ⟨⟨k, x⟩, hmem, rfl⟩ := List.mem_map.1 h
  obtain ⟨hlisted, hnamed⟩ := List.mem_filter.1 hmem
  have hx : s.ctx k = x := (SMap.get_of_mem hs.ctx hlisted).2
  simp only [Bool.and_eq_true, beq_iff_eq, Bool.or_eq_true] at hnamed
  obtain ⟨heng, hrun⟩ := hnamed
  exact ⟨hx ▸ heng, hx ▸ hrun.symm⟩

/-! ## An engine put in OFF at once -/

/-- What the contexts of an engine held for an enable is dropped. -/
def dropReEnables (s : State) (e : Nat) : State :=
  (s.named e).foldl (fun s c => s.modCtx c (fun x => { x with reEnable := false })) s

theorem dropReEnables_facts {s : State} (hs : s.Canon) (e : Nat) :
    RailOnly s (dropReEnables s e) ∧ ∀ c ∈ s.named e, ((dropReEnables s e).ctx c).reEnable = false := by
  have hfold (l : List Nat) (s : State) (hs : s.Canon) :
      RailOnly s (l.foldl (fun s c => s.modCtx c (fun x => { x with reEnable := false })) s) ∧
        ∀ c ∈ l, ((l.foldl (fun s c => s.modCtx c (fun x => { x with reEnable := false })) s).ctx c).reEnable = false := by
    induction l generalizing s with
    | nil => exact ⟨.rfl' s, fun _ hc => absurd hc List.not_mem_nil⟩
    | cons a r ih =>
      have hhead : RailOnly s (s.modCtx a (fun x => { x with reEnable := false })) :=
        .modCtx s a (fun _ => ⟨rfl, id, id, fun _ => rfl⟩)
      obtain ⟨hrest, hoff⟩ := ih _ (hhead.canon hs)
      refine ⟨hhead.trans' hrest, fun c hc => ?_⟩
      rcases List.mem_cons.1 hc with rfl | hc
      · refine (hrest.falls (hhead.canon hs) c).reEnable ?_
        rw [State.modCtx, State.ctx_setCtx_of_canon hs, if_pos rfl]
      · exact hoff c hc
  exact hfold _ s hs

/-- Every context of an engine leaves, and its write-combining entries are lost. -/
def leaveAll (s : State) (e : Nat) : State :=
  ((s.named e).foldl (fun s c => leaveCtx s c true) (leaveCut s e)).dropWc e

/-- An engine's port after the engine has lost its state. -/
def portOff (s : State) (e : Nat) : State := if isPe e then s.modLink (e - 96) linkOff else issueStack s (e / 8)

theorem goOff_eq (s : State) (e : Nat) : goOff s e = portOff ((leaveAll s e).modEng e engineOff) e := rfl

/-- What an engine's fall drops before the engine goes OFF. -/
def dropFalling (s : State) (e : Nat) : State :=
  (dropReEnables (s.modEng e (fun x => { x with sampEff := false, ctxEff := false })) e).dropHeldIn e 4

theorem cutOff_eq (s : State) (e : Nat) :
    cutOff s e = (goOff (dropFalling s e) e).modEng e (fun x => { x with enable := false, linkEn := false }) := rfl

/-- A context that neither runs nor waits. -/
structure Ctx.Gone (x : Ctx) : Prop where
  enable : x.enable = false
  resident : x.resident = false

theorem Ctx.Gone.of_falls {x y : Ctx} (h : x.Gone) (k : x.Falls y) : y.Gone := ⟨k.enable h.enable, k.resident h.resident⟩

/-- A bit that only falls was set before if it is set after. -/
theorem eq_true_of_falls {a b : Bool} (h : a = false → b = false) (hb : b = true) : a = true := by
  cases a with
  | true => rfl
  | false => exact absurd ((h rfl).symm.trans hb) (by decide)

theorem dropFalling_facts {s : State} (hs : s.Canon) (e : Nat) :
    RailOnly s (dropFalling s e) ∧ ∀ c ∈ (dropFalling s e).named e, ((dropFalling s e).ctx c).reEnable = false := by
  have hmark : RailOnly s (s.modEng e (fun x => { x with sampEff := false, ctxEff := false })) := .modEng s e (fun _ => rfl)
  unfold dropFalling
  generalize s.modEng e (fun x => { x with sampEff := false, ctxEff := false }) = u at *
  obtain ⟨hdrop, hnamed⟩ := dropReEnables_facts (hmark.canon hs) e
  have hheld := RailOnly.dropHeldIn (dropReEnables u e) e 4
  have hu := hmark.canon hs
  have hfall := hdrop.trans' hheld
  refine ⟨hmark.trans' hfall, fun c hc => ?_⟩
  obtain ⟨heng, hrun⟩ := State.of_mem_named (hfall.canon hu) hc
  have hkeep := hfall.falls hu c
  refine ((hheld.falls (hdrop.canon hu) c).reEnable (hnamed c (State.mem_named (hkeep.use ▸ heng) ?_)))
  rcases hrun with hrun | hrun
  · exact .inl (eq_true_of_falls hkeep.enable hrun)
  · exact .inr (eq_true_of_falls hkeep.resident hrun)

theorem leaveAll_facts {s : State} (hs : s.Canon) {e : Nat} (hre : ∀ c ∈ s.named e, (s.ctx c).reEnable = false) :
    RailOnly s (leaveAll s e) ∧ ∀ c, (s.ctx c).use.engine = e → ((leaveAll s e).ctx c).Gone := by
  have hcut := RailOnly.leaveCut s e
  obtain ⟨hleave, hgone⟩ := leaveCtxs_off (hcut.canon hs) (s.named e) (fun c hc => (hcut.falls hs c).reEnable (hre c hc))
  have hwc := RailOnly.dropWc ((s.named e).foldl (fun s c => leaveCtx s c true) (leaveCut s e)) e
  have hall := (hcut.trans' hleave).trans' hwc
  refine ⟨hall, fun c hc => ?_⟩
  by_cases hnamed : c ∈ s.named e
  · obtain ⟨henable, hresident⟩ := hgone c hnamed
    exact Ctx.Gone.of_falls ⟨henable, hresident⟩ (hwc.falls (hleave.canon (hcut.canon hs)) c)
  · have hidle : (s.ctx c).Gone :=
      ⟨Bool.eq_false_iff.2 fun h => hnamed (State.mem_named hc (.inl h)),
        Bool.eq_false_iff.2 fun h => hnamed (State.mem_named hc (.inr h))⟩
    exact hidle.of_falls (hall.falls hs c)

theorem RailOnly.issueStack (s : State) (k : Nat) : RailOnly s (issueStack s k) := by
  refine ofEng ?_ (.issueStack s k)
  unfold Machine.issueStack
  refine EngOnly.stack (EngOnly.trans' ?_ (.foldl (fun s _ => .presentReq s _ _ _ _) _ _)) _
  exact .foldl (fun s _ => .forN (fun s _ => .presentReq s _ _ _ _) _ _) s _

theorem RailOnly.portOff (s : State) (e : Nat) : RailOnly s (portOff s e) := by
  unfold Machine.portOff
  split
  · exact modLink s _ _
  · exact issueStack s _

/-- What an engine keeps in the always-on island through OFF. -/
def Engine.aon (x : Engine) : Engine :=
  { bootFail := x.bootFail, linkUp := x.linkUp, freq := x.freq, linkCfg := x.linkCfg, fenced := x.fenced }

/-- Engines with equal island parts keep the same through OFF. -/
theorem Engine.aon_of_island {x y : Engine} (h : y.island = x.island) : y.aon = x.aon := (congrArg Engine.aon h :)

/-- An engine in OFF that nothing starts again. -/
structure Engine.Down (x : Engine) : Prop where
  st : x.st = .off
  enable : x.enable = false
  linkEn : x.linkEn = false

theorem Engine.Down.of_island {x y : Engine} (hx : x.Down) (h : y.island = x.island) : y.Down :=
  ⟨(congrArg Engine.st h).trans hx.st, (congrArg Engine.enable h).trans hx.enable, (congrArg Engine.linkEn h).trans hx.linkEn⟩

/-- What the fall of the engines of a list leaves. -/
structure RailCut (l : List Nat) (s t : State) : Prop where
  words : IslandWords s t
  canon : t.Canon
  aon : ∀ j, (t.eng j).aon = (s.eng j).aon
  down : ∀ j ∈ l, (t.eng j).Down
  stays : ∀ j, (s.eng j).Down → (t.eng j).Down
  falls : ∀ c, (s.ctx c).Falls (t.ctx c)
  gone : ∀ c, (s.ctx c).use.engine ∈ l → (t.ctx c).Gone

theorem RailCut.cons {e : Nat} {l : List Nat} {s t u : State} (h : RailCut [e] s t) (k : RailCut l t u) : RailCut (e :: l) s u where
  words := h.words.trans' k.words
  canon := k.canon
  aon := fun j => (k.aon j).trans (h.aon j)
  down := fun j hj => by
    rcases List.mem_cons.1 hj with rfl | hj
    · exact k.stays j (h.down j (List.mem_singleton.2 rfl))
    · exact k.down j hj
  stays := fun j hj => k.stays j (h.stays j hj)
  falls := fun c => (h.falls c).trans' (k.falls c)
  gone := fun c hc => by
    rcases List.mem_cons.1 hc with hc | hc
    · exact (h.gone c (List.mem_singleton.2 hc)).of_falls (k.falls c)
    · exact k.gone c ((h.falls c).use.symm ▸ hc)

/-- Operations before an engine's fall that only let contexts fall. -/
theorem RailCut.after {l : List Nat} {s t u : State} (hs : s.Canon) (h : RailOnly s t) (k : RailCut l t u) : RailCut l s u where
  words := h.words.trans' k.words
  canon := k.canon
  aon := fun j => (k.aon j).trans (Engine.aon_of_island (h.island hs j))
  down := k.down
  stays := fun j hj => k.stays j (hj.of_island (h.island hs j))
  falls := fun c => (h.falls hs c).trans' (k.falls c)
  gone := fun c hc => k.gone c ((h.falls hs c).use.symm ▸ hc)

/-- An engine whose contexts are gone loses its state and goes down. -/
theorem railCut_engineOff {s : State} (hs : s.Canon) {e : Nat} (hgone : ∀ c, (s.ctx c).use.engine = e → (s.ctx c).Gone) :
    RailCut [e] s ((portOff (s.modEng e engineOff) e).modEng e (fun x => { x with enable := false, linkEn := false })) := by
  have hoff : (s.modEng e engineOff).Canon := ⟨SMap.wf_set _ _ _ _ hs.eng, hs.ctx⟩
  have hread (j : Nat) := State.eng_setEng_of_canon hs e (engineOff (s.eng e)) j
  have hport := RailOnly.portOff (s.modEng e engineOff) e
  have hwords : IslandWords s (s.modEng e engineOff) := ⟨rfl, rfl, rfl, rfl, rfl, rfl, rfl, rfl, rfl⟩
  change ∀ j, (s.modEng e engineOff).eng j = _ at hread
  have hctx (c : Nat) : (s.modEng e engineOff).ctx c = s.ctx c := rfl
  generalize s.modEng e engineOff = t at *
  have hcanon := hport.canon hoff
  have hisl := hport.island hoff
  have hfalls (c : Nat) : (s.ctx c).Falls ((portOff t e).ctx c) := hctx c ▸ hport.falls hoff c
  have hwords := hwords.trans' hport.words
  generalize portOff t e = u at *
  have hlast (j : Nat) := State.eng_setEng_of_canon hcanon e { u.eng e with enable := false, linkEn := false } j
  change ∀ j, (u.modEng e (fun x => { x with enable := false, linkEn := false })).eng j = _ at hlast
  refine ⟨hwords.trans' ⟨rfl, rfl, rfl, rfl, rfl, rfl, rfl, rfl, rfl⟩, ⟨SMap.wf_set _ _ _ _ hcanon.eng, hcanon.ctx⟩,
    fun j => ?_, fun j hj => ?_, fun j hj => ?_, hfalls, fun c hc => (hgone c (List.mem_singleton.1 hc)).of_falls (hfalls c)⟩
  · have haon := Engine.aon_of_island (hisl j)
    rw [hread j] at haon
    rw [hlast j]
    split
    · next hj =>
      subst hj
      exact haon.trans (by rw [if_pos rfl]; rfl)
    · next hj => exact haon.trans (by rw [if_neg hj])
  · obtain rfl := List.mem_singleton.1 hj
    have hst := congrArg Engine.st (hisl j)
    rw [hlast j, if_pos rfl]
    exact ⟨hst.trans (by rw [hread j, if_pos rfl]; rfl), rfl, rfl⟩
  · rw [hlast j]
    split
    · next hje =>
      have hst := congrArg Engine.st (hisl e)
      exact ⟨hst.trans (by rw [hread e, if_pos rfl]; rfl), rfl, rfl⟩
    · next hje => exact Engine.Down.of_island (by rw [hread j, if_neg hje]; exact hj) (hisl j)

theorem railCut_cutOff {s : State} (hs : s.Canon) (e : Nat) : RailCut [e] s (cutOff s e) := by
  obtain ⟨hdrop, hre⟩ := dropFalling_facts hs e
  rw [cutOff_eq, goOff_eq]
  generalize dropFalling s e = u at *
  have hu := hdrop.canon hs
  obtain ⟨hleave, hgone⟩ := leaveAll_facts hu hre
  refine .after hs hdrop (.after hu hleave (railCut_engineOff (hleave.canon hu) (fun c hc => hgone c ?_)))
  exact (hleave.falls hu c).use ▸ hc

theorem railCut_foldl {s : State} (hs : s.Canon) (l : List Nat) : RailCut l s (l.foldl cutOff s) := by
  induction l generalizing s with
  | nil => exact ⟨.rfl' s, hs, fun _ => rfl, fun _ hj => absurd hj List.not_mem_nil, fun _ hj => hj, fun _ => .rfl' _,
      fun _ hc => absurd hc List.not_mem_nil⟩
  | cons e r ih =>
    have hhead := railCut_cutOff hs e
    exact hhead.cons (ih hhead.canon)

end Sys2Proof.Machine
end

section
/-! Fabric reset (R344): after what engines have asked of memory, the cut and what contexts hold is dropped, an engine put in OFF at
once changes nothing but itself, its contexts, its link and what waits. -/

namespace Sys2Proof.Machine

/-! ## What fabric reset keeps -/

/-- The words of a context that fabric reset leaves. -/
def Ctx.setup (x : Ctx) : Ctx :=
  { reg := x.reg, refused := x.refused, use := x.use, sqTail := x.sqTail, sqHead := x.sqHead, cqTail := x.cqTail, cqHead := x.cqHead
    ringErr := x.ringErr }

/-- What fabric reset leaves of a link. -/
def Link.setup (l : Link) : Link := { jobSel := l.jobSel, paused := l.paused }

/-- What fabric reset leaves of an engine. -/
def Engine.remains (x : Engine) : Engine :=
  { bootFail := x.bootFail, linkUp := x.linkUp, freq := x.freq, linkCfg := x.linkCfg }

/-- An engine's fence and error history cleared. -/
def Engine.cleared (x : Engine) : Engine := { x with fenced := false, unitErr := [], lastDet := [] }

/-- An engine with no more than OFF leaves. -/
def Engine.Bare (x : Engine) : Prop := x.cleared = x.remains

theorem Engine.remains_of_aon {x y : Engine} (h : y.aon = x.aon) : y.remains = x.remains := (congrArg Engine.remains h :)

/-- Words, tables and memory that no engine's fall changes in a calm state. -/
structure FabricWords (s t : State) : Prop where
  pins : t.pins = s.pins
  mem : t.mem = s.mem
  img : t.img = s.img
  time : t.time = s.time
  pwr : t.pwr = s.pwr
  coreWeight : t.coreWeight = s.coreWeight
  groupBase : t.groupBase = s.groupBase
  epoch : t.epoch = s.epoch
  epochDone : t.epochDone = s.epochDone
  windows : t.windows = s.windows
  pds : t.pds = s.pds
  testRegs : t.testRegs = s.testRegs
  pending : t.pending = s.pending
  dom : t.dom = s.dom
  err : t.err = s.err
  samp : t.samp = s.samp
  trace : t.trace = s.trace
  inlines : t.inlines = s.inlines

theorem FabricWords.rfl' (s : State) : FabricWords s s :=
  ⟨rfl, rfl, rfl, rfl, rfl, rfl, rfl, rfl, rfl, rfl, rfl, rfl, rfl, rfl, rfl, rfl, rfl, rfl⟩

theorem FabricWords.trans' {s t u : State} (h : FabricWords s t) (k : FabricWords t u) : FabricWords s u := by
  cases h; cases k; constructor <;> simp_all

/-- Nothing waits for memory, for the cut, for an enable, a doorbell or a flush; the tables are in canonical form. -/
structure State.Calm (s : State) : Prop where
  canon : s.Canon
  links : SMap.wf s.links {} = true
  reqs : ∀ e, (s.eng e).reqs = []
  part : ∀ e, (s.eng e).cut.part = false
  reEnable : ∀ c, (s.ctx c).reEnable = false
  heldDb : ∀ c, (s.ctx c).heldDb = []
  flushing : ∀ i, (s.inl i).flushing = false

/-- From a calm `s` to `t` engine `e` falls. -/
structure FabricKept (e : Nat) (s t : State) : Prop where
  words : FabricWords s t
  calm : t.Calm
  other : ∀ j, j ≠ e → t.eng j = s.eng j
  aon : (t.eng e).aon = (s.eng e).aon
  eff : (s.eng e).ctxEff = false → (t.eng e).ctxEff = false
  link : ∀ p, (t.link p).setup = (s.link p).setup
  ctx : ∀ c, (t.ctx c).setup = (s.ctx c).setup

namespace FabricKept

variable {e : Nat} {s t u : State}

theorem rfl' (hs : s.Calm) : FabricKept e s s := ⟨.rfl' s, hs, fun _ _ => rfl, rfl, id, fun _ => rfl, fun _ => rfl⟩

theorem trans' (h : FabricKept e s t) (k : FabricKept e t u) : FabricKept e s u where
  words := h.words.trans' k.words
  calm := k.calm
  other := fun j hj => (k.other j hj).trans (h.other j hj)
  aon := k.aon.trans h.aon
  eff := k.eff ∘ h.eff
  link := fun p => (k.link p).trans (h.link p)
  ctx := fun c => (k.ctx c).trans (h.ctx c)

theorem use (h : FabricKept e s t) (c : Nat) : (t.ctx c).use = (s.ctx c).use := (congrArg Ctx.use (h.ctx c) :)

theorem foldl {α : Type} {f : State → α → State} (hf : ∀ t x, t.Calm → FabricKept e t (f t x)) (hs : s.Calm) (l : List α) :
    FabricKept e s (l.foldl f s) := by
  induction l generalizing s with
  | nil => exact rfl' hs
  | cons x r ih => exact (hf s x hs).trans' (ih (hf s x hs).calm)

/-- Operations that leave the tables of engines, contexts and links. -/
theorem ofTables (hs : s.Calm) (hw : FabricWords s t) (he : t.engines = s.engines) (hc : t.ctxs = s.ctxs) (hl : t.links = s.links) :
    FabricKept e s t := by
  have heng (j : Nat) : t.eng j = s.eng j := by rw [State.eng, he, State.eng]
  have hctx (c : Nat) : t.ctx c = s.ctx c := by rw [State.ctx, hc, State.ctx]
  have hlink (p : Nat) : t.link p = s.link p := by rw [State.link, hl, State.link]
  have hinl (i : Nat) : t.inl i = s.inl i := by rw [State.inl, hw.inlines, State.inl]
  refine ⟨hw, ⟨⟨he ▸ hs.canon.eng, hc ▸ hs.canon.ctx⟩, hl ▸ hs.links, fun j => ?_, fun j => ?_, fun c => ?_, fun c => ?_,
    fun i => ?_⟩, fun j _ => heng j, congrArg Engine.aon (heng e), fun h => by rw [heng]; exact h,
    fun p => congrArg Link.setup (hlink p), fun c => congrArg Ctx.setup (hctx c)⟩
  · rw [heng]; exact hs.reqs j
  · rw [heng]; exact hs.part j
  · rw [hctx]; exact hs.reEnable c
  · rw [hctx]; exact hs.heldDb c
  · rw [hinl]; exact hs.flushing i

theorem setEng (hs : s.Calm) {v : Engine} (haon : v.aon = (s.eng e).aon) (hreqs : v.reqs = []) (hpart : v.cut.part = false)
    (heff : (s.eng e).ctxEff = false → v.ctxEff = false) : FabricKept e s (s.setEng e v) := by
  have hread := State.eng_setEng_of_canon hs.canon e v
  have hsame : (s.setEng e v).eng e = v := (hread e).trans (if_pos rfl)
  refine ⟨⟨rfl, rfl, rfl, rfl, rfl, rfl, rfl, rfl, rfl, rfl, rfl, rfl, rfl, rfl, rfl, rfl, rfl, rfl⟩,
    ⟨⟨SMap.wf_set _ _ _ _ hs.canon.eng, hs.canon.ctx⟩, hs.links, fun j => ?_, fun j => ?_, hs.reEnable, hs.heldDb, hs.flushing⟩,
    fun j hj => (hread j).trans (if_neg hj), (congrArg Engine.aon hsame).trans haon,
    fun h => (congrArg Engine.ctxEff hsame).trans (heff h), fun _ => rfl, fun _ => rfl⟩
  · rw [hread]; split
    · exact hreqs
    · exact hs.reqs j
  · rw [hread]; split
    · exact hpart
    · exact hs.part j

theorem modEng (hs : s.Calm) {f : Engine → Engine} (haon : ∀ x, (f x).aon = x.aon) (hreqs : ∀ x, x.reqs = [] → (f x).reqs = [])
    (hpart : ∀ x, x.cut.part = false → (f x).cut.part = false) (heff : ∀ x, x.ctxEff = false → (f x).ctxEff = false) :
    FabricKept e s (s.modEng e f) :=
  setEng hs (haon _) (hreqs _ (hs.reqs e)) (hpart _ (hs.part e)) (heff _)

theorem setCtx (hs : s.Calm) {c : Nat} {v : Ctx} (hv : v.setup = (s.ctx c).setup) (hre : v.reEnable = false)
    (hdb : v.heldDb = []) : FabricKept e s (s.setCtx c v) := by
  have hread := State.ctx_setCtx_of_canon hs.canon c v
  refine ⟨⟨rfl, rfl, rfl, rfl, rfl, rfl, rfl, rfl, rfl, rfl, rfl, rfl, rfl, rfl, rfl, rfl, rfl, rfl⟩,
    ⟨⟨hs.canon.eng, SMap.wf_set _ _ _ _ hs.canon.ctx⟩, hs.links, hs.reqs, hs.part, fun x => ?_, fun x => ?_, hs.flushing⟩,
    fun _ _ => rfl, rfl, id, fun _ => rfl, fun x => ?_⟩
  · rw [hread]; split
    · exact hre
    · exact hs.reEnable x
  · rw [hread]; split
    · exact hdb
    · exact hs.heldDb x
  · rw [hread]; split
    · next hx => exact hx ▸ hv
    · rfl

theorem modLink (hs : s.Calm) (p : Nat) {f : Link → Link} (hf : ∀ l, (f l).setup = l.setup) : FabricKept e s (s.modLink p f) := by
  refine ⟨⟨rfl, rfl, rfl, rfl, rfl, rfl, rfl, rfl, rfl, rfl, rfl, rfl, rfl, rfl, rfl, rfl, rfl, rfl⟩,
    ⟨⟨hs.canon.eng, hs.canon.ctx⟩, SMap.wf_set _ _ _ _ hs.links, hs.reqs, hs.part, hs.reEnable, hs.heldDb, hs.flushing⟩,
    fun _ _ => rfl, rfl, id, fun q => ?_, fun _ => rfl⟩
  by_cases hq : q = p
  · have hread : (s.modLink p f).link q = f (s.link p) := hq ▸ SMap.get_set_same _ _ _ _ 0 hs.links
    rw [hread, hf, hq]
  · have hread : (s.modLink p f).link q = s.link q := SMap.get_set_other _ _ _ _ _ 0 hs.links hq
    rw [hread]

end FabricKept

/-! ## An engine falls in a calm state -/

/-- The responses of an access change the accesses that are open, and outputs. -/
theorem drainAccess_eq (s : State) (a : OpenAccess) (n : Nat) :
    ∃ o l, drainAccess s a n = { s with outputs := o, accesses := l } := by
  induction n generalizing s a with
  | zero => exact ⟨s.outputs, _, rfl⟩
  | succ n ih =>
    rw [drainAccess]
    split
    · obtain ⟨o, l, h⟩ := ih (s.out _) { a with next := a.next + 1 }
      exact ⟨o, l, h⟩
    · exact ⟨s.outputs, _, rfl⟩

theorem respond_eq (s : State) (p : HeldInline) (code : Nat) (data : List Byte) :
    ∃ o l, respond s p code data = { s with outputs := o, accesses := l } := by
  unfold respond
  split
  · split
    · exact ⟨_, s.accesses, rfl⟩
    · exact drainAccess_eq s _ _
  · exact ⟨_, s.accesses, rfl⟩

/-- With no request at an engine none is presented. -/
theorem presentReq_of_none {s : State} {e : Nat} (h : (s.eng e).reqs = []) (net : Bool) (p : Req → Bool) (tag : Option Nat) :
    presentReq s e net p tag = s := by
  unfold presentReq
  split
  · next hfind =>
    rw [h] at hfind
    cases hfind
  · rfl

namespace State.Calm

variable {s : State}

theorem leaveCut_eq (hs : s.Calm) (e : Nat) : leaveCut s e = s :=
  if_neg (by rw [hs.part e]; exact Bool.false_ne_true)

theorem flushEnd_eq (hs : s.Calm) (i : Nat) : s.flushEnd i = s := by
  unfold State.flushEnd
  exact if_pos (by rw [hs.flushing i]; rfl)

theorem issueStack_eq (hs : s.Calm) (k : Nat) : ∃ m, issueStack s k = { s with stackDef := m } := by
  have hdirect : (stackSes k).foldl (fun s e =>
      forN ((s.eng e).reqs.filter (fun r => r.waits false && !s.arbitrated e r)).length s (fun s _ =>
        presentReq s e false (fun r => !s.arbitrated e r) (freeTag (s.stackTags k)))) s = s :=
    foldl_fixed _ _ _ (fun e _ => by rw [hs.reqs e]; rfl)
  unfold issueStack
  rw [hdirect]
  extract_lets _ l r v
  have hv : v = s := foldl_fixed _ _ _ (fun _ _ => presentReq_of_none (hs.reqs _) _ _ _)
  exact ⟨_, by rw [hv]⟩

theorem releaseDoorbells_eq (hs : s.Calm) (c : Nat) :
    releaseDoorbells s c = s.modCtx c (fun x => { x with heldDb := [] }) := by
  unfold releaseDoorbells
  rw [hs.heldDb c]
  rfl

end State.Calm

namespace FabricKept

variable {e : Nat} {s : State}

theorem dropHeldIn (hs : s.Calm) (code : Nat) : FabricKept e s (s.dropHeldIn e code) := by
  have hhead : FabricKept e s (s.modEng e (fun x => { x with heldIn := [] })) :=
    modEng hs (fun _ => rfl) (fun _ => id) (fun _ => id) (fun _ => id)
  refine hhead.trans' (foldl (fun t x ht => ?_) hhead.calm _)
  obtain ⟨o, l, heq⟩ := respond_eq t x code []
  rw [heq]
  exact ofTables ht ⟨rfl, rfl, rfl, rfl, rfl, rfl, rfl, rfl, rfl, rfl, rfl, rfl, rfl, rfl, rfl, rfl, rfl, rfl⟩ rfl rfl rfl

theorem dropReEnables (hs : s.Calm) : FabricKept e s (dropReEnables s e) :=
  foldl (fun t c ht => setCtx (v := { t.ctx c with reEnable := false }) ht rfl rfl (ht.heldDb c)) hs _

theorem dropFalling (hs : s.Calm) : FabricKept e s (dropFalling s e) ∧ ((Machine.dropFalling s e).eng e).ctxEff = false := by
  have hmark : FabricKept e s (s.modEng e (fun x => { x with sampEff := false, ctxEff := false })) :=
    modEng hs (fun _ => rfl) (fun _ => id) (fun _ => id) (fun _ _ => rfl)
  have heff : ((s.modEng e (fun x => { x with sampEff := false, ctxEff := false })).eng e).ctxEff = false :=
    congrArg Engine.ctxEff ((State.eng_setEng_of_canon hs.canon e _ e).trans (if_pos rfl))
  have hdrop := (dropReEnables hmark.calm).trans' (dropHeldIn (e := e) (dropReEnables hmark.calm).calm 4)
  exact ⟨hmark.trans' hdrop, hdrop.eff heff⟩

theorem releaseTargets (hs : s.Calm) (c : Nat) : FabricKept e s (releaseTargets s c) := by
  refine foldl (fun t d ht => ?_) hs _
  split
  · exact setCtx ht rfl (ht.reEnable _) (ht.heldDb _)
  split
  · have hfree (k : Nat) : FabricKept e t (t.modCtx k (fun x => { x with restoring := false })) :=
      setCtx ht rfl (ht.reEnable _) (ht.heldDb _)
    rw [(hfree _).calm.releaseDoorbells_eq]
    exact (hfree _).trans' (setCtx (hfree _).calm rfl ((hfree _).calm.reEnable _) rfl)
  · exact rfl' ht

theorem leaveCtx (hs : s.Calm) {c : Nat} (he : (s.ctx c).use.engine = e) (heff : (s.eng e).ctxEff = false) :
    FabricKept e s (leaveCtx s c true) := by
  unfold Machine.leaveCtx
  extract_lets u x k v w again y z
  have hu : FabricKept e s u := releaseTargets hs c
  have hk : k = e := (congrArg CtxSet.engine (hu.use c)).trans he
  have hv : v = u := if_neg (by
    rw [hk, hu.eff heff, Bool.and_false, Bool.false_and]
    exact Bool.false_ne_true)
  have hagain : again = false := by simp only [again, x, hu.calm.reEnable c, Bool.false_and]
  have hw : FabricKept e u w := by
    simp only [w, hk, hv]
    exact modEng hu.calm (fun _ => rfl) (fun _ => id) (fun _ => id) (fun _ => id)
  have hy : FabricKept e w y := setCtx hw.calm (hw.ctx c).symm rfl rfl
  have hz : FabricKept e y z :=
    ofTables hy.calm ⟨rfl, rfl, rfl, rfl, rfl, rfl, rfl, rfl, rfl, rfl, rfl, rfl, rfl, rfl, rfl, rfl, rfl, rfl⟩ rfl rfl rfl
  rw [if_neg (by rw [hagain]; exact Bool.false_ne_true)]
  exact ((hu.trans' hw).trans' hy).trans' hz

theorem leaveCtxs (hs : s.Calm) (heff : (s.eng e).ctxEff = false) (l : List Nat) (hl : ∀ c ∈ l, (s.ctx c).use.engine = e) :
    FabricKept e s (l.foldl (fun s c => Machine.leaveCtx s c true) s) := by
  induction l generalizing s with
  | nil => exact rfl' hs
  | cons a r ih =>
    have hhead := leaveCtx hs (hl a (List.mem_cons_self ..)) heff
    exact hhead.trans' (ih hhead.calm (hhead.eff heff) (fun c hc =>
      (congrArg CtxSet.engine (hhead.use c)).trans (hl c (List.mem_cons_of_mem _ hc))))

theorem dropWc (hs : s.Calm) : FabricKept e s (s.dropWc e) := by
  have hhead : FabricKept e s (s.modEng e (fun x => { x with wc := [] })) :=
    modEng hs (fun _ => rfl) (fun _ => id) (fun _ => id) (fun _ => id)
  refine hhead.trans' (foldl (fun t i ht => ?_) hhead.calm _)
  rw [ht.flushEnd_eq]
  exact rfl' ht

theorem leaveAll (hs : s.Calm) (heff : (s.eng e).ctxEff = false) : FabricKept e s (leaveAll s e) := by
  unfold Machine.leaveAll
  rw [hs.leaveCut_eq]
  have hleave := leaveCtxs hs heff (s.named e) (fun c hc => (State.of_mem_named hs.canon hc).1)
  exact hleave.trans' (dropWc hleave.calm)

/-- The port of an engine in OFF leaves every engine as it is. -/
theorem portOff (hs : s.Calm) : FabricKept e s (portOff s e) ∧ ∀ j, (Machine.portOff s e).eng j = s.eng j := by
  unfold Machine.portOff
  split
  · exact ⟨modLink hs _ (fun _ => rfl), fun _ => rfl⟩
  · obtain ⟨m, heq⟩ := hs.issueStack_eq (e / 8)
    rw [heq]
    exact ⟨ofTables hs ⟨rfl, rfl, rfl, rfl, rfl, rfl, rfl, rfl, rfl, rfl, rfl, rfl, rfl, rfl, rfl, rfl, rfl, rfl⟩ rfl rfl rfl,
      fun _ => rfl⟩

theorem engineOff (hs : s.Calm) : FabricKept e s (s.modEng e engineOff) :=
  modEng hs (fun _ => rfl) (fun _ _ => rfl) (fun _ _ => rfl) (fun _ _ => rfl)

/-- An engine put in OFF at once in a calm state is left bare. -/
theorem cutOff (hs : s.Calm) : FabricKept e s (cutOff s e) ∧ ((Machine.cutOff s e).eng e).Bare := by
  obtain ⟨hdrop, heff⟩ := dropFalling (e := e) hs
  rw [cutOff_eq, goOff_eq]
  have hleave := hdrop.trans' (leaveAll hdrop.calm heff)
  generalize Machine.leaveAll (Machine.dropFalling s e) e = u at *
  have hoff := engineOff (e := e) hleave.calm
  have hbare := (State.eng_setEng_of_canon hleave.calm.canon e (Machine.engineOff (u.eng e)) e).trans (if_pos rfl)
  change (u.modEng e Machine.engineOff).eng e = _ at hbare
  generalize u.modEng e Machine.engineOff = v at *
  obtain ⟨hport, hsame⟩ := portOff (e := e) hoff.calm
  have hlast : FabricKept e (Machine.portOff v e)
      ((Machine.portOff v e).modEng e (fun x => { x with enable := false, linkEn := false })) :=
    modEng hport.calm (fun _ => rfl) (fun _ => id) (fun _ => id) (fun _ => id)
  refine ⟨((hleave.trans' hoff).trans' hport).trans' hlast, ?_⟩
  have hread := (State.eng_setEng_of_canon hport.calm.canon e
    { (Machine.portOff v e).eng e with enable := false, linkEn := false } e).trans (if_pos rfl)
  rw [hsame, hbare] at hread
  unfold Engine.Bare
  rw [State.modEng, hsame, hbare, hread]
  rfl

end FabricKept

/-! ## Every engine falls -/

/-- What the fall of the engines of a list leaves in a calm state. -/
structure FabricCut (l : List Nat) (s t : State) : Prop where
  words : FabricWords s t
  calm : t.Calm
  aon : ∀ j, (t.eng j).aon = (s.eng j).aon
  bare : ∀ j ∈ l, (t.eng j).Bare
  stays : ∀ j, (s.eng j).Bare → (t.eng j).Bare
  link : ∀ p, (t.link p).setup = (s.link p).setup
  ctx : ∀ c, (t.ctx c).setup = (s.ctx c).setup

theorem fabricCut_foldl {s : State} (hs : s.Calm) (l : List Nat) : FabricCut l s (l.foldl cutOff s) := by
  induction l generalizing s with
  | nil => exact ⟨.rfl' s, hs, fun _ => rfl, fun _ hj => absurd hj List.not_mem_nil, fun _ => id, fun _ => rfl, fun _ => rfl⟩
  | cons e r ih =>
    obtain ⟨hhead, hbare⟩ := FabricKept.cutOff (e := e) hs
    have hrest := ih hhead.calm
    refine ⟨hhead.words.trans' hrest.words, hrest.calm, fun j => (hrest.aon j).trans ?_, fun j hj => ?_, fun j hj => hrest.stays j ?_,
      fun p => (hrest.link p).trans (hhead.link p), fun c => (hrest.ctx c).trans (hhead.ctx c)⟩
    · by_cases hj : j = e
      · exact hj ▸ hhead.aon
      · rw [hhead.other j hj]
    · rcases List.mem_cons.1 hj with rfl | hj
      · exact hrest.stays j hbare
      · exact hrest.bare j hj
    · by_cases hje : j = e
      · exact hje ▸ hbare
      · exact hhead.other j hje ▸ hj

/-! ## What is dropped first -/

/-- The state in which engines fall at a fabric reset. -/
def beforeFall (s : State) : State := dropHolds (dropCut s)

section
variable {s : State}

theorem beforeFall_eng (heng : SMap.wf s.engines {} = true) (e : Nat) :
    (beforeFall s).eng e = { s.eng e with cut := {}, reqs := [] } :=
  SMap.get_mapVals s.engines {} (fun x : Engine => { x with cut := {}, reqs := [] }) e 0 heng rfl

theorem beforeFall_ctx (hctx : SMap.wf s.ctxs {} = true) (c : Nat) :
    (beforeFall s).ctx c = { s.ctx c with reEnable := false, heldDb := [], saving := false, restoring := false } :=
  SMap.get_mapVals s.ctxs {} (fun x : Ctx => { x with reEnable := false, heldDb := [], saving := false, restoring := false })
    c 0 hctx rfl

theorem beforeFall_inl (hinl : SMap.wf s.inlines {} = true) (i : Nat) :
    (beforeFall s).inl i =
      { s.inl i with flushing := false, disabling := false, flushAgain := false, heldEnable := false } :=
  SMap.get_mapVals s.inlines {}
    (fun x : InlineWin => { x with flushing := false, disabling := false, flushAgain := false, heldEnable := false }) i 0 hinl rfl

theorem beforeFall_calm (heng : SMap.wf s.engines {} = true) (hctx : SMap.wf s.ctxs {} = true)
    (hinl : SMap.wf s.inlines {} = true) (hlinks : SMap.wf s.links {} = true) : (beforeFall s).Calm where
  canon := ⟨SMap.wfFrom_mapVals s.engines {} (fun x : Engine => { x with cut := {}, reqs := [] }) 0 heng,
    SMap.wfFrom_mapVals s.ctxs {}
      (fun x : Ctx => { x with reEnable := false, heldDb := [], saving := false, restoring := false }) 0 hctx⟩
  links := hlinks
  reqs := fun e => by rw [beforeFall_eng heng]
  part := fun e => by rw [beforeFall_eng heng]
  reEnable := fun c => by rw [beforeFall_ctx hctx]
  heldDb := fun c => by rw [beforeFall_ctx hctx]
  flushing := fun i => by rw [beforeFall_inl hinl]

/-- An engine that the table does not list is bare. -/
theorem bare_of_not_listed (heng : SMap.wf s.engines {} = true) {e : Nat} (h : e ∉ s.engines.map (·.1)) :
    ((beforeFall s).eng e).Bare := by
  have hdef : s.eng e = {} := by
    refine Classical.byContradiction fun hne => ?_
    exact h (List.mem_map.2 ⟨_, SMap.mem_of_get s.engines {} e hne, rfl⟩)
  rw [beforeFall_eng heng, hdef]
  rfl

end

/-! ## The whole reset -/

/-- The engines of a fabric after every listed one has fallen. -/
def afterFall (s : State) : State := (s.engines.map (·.1)).foldl cutOff (beforeFall s)

/-- The tables and words that a fabric reset clears once every engine is OFF. -/
def clearFabric (s : State) : State :=
  { s with
    engines := SMap.mapVals s.engines {} Engine.cleared
    links := SMap.mapVals s.links {} Link.setup
    ctxs := SMap.mapVals s.ctxs {} (fun x => { x with
      enable := false, resident := false, descs := [], live := [], shadow := [] })
    waitQ := []
    inlines := SMap.mapVals s.inlines {} (fun x => { x with
      enable := false, active := false, flushing := false, disabling := false, flushAgain := false, heldEnable := false
      initPending := false, lost := [] })
    dom := { s.dom with join := false, member := false, issuing := false, served := [], waiting := [], acks := [] }
    err := { s.err with on := false, degraded := false, unitErr := 0 }
    samp := { s.samp with on := false, ctxOn := false }
    trace := { s.trace with on := false, port := .idle, queue := [], since := [] }
    accesses := [], stackDef := [], pdHist := [] }

section
variable {s : State}

theorem clearFabric_eng (hs : s.Calm) (e : Nat) : (clearFabric s).eng e = (s.eng e).cleared :=
  SMap.get_mapVals s.engines {} Engine.cleared e 0 hs.canon.eng rfl

theorem clearFabric_link (hs : s.Calm) (p : Nat) : (clearFabric s).link p = (s.link p).setup :=
  SMap.get_mapVals s.links {} Link.setup p 0 hs.links rfl

theorem clearFabric_ctx (hs : s.Calm) (c : Nat) : (clearFabric s).ctx c =
    { s.ctx c with enable := false, resident := false, descs := [], live := [], shadow := [] } :=
  SMap.get_mapVals s.ctxs {} (fun x : Ctx => { x with
    enable := false, resident := false, descs := [], live := [], shadow := [] }) c 0 hs.canon.ctx rfl

theorem clearFabric_inl (hinl : SMap.wf s.inlines {} = true) (i : Nat) : (clearFabric s).inl i =
    { s.inl i with
      enable := false, active := false, flushing := false, disabling := false, flushAgain := false, heldEnable := false
      initPending := false, lost := [] } :=
  SMap.get_mapVals s.inlines {} (fun x : InlineWin => { x with
    enable := false, active := false, flushing := false, disabling := false, flushAgain := false, heldEnable := false
    initPending := false, lost := [] }) i 0 hinl rfl

end

/-- What the fall of every listed engine leaves for the reset to clear. -/
structure FallLeaves (s t : State) : Prop where
  words : FabricWords (beforeFall s) t
  calm : t.Calm
  eng : ∀ e, (t.eng e).cleared = (s.eng e).remains
  link : ∀ p, (t.link p).setup = (s.link p).setup
  ctx : ∀ c, (t.ctx c).setup = (s.ctx c).setup

theorem afterFall_leaves {s : State} (heng : SMap.wf s.engines {} = true) (hctx : SMap.wf s.ctxs {} = true)
    (hinl : SMap.wf s.inlines {} = true) (hlinks : SMap.wf s.links {} = true) : FallLeaves s (afterFall s) := by
  have hcut := fabricCut_foldl (beforeFall_calm heng hctx hinl hlinks) (s.engines.map (·.1))
  refine ⟨hcut.words, hcut.calm, fun e => ?_, hcut.link, fun c => (hcut.ctx c).trans ?_⟩
  · have hbare : ((afterFall s).eng e).Bare := by
      by_cases he : e ∈ s.engines.map (·.1)
      · exact hcut.bare e he
      · exact hcut.stays e (bare_of_not_listed heng he)
    refine hbare.trans ((Engine.remains_of_aon (hcut.aon e)).trans ?_)
    rw [beforeFall_eng heng]
    rfl
  · rw [beforeFall_ctx hctx]
    rfl

/-- FAB_RST_N is low. -/
def holdReset (s : State) : State := { s with pins := { s.pins with fabRstN := false } }

theorem execFabRstAssert_eq (s : State) :
    exec .fabRstAssert s = .next (fabReadyNow (clearFabric (afterFall (holdReset s)))) := rfl

theorem execFabRstRelease_eq (s : State) : exec .fabRstRelease s = .next { s with pins := { s.pins with
    fabRstN := true, fabReady := s.pins.aonPg && s.img.adopted.isSome } } := by
  have hready : (s.pins.aonPg && true) = s.pins.aonPg := Bool.and_true _
  change Host.Outcome.next (fabReadyNow { s with pins := { s.pins with fabRstN := true } }) = _
  unfold fabReadyNow
  rw [hready]

end Sys2Proof.Machine

namespace Sys2Proof.Laws
open Sys2Proof Sys2Proof.Machine

/-- Settles O60: what is dropped first leaves a calm state, in which an engine that falls changes only itself, its contexts and its
link; at the fall of a rail, contexts only fall and every engine keeps its island part. -/
theorem fabricReset : Obligations.FabricReset := by
  unfold Obligations.FabricReset
  intro s heng hctx hinl hlinks
  refine ⟨⟨_, execFabRstAssert_eq s, ?_⟩, execFabRstRelease_eq s, fun d => ?_, fun _ => rfl⟩
  · obtain ⟨hwords, hafter, heach, hlink, hsetup⟩ := afterFall_leaves (s := holdReset s) heng hctx hinl hlinks
    generalize afterFall (holdReset s) = t at *
    obtain ⟨hpins, hmem, himg, htime, hpwr, hcore, hgroup, hepoch, hdone, hwin, hpds, htest, hpending, hdom, herr, hsamp, htrace,
      hinlines⟩ := hwords
    have htable : SMap.wf t.inlines {} = true := hinlines ▸ SMap.wfFrom_mapVals s.inlines {}
      (fun x : InlineWin => { x with flushing := false, disabling := false, flushAgain := false, heldEnable := false }) 0 hinl
    have hwindow (i : Nat) : t.inl i = (beforeFall (holdReset s)).inl i := by rw [State.inl, hinlines, State.inl]
    refine ⟨?_, hmem, himg, htime, hpwr, hcore, hgroup, hepoch, hdone, hwin, hpds, rfl, rfl, rfl, rfl, htest, hpending, ?_, ?_, ?_, ?_,
      fun p => (clearFabric_link hafter p).trans (hlink p), fun e => (clearFabric_eng hafter e).trans (heach e), fun c => ?_,
      fun i => ?_⟩
    · change { t.pins with fabReady := t.pins.aonPg && t.pins.fabRstN && t.img.adopted.isSome } = _
      rw [hpins]
      change { s.pins with fabRstN := false, fabReady := s.pins.aonPg && false && t.img.adopted.isSome } = _
      rw [Bool.and_false, Bool.false_and]
    · exact congrArg (fun w : Domain => { w with
        join := false, member := false, issuing := false, served := [], waiting := [], acks := [] }) hdom
    · exact congrArg (fun w : ErrCfg => { w with on := false, degraded := false, unitErr := 0 }) herr
    · exact congrArg (fun w : SampCfg => { w with on := false, ctxOn := false }) hsamp
    · exact congrArg (fun w : Trace => { w with on := false, port := .idle, queue := [], since := [] }) htrace
    · have hread := clearFabric_ctx hafter c
      change (fabReadyNow (clearFabric t)).ctx c = _ at hread
      rw [hread]
      have hkeep := hsetup c
      exact ⟨rfl, rfl, rfl, (congrArg Ctx.reg hkeep :), (congrArg Ctx.refused hkeep :), (congrArg Ctx.sqTail hkeep :),
        (congrArg Ctx.sqHead hkeep :), (congrArg Ctx.cqTail hkeep :), (congrArg Ctx.cqHead hkeep :), (congrArg Ctx.ringErr hkeep :)⟩
    · have hread := clearFabric_inl htable i
      change (fabReadyNow (clearFabric t)).inl i = _ at hread
      rw [hread, hwindow, beforeFall_inl (s := holdReset s) hinl]
      exact ⟨rfl, rfl, rfl, rfl, rfl⟩
  · have hs : (({ s with pins := { s.pins with vddFab := s.pins.vddFab.set d false } } : State)).Canon := ⟨heng, hctx⟩
    obtain ⟨hwords, -, haon, hdown, -, -, hgone⟩ := railCut_foldl hs (allEngines.filter (fun e => dieOf e == d))
    have hlisted {e : Nat} (he : e < 128) (hd : dieOf e = d) : e ∈ allEngines.filter (fun e => dieOf e == d) :=
      List.mem_filter.2 ⟨List.mem_range.2 he, by simpa using hd⟩
    refine ⟨_, rfl, hwords.pins, hwords.img, hwords.time, hwords.epoch, hwords.windows, hwords.pds, hwords.err, hwords.dom,
      hwords.samp, fun e he hd => ?_, fun c hc hd => ?_⟩
    · obtain ⟨hst, henable, hlinkEn⟩ := hdown e (hlisted he hd)
      exact ⟨hst, henable, hlinkEn, (congrArg Engine.fenced (haon e) :), (congrArg Engine.bootFail (haon e) :),
        (congrArg Engine.freq (haon e) :)⟩
    · obtain ⟨henable, hresident⟩ := hgone c (hlisted hc hd)
      exact ⟨henable, hresident⟩

end Sys2Proof.Laws
end
